-- ==== Sys2Proof/Word.lean ====
section
/-!
DEFINITION. The word types of the BL24 and the plainest arithmetic on them: 32-bit words, bytes, and the
little-endian order of 00_scope.md ("Memory is little-endian").
-/

namespace Sys2Proof

/-- A 32-bit word of the single 32-bit address space and of every register (03_registers_and_map.md). -/
abbrev Word := BitVec 32

/-- One byte, the smallest unit of memory. -/
abbrev Byte := BitVec 8

end Sys2Proof
end

