-- ==== Sys2Proof/Syntax.lean ====
section
/-!
DEFINITION. The commands of the BL24: one constructor of `Instr` per row of spec/opcode_table.json, with the operands the
spec gives it. What the spec leaves to an arbiter, a pin, a wire, an analogue level, a measured duration or a physical
outcome is an operand of its command: every statement about a command holds for every such outcome (log entry 2).
-/

namespace Sys2Proof

/-- Stage cores SC0-SC7, masters 0-7 (R12). -/
abbrev Core := Fin 8

/-- Fabric masters 0-14 (R12). -/
abbrev Master := Fin 15

/-- General registers g0-g15 (R79). -/
abbrev Reg := BitVec 4

/-- Who makes a bus access: the master, and the channel when the master is DMA (R300). -/
structure Port where
  m  : Master
  ch : Fin 16
deriving DecidableEq, Repr

/-- What clocks and traffic decide about one word. `slip`: the beats of the word, and of a trap it takes, that are held open (R117).
`late`: the steps or beats by which its access, its drain or its buffer entry overran the count (R109, R120); a word without such an
access has none. `fetch`: the steps by which traffic delays the line that the word waits for (R109). `at_`: which of the 257 accesses
of RSSAVE and RSLOAD overran. -/
structure Pace where
  slip  : Nat
  late  : Nat
  fetch : Nat
  at_   : Nat
deriving DecidableEq, Repr

/-- One 15-bit slot of a pair word (R69). -/
structure Slot where
  op : BitVec 5
  d  : BitVec 4
  s  : BitVec 4
  m  : BitVec 2
deriving DecidableEq, Repr

/-- A fabric transaction that waits for admission (R152, R154). `kind` is 0 read, 1 write, 2 line fetch. -/
structure Txn where
  m     : Master
  ch    : Fin 16
  kind  : BitVec 2
  addr  : Word
  data  : Word
  bytes : Nat
deriving DecidableEq, Repr

/-- Who asks Elvuk (R229): the host on a Perup channel with the sequence of its request, or a stage core with the world
of its QPUT, its TAG and, for REQUEST_INDIRECT, the two areas of R224. -/
inductive Caller where
  | host (ch : Fin 4) (seq : BitVec 6)
  | core (c : Core) (secure : Bool) (tag : BitVec 16)
  | coreIndirect (c : Core) (secure : Bool) (tag : BitVec 16) (resAddr : Word) (resCap : Nat)
deriving DecidableEq, Repr

/-- One request to Elvuk: its caller and its argument bytes (R230). -/
structure Req where
  who  : Caller
  args : List Byte
deriving DecidableEq, Repr

/-- What one OTP pulse did to a word's 39 cells (R332-R337): the cells that read 1 at NORMAL and at STRICT after it. The
physical outcome is an operand. -/
structure Pulse where
  normal : BitVec 39
  strict : BitVec 39
deriving DecidableEq, Repr

/-- What a flash operation that fails its check leaves in its line or sector: the bytes it holds from its first address, and
whether its words read as uncorrectable (R276, R278). The physical outcome is an operand. -/
structure FlashLeft where
  bytes  : List Byte
  poison : Bool
deriving DecidableEq, Repr

/-- How the flash operations of one Elvuk command end: all as intended, or the first that fails, by its number from 0, with what
it leaves. -/
structure FlashFail where
  index : Nat
  left  : FlashLeft
deriving DecidableEq, Repr

/-- Outcomes of one CEC attempt (R438). -/
inductive CecOutcome where
  | ack | nack | arbLost | lineErr
deriving DecidableEq, Repr

/-- How an I2C transfer ends on the wire (R462). -/
inductive I2cEnd where
  | done (data : List Byte)
  | nackAddr
  | nackData (acked : Nat)
  | arbLost (moved : Nat) (data : List Byte)
deriving DecidableEq, Repr

/-- The commands of the block, one constructor per row of spec/opcode_table.json, in the table's order. -/
inductive Instr where
  -- Twiard words (04, 05): core, pace, fields
  | addi (c : Core) (p : Pace) (d a : Reg) (imm : BitVec 17)
  | andi (c : Core) (p : Pace) (d a : Reg) (imm : BitVec 17)
  | ori (c : Core) (p : Pace) (d a : Reg) (imm : BitVec 17)
  | cmpi (c : Core) (p : Pace) (a : Reg) (imm : BitVec 17)
  | lui (c : Core) (p : Pace) (d : Reg) (imm : BitVec 21)
  | add (c : Core) (p : Pace) (d a b : Reg) (f : Bool)
  | sub (c : Core) (p : Pace) (d a b : Reg) (f : Bool)
  | and (c : Core) (p : Pace) (d a b : Reg) (f : Bool)
  | or (c : Core) (p : Pace) (d a b : Reg) (f : Bool)
  | xor (c : Core) (p : Pace) (d a b : Reg) (f : Bool)
  | shifti (c : Core) (p : Pace) (d a : Reg) (f : Bool) (kind : BitVec 2) (amount : BitVec 5)
  | shift (c : Core) (p : Pace) (d a b : Reg) (f : Bool) (kind : BitVec 2)
  | ext (c : Core) (p : Pace) (d a : Reg) (sign : Bool) (width1 pos : BitVec 5)
  | ins (c : Core) (p : Pace) (d a : Reg) (width1 pos : BitVec 5)
  | mul (c : Core) (p : Pace) (d a b : Reg) (f : Bool)
  | mulh (c : Core) (p : Pace) (d a b : Reg) (f : Bool)
  | mulhu (c : Core) (p : Pace) (d a b : Reg) (f : Bool)
  | div (c : Core) (p : Pace) (d a b r : Reg) (f : Bool)
  | divu (c : Core) (p : Pace) (d a b r : Reg) (f : Bool)
  | ldw (c : Core) (p : Pace) (d a : Reg) (imm : BitVec 17)
  | ldh (c : Core) (p : Pace) (d a : Reg) (imm : BitVec 17)
  | ldhu (c : Core) (p : Pace) (d a : Reg) (imm : BitVec 17)
  | ldb (c : Core) (p : Pace) (d a : Reg) (imm : BitVec 17)
  | ldbu (c : Core) (p : Pace) (d a : Reg) (imm : BitVec 17)
  | stw (c : Core) (p : Pace) (d a : Reg) (imm : BitVec 17)
  | sth (c : Core) (p : Pace) (d a : Reg) (imm : BitVec 17)
  | stb (c : Core) (p : Pace) (d a : Reg) (imm : BitVec 17)
  | swap (c : Core) (p : Pace) (d a b : Reg)
  | cas (c : Core) (p : Pace) (d a b : Reg)
  | fadd (c : Core) (p : Pace) (d a b : Reg)
  | fence (c : Core) (p : Pace)
  | qput (c : Core) (p : Pace) (d a b : Reg)
  | qget (c : Core) (p : Pace) (d a : Reg)
  | b (c : Core) (p : Pace) (cond : BitVec 4) (off : BitVec 21)
  | jmp (c : Core) (p : Pace) (off : BitVec 25)
  | call (c : Core) (p : Pace) (off : BitVec 25)
  | jr (c : Core) (p : Pace) (a : Reg)
  | callr (c : Core) (p : Pace) (a : Reg)
  | ret (c : Core) (p : Pace)
  | rett (c : Core) (p : Pace)
  | syscall (c : Core) (p : Pace) (code : BitVec 16)
  | break (c : Core) (p : Pace) (code : BitVec 16)
  | mfsr (c : Core) (p : Pace) (d : Reg) (sr : BitVec 12)
  | mtsr (c : Core) (p : Pace) (a : Reg) (sr : BitVec 12)
  | rssave (c : Core) (p : Pace) (a : Reg)
  | rsload (c : Core) (p : Pace) (a : Reg)
  | wait (c : Core) (p : Pace)
  | pairWord (c : Core) (p : Pace) (sa sb : Slot)
  | undefinedOpcode (c : Core) (p : Pace) (w : Word)
  -- core events (05, 06, 07)
  | listenTrap (c : Core) (slip : Nat)
  | lineFetchComplete (c : Core)
  | storeBufferEntryComplete (c : Core) (timeout : Bool)
  | bufferedBusTrap (c : Core) (slip : Nat)
  | lsnBind (c : Core) (slot : Fin 8) (v : Word)
  | metCtrl (c : Core) (v : Word)
  -- registers and the pace monitor (02, 03)
  | registerWrite (p : Port) (addr v : Word)
  | sequencedClear (p : Port) (addr v : Word)
  | paceStart (p : Port) (v : Word)
  | paceDone (steps : BitVec 24)
  -- fabric and regulator (08), DMA (07)
  | bwrGrant (arrive : List Txn) (nextWindow : Bool)
  | bwrWindowEdge
  | bwrCtrl (p : Port) (v : Word)
  | fabTagalloc (p : Port) (m : Master) (v : Word)
  | fabricTimeout (k : Nat)
  | transactionAnswer (i : Nat)
  | dmaStart (p : Port) (ch : Fin 16) (v : Word)
  | dmaStop (p : Port) (ch : Fin 16)
  | dmaChunkDone (ch : Fin 16)
  -- Cue engine (09): the reserved bits of the command word and its queue
  | openQ (p : Port) (rsv : BitVec 12) (q : BitVec 16)
  | closeQ (p : Port) (rsv : BitVec 12) (q : BitVec 16)
  | configQ (p : Port) (rsv : BitVec 12) (q : BitVec 16)
  | retargetQ (p : Port) (rsv : BitVec 12) (q : BitVec 16)
  | flushQ (p : Port) (rsv : BitVec 12) (q : BitVec 16)
  | readQ (p : Port) (rsv : BitVec 12) (q : BitVec 16)
  | tableQ (p : Port) (rsv : BitVec 12) (q : BitVec 16)
  | tableCopyDone
  -- buffer pool (10)
  | poolAlloc (p : Port)
  | poolFree (p : Port) (h : Word)
  | poolCfg (p : Port) (v : Word)
  | poolRes (p : Port) (cls : Fin 16) (v : Word)
  | poolCap (p : Port) (cls : Fin 16) (v : Word)
  | poolCtrlClr (p : Port) (v : Word)
  | poolWaitLimit (i : Nat)
  -- host link (11)
  | writeFrame (bytes : List Byte)
  | readFrame (n : Nat)
  | readStatus (n : Nat)
  | linkReset (confirm : List Byte)
  | reservedLinkOpcode (op : Byte) (n : Nat)
  | frameAccept
  | userCommand (r : Req) (code : BitVec 16)
  | userReply
  | userReplyIndirect
  | userEvent
  | userTimeout (ch : Fin 4) (seq : BitVec 6)
  -- Elvuk commands (12)
  | ping (r : Req)
  | getInfo (r : Req)
  | getFeatures (r : Req)
  | getResetHistory (r : Req)
  | getBootStatus (r : Req)
  | powerSetState (r : Req)
  | powerGetState (r : Req)
  | powerSetWake (r : Req)
  | powerSetPoint (r : Req) (nack : Bool)
  | leaveSetBudget (r : Req)
  | leaveGetStats (r : Req)
  | corePower (r : Req)
  | domainDark (r : Req)
  | installBegin (r : Req) (stop : Option Nat) (fail : Option FlashFail)
  | installData (r : Req) (stop : Option Nat) (fail : Option FlashFail)
  | installEnd (r : Req) (stop : Option Nat) (fail : Option FlashFail)
  | imageConfirm (r : Req) (stop : Option Nat) (fail : Option FlashFail)
  | imageReject (r : Req) (stop : Option Nat) (fail : Option FlashFail)
  | imageStatus (r : Req)
  | setRead (r : Req)
  | setWrite (r : Req)
  | setDelete (r : Req)
  | setCommit (r : Req) (stop : Option Nat) (fail : Option FlashFail)
  | setStartFresh (r : Req) (stop : Option Nat) (fail : Option FlashFail)
  | otpRead (r : Req)
  | otpProgram (r : Req) (pulses : List Pulse)
  | otpReinforce (r : Req) (pulses : List Pulse)
  | otpScan (r : Req) (stop : Option Nat)
  | lifecycleAdvance (r : Req) (pulses : List Pulse)
  | authChallenge (r : Req) (nonce : List Byte)
  | authResponse (r : Req) (stop : Option Nat)
  | authDrop (r : Req)
  | authStatus (r : Req)
  | challengeExpiry (tap : Bool)
  | cecConfig (r : Req)
  | cecSend (r : Req)
  | cecStandbyFilter (r : Req)
  | irConfig (r : Req)
  | keypadConfig (r : Req)
  | wakeKeys (r : Req)
  | laneFrame (r : Req) (late : Bool)
  | laneSafeAll (r : Req)
  | wdCountRead (r : Req)
  | wdCountClear (r : Req)
  | keyDerive (r : Req)
  | keyRelease (r : Req)
  | coreRestart (r : Req)
  | coreQuarantineStatus (r : Req)
  -- flash and OTP controllers (14, 16): the Prompter's command word without its OP
  | eraseSector (rsv : BitVec 28)
  | programLine (rsv : BitVec 28)
  | flashOpDone (fail : Option FlashLeft)
  | otpCmdRead (rsv : BitVec 28)
  | readStrict (rsv : BitVec 28)
  | otpCmdProgram (rsv : BitVec 28)
  | otpCmdReinforce (rsv : BitVec 28)
  | scanWord (rsv : BitVec 28)
  | otpOpDone (pulses : List Pulse)
  -- leave (17): the LV_REQ word without its OP
  | lvRequest (rsv : BitVec 28)
  | lvRelease (rsv : BitVec 28)
  | leaveWaitLimit (r : Fin 41)
  -- resets, boot, power (13, 17, 25)
  | powerOnReset (hsel : Bool)
  | nreset (hsel : Bool)
  | firstStage (fail : Option FlashFail)
  | coreRelease
  | verifyPass (us : Word)
  | verifyFail
  | elvukReset (trap : Bool)
  | napEntry (nack : Bool)
  | napWake (reason : BitVec 4)
  | standbyEntry
  | standbyWake (reason : BitVec 4) (early : Bool) (rtcPeriods : Nat) (us : Word)
  | domainCut (code : Fin 32)
  | domainUpDone (code : Fin 32)
  | vsetSettled
  | wakeRetry (c : Core)
  | rtcAlarm
  -- watchdog, time base, timers (18)
  | wdCtrl (p : Port) (v : Word)
  | wdServiceKey1 (p : Port)
  | wdServiceKey2 (p : Port)
  | wdOpenWindow
  | wdExpiry
  | wdWdomeasBlock (ticks : BitVec 24)
  | tbLo (p : Port)
  | rtcFrac (p : Port)
  | timerOverflow (t : Fin 8)
  | timerMatch (t : Fin 8)
  | timerCapture (t : Fin 8)
  | tmrCount (p : Port) (t : Fin 8) (v : Word) (writeFirst : Bool)
  | tmrCompare (p : Port) (t : Fin 8) (v : Word) (writeFirst : Bool)
  -- lanes and the stat port (19)
  | laneCfg (p : Port) (n : Fin 24) (v : Word)
  | safe (p : Port) (n : Fin 24)
  | clrsafe (p : Port) (n : Fin 24)
  | seqrestart (p : Port) (n : Fin 24)
  | laneTgtNext (p : Port) (n : Fin 24) (v : Word) (late : Bool)
  | laneDuty (p : Port) (n : Fin 24) (v : Word)
  | swframe (p : Port) (v : Word)
  | frameEvent (src : BitVec 2)
  | laneSampleRequest (n : Fin 24)
  | laneSampleResult (n : Fin 24)
  | laneCapture (n : Fin 24) (rising : Bool)
  | tachTimeout (n : Fin 24)
  | stop (n : Fin 24)
  | level (n : Fin 24) (k : BitVec 2)
  | waitLc (n : Fin 24) (periods : BitVec 24)
  | waitFrame (n : Fin 24)
  | waitCap (n : Fin 24) (lane : BitVec 5)
  | waitPh (n : Fin 24) (lane : BitVec 5) (ph : BitVec 16)
  | jump (n : Fin 24) (slot : BitVec 4)
  | loopn (n : Fin 24) (cnt : BitVec 8) (slot : BitVec 4)
  | post (n : Fin 24) (code : BitVec 8)
  | seqOp (n : Fin 24) (w : Word)
  | statDataPacket (seq : BitVec 8) (payload : List Byte)
  | statMarkPacket (seq : BitVec 8) (frame : Word)
  | statBadPacket
  | statOverrun
  | statCtrl (p : Port) (v : Word)
  -- converters and setpoint outputs (20)
  | adcCtrl (p : Port) (a : Fin 4) (v : Word)
  | adcStart (p : Port) (a : Fin 4)
  | adcCal (p : Port) (a : Fin 4)
  | calDone (a : Fin 4) (ofs : Int) (gain : Nat)
  | conversionDone (a : Fin 4) (raw : BitVec 12)
  | spdCode (p : Port) (d : Fin 8) (v : Word)
  | spdRange (p : Port) (d : Fin 8) (v : Word)
  | rangeSwitch (d : Fin 8)
  | rangeSettled (d : Fin 8)
  -- viewer inputs (21)
  | cecFrameReceived (blocks : List Byte) (sside : Option Bool)
  | cecAttempt (o : CecOutcome) (sside : Option Bool)
  | cecPoll (acked : Bool) (sside : Option Bool)
  | irFrameEnd (i : Fin 2) (durations : List Nat)
  | keypadPressDetect (down : Bool)
  | keypadSample
  | keypadRepeat
  -- serial and GPIO (22)
  | uartRxChar (u : Fin 2) (data : Byte) (parityErr framingErr : Bool)
  | uartIdle (u : Fin 2)
  | uartTxdata (p : Port) (u : Fin 2) (v : Word)
  | uartTxCharDone (u : Fin 2)
  | uartBreak (p : Port) (u : Fin 2)
  | uartFlush (p : Port) (u : Fin 2)
  | i2cXfer (p : Port) (i : Fin 2) (v : Word)
  | i2cTxdata (p : Port) (i : Fin 2) (v : Word)
  | i2cRxdata (p : Port) (i : Fin 2)
  | i2cTransferEnd (i : Fin 2) (e : I2cEnd)
  | i2cStretchTimeout (i : Fin 2) (moved : Nat) (data : List Byte)
  | gpioSet (p : Port) (v : Word)
  | gpioClr (p : Port) (v : Word)
  | gpioEdge (pin : Fin 32) (rising : Bool)
  | gpioWakeEdge (pin : Fin 2)
  -- crypto engine (16)
  | cryStart (p : Port)
  | abort (p : Port)
  | cryFDin (p : Port) (v : Word)
  | cryFDout (p : Port)
  | cryJobEnd
  | cryRng (p : Port)
  | entropyTestFail
  -- trace and debug (23)
  | trcCfg (p : Port) (v : Word)
  | trcTask (p : Port) (n : Core) (v : Word)
  | traceOvf
  | tapReset
  | extest
  | samplePreload (pads : List Bool) (load : List Bool)
  | idcode
  | dbgAuth (dr : BitVec 9) (nonce : List Byte)
  | dbgAuthCapture
  | nop (core : BitVec 4) (addr data : Word)
  | memRead (core : BitVec 4) (addr data : Word)
  | memWrite (core : BitVec 4) (addr data : Word)
  | regRead (core : BitVec 4) (addr data : Word)
  | regWrite (core : BitVec 4) (addr data : Word)
  | halt (core : BitVec 4) (addr data : Word)
  | resume (core : BitVec 4) (addr data : Word)
  | step (core : BitVec 4) (addr data : Word)
  | wake (core : BitVec 4) (addr data : Word)
  | status (core : BitVec 4) (addr data : Word)
  | dbgAccessReservedOp (op : BitVec 4) (core : BitVec 4) (addr data : Word)
  | haltTaken (c : Core)
  -- faults and recovery (24)
  | ecPost
  | noProgress (c : Core)
  | quarantine (c : Core)
  | escalation
  | unknownCommand (r : Req) (code : BitVec 16)
  -- rows at the table's end
  | uartCtsChange (u : Fin 2) (high : Bool)
  | uartBreakReceived (u : Fin 2)
  | bypass (ir : BitVec 5)
  | cecRxLineError (initiator dest : BitVec 4) (sside : Option Bool)
  | lanePwmPeriod (n : Fin 24)
deriving DecidableEq, Repr

end Sys2Proof
end

