-- ==== Sys2Proof/Decode.lean ====
section
/-!
DEFINITION. The commands that a word spells by the bits of spec/opcode_table.json. No row of the table has bits: its commands are
register accesses, transactions and events of the block, so no word spells one.
-/

namespace Sys2Proof

/-- The command that the low `nbits` bits of `w` spell by the table's bits: none, since no row of the table has any. -/
def decodeTableWord (_nbits _w : Nat) : Option Instr := none

end Sys2Proof
end

