-- ==== Sys2Proof/Config.lean ====
section
/-!
DEFINITION. What one part of the BL24 fixes and no rule of the spec states a value for. Everything here is opaque: no
proof can see a value. Outcomes that an arbiter, a pin, an analogue level or the passing of time decides are not here:
they are operands of the commands.
-/

namespace Sys2Proof

/-- GET_INFO bytes 8-10 (R240): Elvuk's own version, major, minor and patch. The spec gives no value (log entry 4). -/
opaque Config.elvukVersion : Nat → Byte

/-- ADC_TSCAL (20_adc_setpoints.md, Registers): the trimmed codes "from Noviq trim OTP"; no value is given (log entry 4). -/
opaque Config.adcTscal : Word

/-- Which of the FREE buffers the pool gives to its n-th grant: the spec says only that it is FREE (log entry 5). -/
opaque Config.bufferPick : Nat → Nat

/-- SRAM_SEC and FLASH_ECC records carry a syndrome in DETAIL[14:8] (R493); the code's syndromes are not given
(log entry 4). The argument is the word address. -/
opaque Config.syndrome : Nat → BitVec 7

/-- What each data bit of an OTP codeword contributes to its 7 check bits (R332): the spec names a SEC-DED code, not its bits (log entry 4).
What `Machine.otpColumn` makes of it is always such a code. -/
opaque Config.otpColumn : Nat → BitVec 7

/-- The random bits of the n-th read of CRY_RNG that returns any (R322, log entry 8). -/
opaque Config.rngBits : Nat → BitVec 31

/-- The reason an IR decoder records for a bi-phase frame whose start cell reads 0: R445 lists none (log entry 4). -/
opaque Config.irStartReason : Byte

/-- The load a keypad reading gives when R450's L does not fit the 16 bits that hold it: no value is stated (log entry 4). The
argument is the code. -/
opaque Config.kpdLoad : Nat → BitVec 16

/-- What the Cue engine leaves in the memory of a table that it has moved away from, by the number of the move and the address: the
layout of a descriptor is not defined (R165, log entry 9). -/
opaque Config.tableByte : Nat → Nat → Byte

/-- The byte at an address that a flash operation cut by a reset leaves in its line or sector, and whether its words read as
uncorrectable (R276, R289, R364), by the flash write count (log entry 11). -/
opaque Config.cutByte : Nat → Nat → Byte
opaque Config.cutPoison : Nat → Bool

/-- The cells of an OTP word that a cut pulse made read 1, at NORMAL and at STRICT margin, and whether its last pulse had begun at all
(R337, log entry 11). -/
opaque Config.cutPulse : Nat → BitVec 39 × BitVec 39
opaque Config.cutBegun : Nat → Bool

/-- The level in mV that the board's regulator gives while VSET is high-impedance: R360 only bounds it (log entry 4). -/
opaque Config.boardMv : Nat

/-- The initial counter block of a settings record, from the sequence of its sector and its offset there: R291 names what it is built
from, not how (log entry 12). -/
opaque Config.setCounter : Nat → Nat → BitVec 128

/-- The side on which the arbiter places a store that meets an edge in its tick, where no operand of the command gives it (R35, R384, R385,
log entry 52). The argument is the tick. -/
opaque Config.arbiter : Nat → Bool

/-- The ticks of WDO since the last event of the watchdog that the model places: WDO runs on its own (R31, R367, log entry 61). The argument is
the tick. -/
opaque Config.wdoTicks : Nat → Nat

/-- The level of a UART's TX pin within a character that it is sending (R455): the model places no bit in time (log entry 27). The arguments are the
UART and the tick. -/
opaque Config.txLevel : Nat → Nat → Bool

end Sys2Proof
end

