-- ==== Sys2Proof/Machine/Flags.lean ====
section
/-!
DEFINITION. The flags register and every flag computation of 04_twiard_encoding.md (R65, R66, R80). FL holds V, C, N and Z in
bits 3, 2, 1 and 0.
-/

namespace Sys2Proof.Machine

/-- FL bits of R80. -/
abbrev Fl := BitVec 4

def flZ (f : Fl) : Bool := f.getLsbD 0
def flN (f : Fl) : Bool := f.getLsbD 1
def flC (f : Fl) : Bool := f.getLsbD 2
def flV (f : Fl) : Bool := f.getLsbD 3

/-- FL from its four flags (R80). -/
def flMk (z n c v : Bool) : Fl := BitVec.ofBool v ++ BitVec.ofBool c ++ BitVec.ofBool n ++ BitVec.ofBool z

/-- The sum with an incoming carry and its ADD-class flags (R66). -/
def addFl (a b : Word) (cin : Bool) : Word × Fl :=
  let exact := a.toNat + b.toNat + cin.toNat
  let r : Word := BitVec.ofNat 32 exact
  let sexact := a.toInt + b.toInt + (cin.toNat : Int)
  (r, flMk (r == 0) r.msb (decide (2 ^ 32 ≤ exact)) (decide (r.toInt ≠ sexact)))

/-- The difference a - b - (1 - cin) and its SUB-class flags: C is 1 when no borrow occurred (R66). -/
def subFl (a b : Word) (cin : Bool) : Word × Fl :=
  let bor := (!cin).toNat
  let r : Word := a - b - BitVec.ofNat 32 bor
  let sexact := a.toInt - b.toInt - (bor : Int)
  (r, flMk (r == 0) r.msb (decide (b.toNat + bor ≤ a.toNat)) (decide (r.toInt ≠ sexact)))

/-- LOGIC-class flags of a result: C and V keep their values (R66). -/
def logicFl (f : Fl) (r : Word) : Fl := flMk (r == 0) r.msb (flC f) (flV f)

/-- SHIFT-class flags: C is the last bit out, unchanged when the amount is 0 (R66). -/
def shiftFl (f : Fl) (r : Word) (out : Option Bool) : Fl := flMk (r == 0) r.msb (out.getD (flC f)) (flV f)

/-- DIVIDE-class flags: V tells a zero divisor or a signed overflow (R66). -/
def divFl (f : Fl) (q : Word) (ov : Bool) : Fl := flMk (q == 0) q.msb (flC f) ov

/-- The conditions of B (R65); 15 is reserved and never judged here. -/
def condHolds (cond : BitVec 4) (f : Fl) : Bool :=
  match cond.toNat with
  | 0 => true
  | 1 => flZ f
  | 2 => !flZ f
  | 3 => flN f
  | 4 => !flN f
  | 5 => flC f
  | 6 => !flC f
  | 7 => flV f
  | 8 => !flV f
  | 9 => flC f && !flZ f
  | 10 => !flC f || flZ f
  | 11 => flN f == flV f
  | 12 => flN f != flV f
  | 13 => !flZ f && flN f == flV f
  | 14 => flZ f || flN f != flV f
  | _ => false

end Sys2Proof.Machine
end

