-- ==== Sys2Proof/Machine/Operands.lean ====
section
/-!
DEFINITION. The operand forms and computations of the Twiard words (R61-R78): the inner form of a word, its decoding from
the 32 bits with every ILLEGAL sub-cause of R76, and what each arithmetic operation computes. The commands of Instr and the
debug STEP share these definitions.
-/

namespace Sys2Proof.Machine

inductive ImmOp where | addi | andi | ori deriving DecidableEq, Repr
inductive AluOp where | add | sub | and | or | xor | mul | mulh | mulhu deriving DecidableEq, Repr
inductive LdOp where | w | h | hu | b | bu deriving DecidableEq, Repr
inductive StOp where | w | h | b deriving DecidableEq, Repr
inductive AtOp where | swap | cas | fadd deriving DecidableEq, Repr

/-- A Twiard word after decoding: the long form by operation and operands, or a pair (R61-R64, R69). -/
inductive TWord where
  | imm (k : ImmOp) (d a : Reg) (i : BitVec 17)
  | cmpi (a : Reg) (i : BitVec 17)
  | lui (d : Reg) (i : BitVec 21)
  | alu (k : AluOp) (d a b : Reg) (f : Bool)
  | shifti (d a : Reg) (f : Bool) (kind : BitVec 2) (amount : BitVec 5)
  | shift (d a b : Reg) (f : Bool) (kind : BitVec 2)
  | ext (d a : Reg) (sign : Bool) (width1 pos : BitVec 5)
  | ins (d a : Reg) (width1 pos : BitVec 5)
  | div (signed : Bool) (d a b r : Reg) (f : Bool)
  | load (k : LdOp) (d a : Reg) (i : BitVec 17)
  | store (k : StOp) (d a : Reg) (i : BitVec 17)
  | atomic (k : AtOp) (d a b : Reg)
  | fence
  | qput (d a b : Reg)
  | qget (d a : Reg)
  | b (cond : BitVec 4) (off : BitVec 21)
  | jmp (off : BitVec 25)
  | call (off : BitVec 25)
  | jr (a : Reg)
  | callr (a : Reg)
  | ret
  | rett
  | syscall (code : BitVec 16)
  | brk (code : BitVec 16)
  | mfsr (d : Reg) (sr : BitVec 12)
  | mtsr (a : Reg) (sr : BitVec 12)
  | rssave (a : Reg)
  | rsload (a : Reg)
  | wait
  | pair (sa sb : Slot)
  /-- A word that decode refuses: WHERE and SUB of R78. -/
  | bad (wher sub : BitVec 2)
deriving DecidableEq, Repr

/-- System register numbers assigned in R81. -/
def srAssigned (n : BitVec 12) : Bool := n.toNat ≤ 6 || (8 ≤ n.toNat && n.toNat ≤ 12)

/-- System registers that MTSR may not name, being RO (R81). -/
def srReadOnly (n : BitVec 12) : Bool :=
  n.toNat = 4 || n.toNat = 5 || n.toNat = 6 || n.toNat = 11 || n.toNat = 12

/-- The flow instructions of R75. -/
def TWord.isFlow : TWord → Bool
  | .b .. | .jmp .. | .call .. | .jr .. | .callr .. | .ret | .rett | .syscall .. | .brk .. | .wait => true
  | _ => false

/-- The failure of one slot (R71): 0 opcode undefined, 3 reserved field or value, none when legal. -/
def slotBad (t : Slot) : Option (BitVec 2) :=
  let op := t.op.toNat
  let m := t.m.toNat
  if op ≥ 0x1C then some 0
  else
    let reserved : Bool :=
      match op with
      | 0x00 => t.d ≠ 0 || t.s ≠ 0 || m ≠ 0
      | 0x0F => m = 0 || m = 2
      | 0x10 => m = 0 || m = 2
      | 0x14 => m = 3
      | 0x17 => t.d ≠ 0 || m ≠ 0
      | 0x18 => t.s ≠ 0 || m ≠ 0 || t.d = 15
      | 0x19 => m = 3 || (m = 0 && t.s ≠ 0) || (m = 1 && t.d ≠ 0) || (m = 2 && t.s ≠ 0)
      | _ => false
    if reserved then some 3 else none

/-- Whether a short operation takes the modifier m-ALU (R71). -/
def slotAlu (t : Slot) : Bool := (1 ≤ t.op.toNat && t.op.toNat ≤ 0x0E) || t.op.toNat = 0x11

/-- Whether a slot writes register d (R73). -/
def slotWritesD (t : Slot) : Bool :=
  slotAlu t || [0x12, 0x13, 0x14, 0x15, 0x18, 0x1A, 0x1B].contains t.op.toNat ||
    (t.op.toNat = 0x19 && t.m ≠ 1)

/-- The registers other than g0 that a slot writes (R73). -/
def slotRegs (t : Slot) : List Reg :=
  ((if slotWritesD t then [t.d] else []) ++
    (if t.op.toNat = 0x17 || t.op.toNat = 0x18 then [15] else [])).filter (· ≠ 0)

/-- Whether a slot writes flags (R73). -/
def slotFlags (t : Slot) : Bool :=
  (slotAlu t && t.m.getLsbD 0) || t.op.toNat = 0x0F || t.op.toNat = 0x10 || (t.op.toNat = 0x19 && t.m = 1)

/-- Whether a slot accesses memory (R73). -/
def slotMem (t : Slot) : Bool := [0x15, 0x16, 0x17, 0x18].contains t.op.toNat

/-- The failure of a pair whose bit 15 is 0 (R76): slot A, slot B, then the conflict of R73. -/
def pairBad (sa sb : Slot) : Option (BitVec 2 × BitVec 2) :=
  match slotBad sa with
  | some sub => some (1, sub)
  | none =>
    match slotBad sb with
    | some sub => some (2, sub)
    | none =>
      if (slotRegs sa).any (fun r => (slotRegs sb).contains r) || (slotMem sa && slotMem sb) ||
          (slotFlags sa && slotFlags sb) then some (3, 1)
      else none

/-- The reserved encodings of R63-R65 and R81 that a decoded word can still hold, with WHERE and SUB of R78. -/
def TWord.illegal : TWord → Option (BitVec 2 × BitVec 2)
  | .ext _ _ _ w p => if p.toNat + w.toNat + 1 > 32 then some (0, 3) else none
  | .ins _ _ w p => if p.toNat + w.toNat + 1 > 32 then some (0, 3) else none
  | .div _ d _ _ r _ => if r = d ∧ d ≠ 0 then some (0, 3) else none
  | .b cond _ => if cond = 15 then some (0, 3) else none
  | .mfsr _ sr => if srAssigned sr then none else some (0, 3)
  | .mtsr _ sr => if srAssigned sr && !srReadOnly sr then none else some (0, 3)
  | .pair sa sb => pairBad sa sb
  | .bad wh sub => some (wh, sub)
  | _ => none

/-- A slot from its 15 bits (R69). -/
def slotOf (v : BitVec 15) : Slot :=
  ⟨v.extractLsb' 10 5, v.extractLsb' 6 4, v.extractLsb' 2 4, v.extractLsb' 0 2⟩

/-- A word from its 32 bits: the layouts of R61, R62, R64 and R69, with every must-be-0 field judged (R76). -/
def decodeWord (w : Word) : TWord :=
  if w.getLsbD 31 then
    if w.getLsbD 15 then .bad 3 3
    else .pair (slotOf (w.extractLsb' 16 15)) (slotOf (w.extractLsb' 0 15))
  else
    let d : Reg := w.extractLsb' 21 4
    let a : Reg := w.extractLsb' 17 4
    let b : Reg := w.extractLsb' 13 4
    let f := w.getLsbD 12
    let x : BitVec 12 := w.extractLsb' 0 12
    let i17 : BitVec 17 := w.extractLsb' 0 17
    let low25 : BitVec 25 := w.extractLsb' 0 25
    let res := TWord.bad 0 3
    let req (ok : Bool) (t : TWord) := if ok then t else res
    match (w.extractLsb' 25 6).toNat with
    | 0x01 => .imm .addi d a i17
    | 0x02 => .imm .andi d a i17
    | 0x03 => .imm .ori d a i17
    | 0x04 => req (d == 0) (.cmpi a i17)
    | 0x05 => .lui d (w.extractLsb' 0 21)
    | 0x08 => req (x == 0) (.alu .add d a b f)
    | 0x09 => req (x == 0) (.alu .sub d a b f)
    | 0x0A => req (x == 0) (.alu .and d a b f)
    | 0x0B => req (x == 0) (.alu .or d a b f)
    | 0x0C => req (x == 0) (.alu .xor d a b f)
    | 0x10 => req (b == 0 && x.extractLsb' 7 5 == 0) (.shifti d a f (x.extractLsb' 5 2) (x.extractLsb' 0 5))
    | 0x11 => req (x.extractLsb' 7 5 == 0 && x.extractLsb' 0 5 == 0) (.shift d a b f (x.extractLsb' 5 2))
    | 0x12 => req (b == 0 && !f && !x.getLsbD 11) (.ext d a (x.getLsbD 10) (x.extractLsb' 5 5) (x.extractLsb' 0 5))
    | 0x13 => req (b == 0 && !f && x.extractLsb' 10 2 == 0) (.ins d a (x.extractLsb' 5 5) (x.extractLsb' 0 5))
    | 0x18 => req (x == 0) (.alu .mul d a b f)
    | 0x19 => req (x == 0) (.alu .mulh d a b f)
    | 0x1A => req (x == 0) (.alu .mulhu d a b f)
    | 0x1C => req (x.extractLsb' 0 8 == 0) (.div true d a b (x.extractLsb' 8 4) f)
    | 0x1D => req (x.extractLsb' 0 8 == 0) (.div false d a b (x.extractLsb' 8 4) f)
    | 0x20 => .load .w d a i17
    | 0x21 => .load .h d a i17
    | 0x22 => .load .hu d a i17
    | 0x23 => .load .b d a i17
    | 0x24 => .load .bu d a i17
    | 0x25 => .store .w d a i17
    | 0x26 => .store .h d a i17
    | 0x27 => .store .b d a i17
    | 0x28 => req (!f && x == 0) (.atomic .swap d a b)
    | 0x29 => req (!f && x == 0) (.atomic .cas d a b)
    | 0x2A => req (!f && x == 0) (.atomic .fadd d a b)
    | 0x2B => req (low25 == 0) .fence
    | 0x2C => req (!f && x == 0) (.qput d a b)
    | 0x2D => req (b == 0 && !f && x == 0) (.qget d a)
    | 0x30 => .b d (w.extractLsb' 0 21)
    | 0x31 => .jmp low25
    | 0x32 => .call low25
    | 0x33 => req (d == 0 && b == 0 && !f && x == 0) (.jr a)
    | 0x34 => req (d == 0 && b == 0 && !f && x == 0) (.callr a)
    | 0x35 => req (low25 == 0) .ret
    | 0x36 => req (low25 == 0) .rett
    | 0x38 => req (w.extractLsb' 16 9 == 0) (.syscall (w.extractLsb' 0 16))
    | 0x39 => req (w.extractLsb' 16 9 == 0) (.brk (w.extractLsb' 0 16))
    | 0x3A => req (a == 0 && b == 0 && !f) (.mfsr d x)
    | 0x3B => req (d == 0 && b == 0 && !f) (.mtsr a x)
    | 0x3C => req (d == 0 && b == 0 && !f && x == 0) (.rssave a)
    | 0x3D => req (d == 0 && b == 0 && !f && x == 0) (.rsload a)
    | 0x3E => req (low25 == 0) .wait
    | _ => .bad 0 0

/-- A shift or rotation by `n` < 32 with the last bit out (R64, R66). -/
def shiftBy (kind : BitVec 2) (a : Word) (n : Nat) : Word × Option Bool :=
  if n = 0 then (a, none)
  else
    match kind.toNat with
    | 0 => (a <<< n, some (a.getLsbD (32 - n)))
    | 1 => (a >>> n, some (a.getLsbD (n - 1)))
    | 2 => (a.sshiftRight n, some (a.getLsbD (n - 1)))
    | _ => (a.rotateRight n, some (a.getLsbD (n - 1)))

/-- Quotient, remainder and the V of DIVIDE (R66, R67). -/
def divide (signed : Bool) (a b : Word) : Word × Word × Bool :=
  if b = 0 then (0xFFFFFFFF, a, true)
  else if signed then
    if a = 0x80000000 ∧ b = 0xFFFFFFFF then (0x80000000, 0, true)
    else (BitVec.ofInt 32 (a.toInt.tdiv b.toInt), BitVec.ofInt 32 (a.toInt.tmod b.toInt), false)
  else (a / b, a % b, false)

/-- EXT (R63). -/
def extField (a : Word) (sign : Bool) (width1 pos : BitVec 5) : Word :=
  let w := width1.toNat + 1
  let v := (a >>> pos.toNat).toNat % 2 ^ w
  if sign && decide (2 ^ (w - 1) ≤ v) then BitVec.ofInt 32 ((v : Int) - 2 ^ w) else BitVec.ofNat 32 v

/-- INS (R63). -/
def insField (d a : Word) (width1 pos : BitVec 5) : Word :=
  let mask : Word := BitVec.ofNat 32 ((2 ^ (width1.toNat + 1) - 1) * 2 ^ pos.toNat)
  (d &&& ~~~mask) ||| ((a <<< pos.toNat) &&& mask)

/-- The long ALU operations with the flags they write when S is 1 (R63, R66). -/
def aluLong (k : AluOp) (a b : Word) (f : Fl) : Word × Fl :=
  match k with
  | .add => addFl a b false
  | .sub => subFl a b true
  | .and => let r := a &&& b; (r, logicFl f r)
  | .or => let r := a ||| b; (r, logicFl f r)
  | .xor => let r := a ^^^ b; (r, logicFl f r)
  | .mul => let r := a * b; (r, logicFl f r)
  | .mulh => let r : Word := BitVec.ofInt 32 (a.toInt * b.toInt / 2 ^ 32); (r, logicFl f r)
  | .mulhu => let r : Word := BitVec.ofNat 32 (a.toNat * b.toNat / 2 ^ 32); (r, logicFl f r)

/-- ADDI, ANDI, ORI (R63). -/
def immOp (k : ImmOp) (a : Word) (i : BitVec 17) : Word :=
  match k with
  | .addi => a + i.signExtend 32
  | .andi => a &&& i.signExtend 32
  | .ori => a ||| i.zeroExtend 32

/-- The m-ALU operations: the result and the flags of the operation's class (R70, R71). -/
def aluShort (op : Nat) (d src : Word) (f : Fl) : Word × Fl :=
  match op with
  | 0x01 => (src, logicFl f src)
  | 0x02 => addFl d src false
  | 0x03 => subFl d src true
  | 0x04 => addFl d src (flC f)
  | 0x05 => subFl d src (flC f)
  | 0x06 => subFl src d true
  | 0x07 => let r := d &&& src; (r, logicFl f r)
  | 0x08 => let r := d ||| src; (r, logicFl f r)
  | 0x09 => let r := d ^^^ src; (r, logicFl f r)
  | 0x0A => let r := d &&& ~~~src; (r, logicFl f r)
  | 0x0B => let p := shiftBy 0 d (src.toNat % 32); (p.1, shiftFl f p.1 p.2)
  | 0x0C => let p := shiftBy 1 d (src.toNat % 32); (p.1, shiftFl f p.1 p.2)
  | 0x0D => let p := shiftBy 2 d (src.toNat % 32); (p.1, shiftFl f p.1 p.2)
  | 0x0E => let p := shiftBy 3 d (src.toNat % 32); (p.1, shiftFl f p.1 p.2)
  | 0x0F => subFl d src true
  | 0x10 => let r := d &&& src; (r, logicFl f r)
  | _ => let r := d * src; (r, logicFl f r)

/-- Number of leading zeros of a word, 32 for 0 (UNARY, m = 2). -/
def clz32 (a : Word) : Nat := ((List.range 32).takeWhile (fun i => !a.getLsbD (31 - i))).length

/-- Number of one bits of a word (UNARY, m = 3). -/
def popcount32 (a : Word) : Nat := ((List.range 32).filter (fun i => a.getLsbD i)).length

/-- The 32 bits of a word in reverse (REV, m = 2). -/
def revBits (a : Word) : Word :=
  BitVec.ofNat 32 ((List.range 32).foldl (fun acc i => acc * 2 + (a.getLsbD i).toNat) 0)

/-- The four bytes of a word in reverse (REV, m = 0). -/
def revBytes (a : Word) : Word :=
  a.extractLsb' 0 8 ++ a.extractLsb' 8 8 ++ a.extractLsb' 16 8 ++ a.extractLsb' 24 8

/-- A signed value clamped to the 32-bit signed range (SAT). -/
def satS (v : Int) : Word := BitVec.ofInt 32 (max (-(2 ^ 31)) (min (2 ^ 31 - 1) v))

/-- A value clamped to the 32-bit unsigned range (SAT). -/
def satU (v : Int) : Word := BitVec.ofInt 32 (max 0 (min (2 ^ 32 - 1) v))

/-- The function operations UNARY, EXTEND, REV, MINMAX and SAT (R71). -/
def fnShort (op m : Nat) (d s : Word) : Word :=
  match op, m with
  | 0x12, 0 => ~~~s
  | 0x12, 1 => 0 - s
  | 0x12, 2 => BitVec.ofNat 32 (clz32 s)
  | 0x12, _ => BitVec.ofNat 32 (popcount32 s)
  | 0x13, 0 => (s.extractLsb' 0 8).signExtend 32
  | 0x13, 1 => (s.extractLsb' 0 16).signExtend 32
  | 0x13, 2 => (s.extractLsb' 0 8).zeroExtend 32
  | 0x13, _ => (s.extractLsb' 0 16).zeroExtend 32
  | 0x14, 0 => revBytes s
  | 0x14, 1 => s.extractLsb' 0 16 ++ s.extractLsb' 16 16
  | 0x14, _ => revBits s
  | 0x1A, 0 => if d.slt s then d else s
  | 0x1A, 1 => if d.slt s then s else d
  | 0x1A, 2 => if d.ult s then d else s
  | 0x1A, _ => if d.ult s then s else d
  | _, 0 => satS (d.toInt + s.toInt)
  | _, 1 => satS (d.toInt - s.toInt)
  | _, 2 => satU ((d.toNat : Int) + s.toNat)
  | _, _ => satU ((d.toNat : Int) - s.toNat)

end Sys2Proof.Machine
end

