-- ==== Sys2Proof/Machine/UnitsBase.lean ====
section
/-!
DEFINITION. The records that State is built from, first part: the variant, event-status registers, error records, the
power manager, the leave arbiter, the buffer pool and the Cue engine (03, 09, 10, 17, 24).
-/

namespace Sys2Proof.Machine

/-- The three variants of R1. -/
inductive Variant where
  | x | s | t
deriving DecidableEq, Repr

/-- An event-status register (R54) with the hidden state of R55: the full set count, and for each master the count at its
most recent read (none: it has not read the register since reset). -/
structure Sqc where
  bits  : BitVec 27 := 0
  count : Nat := 0
  miss  : Bool := false
  seen  : Vector (Option Nat) 15 := Vector.replicate 15 none
deriving DecidableEq, Repr

/-- One error record of R496. `master` 15 is a unit that is not a fabric master. -/
structure EcRec where
  source : BitVec 8
  cls    : BitVec 2
  master : BitVec 4
  secure : Bool
  answer : BitVec 3
  addr   : Word
  detail : Word
  stamp  : Word
deriving DecidableEq, Repr

/-- The hardware event sources of R197, and the completion sources of R18. -/
inductive HwSrc where
  | lane (n : Fin 24) | adc (a : Fin 4) | dma (ch : Fin 16) | uart (u : Fin 2) | timer (t : Fin 8)
  | cec | ir (i : Fin 2) | keypad | watchdog | stat | ec | cry | i2c (i : Fin 2) | gpio
deriving DecidableEq, Repr

/-- A hardware message before it has a buffer: its source and pool class, where it goes, its TYPE and its payload, and the
world of its producer. -/
structure HwEvent where
  src     : HwSrc
  cls     : Fin 16
  queue   : BitVec 16
  type    : BitVec 6
  payload : List Byte
  secure  : Bool
deriving DecidableEq, Repr

/-- The error collector (R497-R500, EC registers). `posting`: the head waits for a buffer (it is the held event of R497).
The state and loss fields of EC_CORE are in the core records. -/
structure Ec where
  fifo     : List EcRec := []
  posting  : Bool := false
  evt      : Sqc := {}
  count    : Vector Word 3 := Vector.replicate 3 0
  lost     : Word := 0
  lastLost : BitVec 10 := 0
  lostBefore : Bool := false
deriving DecidableEq, Repr

/-- What the power manager is doing (R343): RUN, NAP and STANDBY, and RUN as the entry into NAP leaves it once the units have paused
(`napUnits`, order 4 of R349) and once the banks retain (`napBanks`, order 5). -/
inductive PowerMode where
  | run | napUnits | napBanks | nap | standby
deriving DecidableEq, Repr

/-- The power manager (R340-R353, R360-R362, PWR registers). The wake mask and the alarm are kept in AO. `coming` lists the
domains that are coming up, `toRetain` the draining banks that go to RETAIN; `vset` is what VSET drives, none while it is high-impedance;
`wakes` the wake sources accepted and not yet acted on, oldest first; `heldUp` the domains that HELD sends need up and that have not
come up yet: draining, waiting for leave, or asked for in NAP (R176, R350). -/
structure Pwr where
  mode     : PowerMode := .run
  entering : Option PowerMode := none
  dom      : BitVec 16 := 0x0003
  sram     : Vector (BitVec 2) 16 := Vector.replicate 16 2
  drain    : BitVec 32 := 0
  coming   : List (Fin 32) := []
  wakeMask : Word := 0
  alarm    : Word := 0
  alarmArmed : Bool := false
  alarmPending : Bool := false
  reason   : BitVec 16 := 0
  early    : Bool := false
  vset     : Option (BitVec 16) := none
  setPoint : BitVec 16 := 0
  vsetBusy : Bool := false
  mvBefore : BitVec 16 := 0
  napVset  : Option (BitVec 16) := none
  napBanks : List (Fin 16) := []
  stillAt  : Nat := 0
  evt      : Sqc := {}
  retry    : Vector (Option Nat) 8 := Vector.replicate 8 none
  heldUp   : List (Fin 32) := []
  wakes    : List Nat := []
  recTb    : BitVec 64 := 0
  recRtc   : Nat := 0
  toRetain : List (Fin 16) := []
deriving DecidableEq, Repr

/-- A waiting leave request (R356): requester, units, class and arrival in ticks. -/
structure LvWait where
  r       : Fin 41
  units   : Nat
  cls     : BitVec 2
  arrival : Nat
deriving DecidableEq, Repr

/-- The leave arbiter (R354-R359, LV registers). `held` gives the units each requester holds, 0 for none. -/
structure Leave where
  budget  : Nat := 120
  held    : Vector Nat 41 := Vector.replicate 41 0
  waiting : List LvWait := []
  peak    : Nat := 0
  cstat   : BitVec 4 := 0
  evt     : Sqc := {}
  waitlim : Vector Nat 4 := #v[2400, 240000, 24000, 2400000]
  grants  : Vector Word 4 := Vector.replicate 4 0
  delays  : Vector Word 4 := Vector.replicate 4 0
  refusals : Vector Word 4 := Vector.replicate 4 0
  rwait   : Vector Nat 41 := Vector.replicate 41 0
  rstat   : Vector (BitVec 2) 41 := Vector.replicate 41 0
deriving DecidableEq, Repr

/-- A tag RAM entry that is not FREE (R185): buffer index, state 1 OWNED, 2 QUEUED, 3 PARKED, owner, class, queue. -/
structure Tag where
  idx   : Nat
  st    : BitVec 2
  owner : BitVec 4
  cls   : Fin 16
  queue : BitVec 16 := 0
deriving DecidableEq, Repr

/-- The registers of one producer class (R188, R196). -/
structure PoolClass where
  res     : Nat
  cap     : Nat
  waitlim : Nat
  peak    : Nat := 0
  grants  : Word := 0
  delays  : Word := 0
  refusals : Word := 0
  hwdrop  : Word := 0
deriving DecidableEq, Repr

/-- Who waits for a buffer: the reader of POOL_ALLOC, a hardware event, Elvuk for its reply to a stage core, or Elvuk for a USER
command of a Perup channel (R192, R197, R227, R232). -/
inductive PoolAsker where
  | read (m : Master)
  | event (e : HwEvent)
  | reply (c : Core)
  | user (ch : Fin 4)
deriving DecidableEq, Repr

/-- A waiting request of the pool, with its arrival in ticks. -/
structure PoolWait where
  who     : PoolAsker
  cls     : Fin 16
  arrival : Nat
deriving DecidableEq, Repr

/-- The buffer pool (R181-R200, POOL registers). `base` and `n256` are POOL_CFG; `tags` lists the buffers that are not FREE;
`picks` counts the grants (the free value of log entry 5 is applied to it). -/
structure Pool where
  base    : Word
  n256    : Nat
  tags    : List Tag := []
  waits   : List PoolWait := []
  cls     : Vector PoolClass 16
  astat   : Vector (BitVec 16 × BitVec 2) 15 := Vector.replicate 15 (0, 0)
  fstat   : Vector (BitVec 2) 15 := Vector.replicate 15 0
  mclass  : Word := 0xFEDCBA98
  evt     : Sqc := {}
  probe   : BitVec 14 := 0
  drops   : List (HwSrc × Nat) := []
  picks   : Nat := 0
deriving DecidableEq, Repr

/-- A committed message: its buffer handle, and the world of its producer. -/
structure Msg where
  handle : Word
  secure : Bool
deriving DecidableEq, Repr

/-- A queue whose state differs from its default: open flag, settings, the slot it is bound to, and its messages, oldest
first (R162-R168). -/
structure Queue where
  num      : BitVec 16
  isOpen   : Bool
  wake     : Bool
  secure   : Bool
  pmode    : BitVec 2
  producer : BitVec 4
  consumer : BitVec 4
  limit    : BitVec 4
  bound    : Option (Master × Fin 8) := none
  claimed  : Bool := false
  msgs     : List Msg := []
deriving DecidableEq, Repr

/-- A queue operation that waits at the Cue engine, for the end of a TABLE (R167) or for an error record (R500): a core's, a
hardware source's, the Prompter's, or a send whose core has been lost since (R345, R503). `at_` is the tick at which a core's operation
came, `drained` that it waited for the store buffer (R120, R121). -/
inductive CueHeld where
  | qput (c : Core) (d : Reg) (q : BitVec 16) (h : Word) (at_ : Nat) (drained : Bool)
  | qget (c : Core) (d : Reg) (q : BitVec 16) (at_ : Nat)
  | event (e : HwEvent) (h : Word)
  | elvuk (q : BitVec 16) (h : Word)
  | lost (c : Core) (secure : Bool) (q : BitVec 16) (h : Word)
deriving DecidableEq, Repr

/-- A TABLE command in progress: the master that gave it, the new base and k. -/
structure TableJob where
  m    : Master
  base : Word
  k    : Nat
deriving DecidableEq, Repr

/-- The Cue engine (R162-R180, CUE registers). `moves` counts the tables left behind (the free value of log entry 9 is applied to
it). -/
structure Cue where
  tbase   : Word
  k       : Nat := 8
  queues  : List Queue := []
  arg0    : Vector Word 15 := Vector.replicate 15 0
  arg1    : Vector Word 15 := Vector.replicate 15 0
  cstat   : Vector (BitVec 16 × BitVec 4) 15 := Vector.replicate 15 (0, 0)
  rdata0  : Vector Word 15 := Vector.replicate 15 0
  rdata1  : Vector Word 15 := Vector.replicate 15 0
  evt     : Sqc := {}
  refused : Word := 0
  commits : Word := 0
  table   : Option TableJob := none
  moves   : Nat := 0
  held    : List CueHeld := []
  halt    : Bool := false
deriving DecidableEq, Repr

/-- The SYS registers that change (R25, R60, R274). The running pace measurement keeps the WINLOG2 taken at START and the
tick of the START. -/
structure Sys where
  err      : Sqc := {}
  errSrc   : Word := 0
  winlog2  : BitVec 5 := 10
  paceRun  : Option (Nat × Nat) := none
  paceStat : Sqc := {}
  paceCount : BitVec 24 := 0
  paceStep : BitVec 16 := 0
  kibDone  : BitVec 13 := 0
  sw       : Bool := false
  quick    : Bool := false
  fallback : Bool := false
  slot     : Bool := false
  phase    : BitVec 2 := 0
deriving DecidableEq, Repr

end Sys2Proof.Machine
end

