-- ==== Sys2Proof/Machine/UnitsCore.lean ====
section
/-!
DEFINITION. The records that State is built from, second part: a stage core with its system registers, return stack, store
buffer, listen slots, Metronome registers and fetch path (05, 06, 07; `metPhase` is the LCLK periods of a beat begun in WAIT), its debug registers (23), and a DMA channel (07).
-/

namespace Sys2Proof.Machine

/-- A flow instruction that has executed and whose delay slot comes next (R75): what takes effect when the slot completes. -/
inductive FlowKind where
  /-- B, JMP and JR: the target when taken, nothing when not; `ind` marks a target from a register. -/
  | branch (target : Option Word) (ind : Bool)
  /-- CALL and CALLR: the push and the jump (R85). -/
  | call (ret target : Word) (ind : Bool)
  /-- RET: the pop and the jump (R85). -/
  | ret (target : Word)
  /-- RETT: the values read when it executed (R94). -/
  | rett (tpc tfl tstate : Word)
  /-- SYSCALL, BREAK and a secure call: the trap raised after the slot (R89 cause 11). -/
  | trap (cause : BitVec 8) (detail : Word)
deriving DecidableEq, Repr

/-- A flow instruction between its execution and the end of its delay slot. -/
structure Flow where
  addr : Word
  kind : FlowKind
deriving DecidableEq, Repr

/-- One entry of the store buffer (R125): address, bytes (1, 2 or 4), data, the world of the store, and whether it has left for
the fabric, where it is charged and holds a tag (R146). -/
structure SbEntry where
  addr   : Word
  bytes  : Nat
  data   : Word
  secure : Bool
  out    : Bool := false
deriving DecidableEq, Repr

/-- A fetched line (R102): its number, and for each of its words the answer that travels with it (R52) and whether it was corrected
(R534). The words themselves are the commands (log entry 2). -/
structure Line where
  num   : Nat
  words : List (BitVec 3 × Bool)
deriving DecidableEq, Repr

/-- The outstanding line request (R102): its line, whether it is wrong-path (R104), and the tick at which its target took it (R148). -/
structure LineReq where
  num   : Nat
  wrong : Bool
  at_   : Nat
deriving DecidableEq, Repr

/-- How the word at the pc is reached, its fetch penalty unpaid as yet (R112): in sequence, as the target of a taken transfer or of trap entry,
or as the first word of a LISTEN handler (R122). -/
inductive Reached where
  | seq | target | handler
deriving DecidableEq, Repr

/-- How far an RSSAVE or RSLOAD has come (R86): the next access, the words loaded, newest first, and the first overrun (KIND, address,
beats). -/
structure BlockRun where
  i     : Nat
  words : List Word
  late  : Option (Nat × Word × Nat)
deriving DecidableEq, Repr

/-- A buffered-store failure that is held (R128). -/
structure HeldFail where
  addr    : Word
  answer  : BitVec 3
  dropped : BitVec 3
  more    : Bool := false
deriving DecidableEq, Repr

/-- A listen slot (R95). -/
structure Listen where
  en      : Bool := false
  refused : Bool := false
  queue   : BitVec 16 := 0
  world   : Bool := true
  level   : BitVec 3 := 0
  active  : Bool := false
deriving DecidableEq, Repr

/-- Whether a stage core runs: `check` is a core stopped by a machine check that the Prompter has not quarantined yet
(R502, R503). -/
inductive CoreRun where
  | off | running | waiting | halted | check | quarantined
deriving DecidableEq, Repr

/-- An instruction breakpoint or a data watchpoint (R488, R489): address, mask (watchpoints only) and control words. -/
structure Brk where
  addr : Word := 0
  mask : Word := 0
  ctrl : Word := 0
deriving DecidableEq, Repr

/-- A stage core (05, 06, 07, 23). `rs` is the return stack, newest entry first. `line` is the line buffer, `lineReq` the outstanding
line request, `lineNext` the line that has arrived after it (R102-R105); `ahead` is the load count of the line requested last, `hid` the
steps that have passed since, `reached` how the word at the pc is reached, and `owed` the penalty of a delay slot
that its target pays (R108, R112). `blk`: an RSSAVE or RSLOAD under way. `sbDue`: the steps that the
oldest entry of the store buffer still takes (R110). `stopped`: stopped at a word boundary by NAP.
`stepTb`: the tick of its last step, for R502; `stepping`: the halt that is pending ends a STEP. -/
structure CoreState where
  run     : CoreRun := .off
  pc      : Word := 0
  g       : Vector Word 16 := Vector.replicate 16 0
  fl      : BitVec 4 := 0
  state   : Word := 0x103
  tpc     : Word := 0
  tfl     : Word := 0
  tstate  : Word := 0
  tcause  : Word := 0
  tdetail : Word := 0
  taddr   : Word := 0
  tvecS   : Word := 0
  tvecO   : Word := 0
  dsl     : Word := 0
  rs      : List Word := []
  flow    : Option Flow := none
  sb      : List SbEntry := []
  sbDue   : Nat := 0
  held    : Option HeldFail := none
  listen  : Vector Listen 8 := Vector.replicate 8 {}
  metEn   : Bool := false
  metTrap : Bool := false
  metNm1  : BitVec 6 := 8
  metStat : Sqc := {}
  metBeats : Word := 0
  metLate : Word := 0
  metSlip : Word := 0
  metPhase : Nat := 0
  line    : Option Line := none
  lineReq : Option LineReq := none
  lineNext : Option Line := none
  ahead   : Nat := 0
  hid     : Nat := 0
  reached : Reached := .target
  owed    : Nat := 0
  blk     : Option BlockRun := none
  stopped : Bool := false
  stepTb  : Nat := 0
  losses  : BitVec 8 := 0
  reason  : BitVec 8 := 0
  sec     : List Nat := []
  ded     : List Nat := []
  ibrk    : Vector Brk 4 := Vector.replicate 4 {}
  watch   : Vector Brk 2 := Vector.replicate 2 {}
  haltReq : Bool := false
  stepping : Bool := false
  haltInfo : Word := 0
  skipBrk : Bool := false
  hctrl   : Bool := false
deriving DecidableEq, Repr

/-- Why an access waits at its target. -/
inductive BlockKind where
  | poolAlloc
  | uartTx (u : Fin 2) (v : Word)
  | cryDin (ctxP : Bool) (v : Word)
  | cryDout (ctxP : Bool)
  | flashRead (addr : Word)
deriving DecidableEq, Repr

/-- What a stage core does when an access of it that a target holds completes: nothing (the access came by the core's port, not by a
word), the word ends, or an RSSAVE or RSLOAD goes on. -/
inductive BlockedFor where
  | port | word | block
deriving DecidableEq, Repr

/-- An access that its target holds (R195, R278, R327, R459): who made it, why it waits, since when, its address and world, and, for a
stage core, what waits for it, with what its word writes when the access completes: the load's register, the other register results and
the flags; `bt` is the beat count that the word has paid for, `drained` that it waited for the store buffer (R120, R121). -/
structure Blocked where
  port    : Port
  kind    : BlockKind
  arrival : Nat
  addr    : Word := 0
  secure  : Bool := true
  core    : Option Core := none
  what    : BlockedFor := .port
  dst     : Option (Reg × LdOp) := none
  regs    : List (Reg × Word) := []
  fl      : Option (BitVec 4) := none
  bt      : Nat := 0
  drained : Bool := false
deriving DecidableEq, Repr

/-- The bandwidth settings of one master as written (R154, BWR registers). -/
structure BwrCfg where
  min    : Nat := 0
  max    : Nat := 0xFFFFC
  weight : Nat := 1
  urgEn  : Bool := false
  force  : Bool := false
  met    : Bool := false
  off    : Nat := 0
  on     : Nat := 0
  urgLim : Nat := 0
deriving DecidableEq, Repr

/-- One master at the regulator: the settings written, the settings in force, what the running window has charged, the
statistics of R160 and R161, and the urgency wire of R158. -/
structure BwrM where
  want    : BwrCfg := {}
  cfg     : BwrCfg := {}
  charged : Nat := 0
  p2      : Nat := 0
  urgBytes : Nat := 0
  bytes   : Word := 0
  statP2  : Word := 0
  stall   : Word := 0
  urg     : Word := 0
  last    : Word := 0
  lastP2  : Word := 0
  lastWin : Word := 0
  wire    : Bool := false
  round   : Nat := 0
deriving DecidableEq, Repr

/-- The bandwidth regulator (R150-R161): window length in force and as written, start tick and number of the running window,
the held configuration, and the round-robin places of the four steps of R154. -/
structure Bwr where
  en      : Bool := false
  window  : Nat := 24
  wantWin : Nat := 24
  start   : Nat := 0
  num     : Nat := 0
  cap     : Nat := 0xFFFFC
  wantCap : Nat := 0xFFFFC
  dirty   : Bool := false
  clr     : Bool := false
  status  : Sqc := {}
  cfgWin  : Word := 0
  total   : Nat := 0
  m       : Vector BwrM 15 := Vector.replicate 15 {}
  rr      : Vector Nat 4 := Vector.replicate 4 14
deriving DecidableEq, Repr

/-- The tag allocations at reset (R147). -/
def tagReset (v : Variant) : Vector Nat 15 :=
  let cores := match v with | .x => 8 | .s => 4 | .t => 2
  Vector.ofFn fun m : Fin 15 =>
    if m.val < 8 then (if m.val < cores then 16 else 0)
    else if m.val = 8 then 32 else if m.val = 9 then 256 else if m.val = 10 then 128 else if m.val = 11 then 128
    else if m.val = 12 ∨ m.val = 13 then (if v = .t then 0 else 64) else 8

/-- A transaction that BWR_GRANT lists, with the world and privilege of its master when it was issued (R300). -/
structure Issued where
  t      : Txn
  secure : Bool
  priv   : Bool
deriving DecidableEq, Repr

/-- The fabric (R142-R149): tag allocations and use, the limit, transactions that wait for admission and those that a target
has accepted with the tick of acceptance, the accesses that a target holds, and the masters of which some other access was not
admitted when it came (R160). -/
structure Fab where
  alloc   : Vector Nat 15
  peak    : Vector Nat 15 := Vector.replicate 15 0
  wait    : Vector Word 15 := Vector.replicate 15 0
  limit   : Nat := 2400
  status  : Sqc := {}
  waiting : List Issued := []
  accepted : List (Issued × Nat) := []
  blocked : List Blocked := []
  asking  : Vector Bool 15 := Vector.replicate 15 false
deriving DecidableEq, Repr

/-- A DMA channel (R139, R140, DMA registers). `cur` is the bytes of the current transfer written so far, `stopReq` a STOP
taken during it, `secure` the world of the master that started it (R300) and `by_` that master (R325). Of the chunk under way: `buf` the words
read, newest first, `put` how many are written, `adm` whether its read (1) and its write (2) are admitted, and `held` the tick and the
address of an access that its target holds (R148). -/
structure DmaCh where
  src    : Word := 0
  dst    : Word := 0
  len    : Word := 0
  srcFix : Bool := false
  dstFix : Bool := false
  queue  : BitVec 16 := 0
  status : Sqc := {}
  busy   : Bool := false
  result : BitVec 2 := 0
  answer : BitVec 3 := 0
  count  : Word := 0
  stopReq : Bool := false
  secure : Bool := true
  by_    : Option Master := none
  buf    : List Word := []
  put    : Nat := 0
  adm    : Nat := 0
  held   : Option (Nat × Word) := none
deriving DecidableEq, Repr

/-- What the trace collector keeps for one core (R468, R473, R474, R476): outcome bits not yet emitted (oldest first), the
last emitted BR pattern, its pending repeat count, the last emitted address, the steps since the last STEP packet, and the
mark of lost packets. -/
structure TrcCore where
  outs    : List Bool := []
  lastBr  : Option Byte := none
  rep     : Nat := 0
  lastAddr : Word := 0
  steps   : Nat := 0
  lost    : Bool := false
deriving DecidableEq, Repr

/-- The trace collector and writer (R467-R478, TRC registers). `buf` is the 4 KiB collector buffer, oldest byte first;
`discarded` the bytes lost since the last OVF; `sinceSync` the stream bytes since the last sync point. -/
structure Trc where
  en      : Bool := false
  active  : Bool := false
  sink    : Bool := false
  wrap    : Bool := false
  timek   : BitVec 5 := 10
  synclog : BitVec 5 := 10
  cores   : BitVec 8 := 0
  mode    : BitVec 8 := 0
  bufBase : Word := 0
  bufLog  : BitVec 5 := 12
  wptr    : Nat := 0
  wrapped : Bool := false
  full    : Bool := false
  evt     : Sqc := {}
  lostBytes : Word := 0
  div     : BitVec 4 := 1
  task    : Vector (BitVec 16) 8 := Vector.replicate 8 0
  buf     : List Byte := []
  core    : Vector TrcCore 8 := Vector.replicate 8 {}
  lastTime : Option (BitVec 64) := none
  timeMark : Nat := 0
  discarded : Nat := 0
  sinceSync : Nat := 0
deriving DecidableEq, Repr

/-- A debug challenge that is outstanding (R305): its nonce, the level asked for and the tick it was issued. -/
structure Challenge where
  nonce  : List Byte
  level  : BitVec 2
  issued : Nat
deriving DecidableEq, Repr

/-- A DBG_ACCESS operation that is held in NAP (R484). -/
structure DbgHeld where
  op   : BitVec 4
  core : BitVec 4
  addr : Word
  data : Word
deriving DecidableEq, Repr

/-- A request of the TAP that has been submitted and not answered yet (R481): command code, arguments, the nonce that a challenge will
draw, and the ticket whose leave it waits for. -/
structure TapPend where
  code   : Nat
  args   : List Byte
  nonce  : List Byte
  ticket : Option (Fin 41) := none
deriving DecidableEq, Repr

/-- Debug authorisation and access (R303-R313, R479-R491, DBG registers): level, source and slot of the session, failures
since power-on reset, the outstanding challenges of the TAP and of channel 3, the halt counters, the TAP registers and the
boundary register. `cap` is the 32-bit data register as IDCODE or DBG_STATUS last captured it. -/
structure Dbg where
  level   : BitVec 2 := 0
  source  : BitVec 2 := 0
  slot    : Byte := 0xFF
  failures : Nat := 0
  chTap   : Option Challenge := none
  chHost  : Option Challenge := none
  halts   : BitVec 16 := 0
  denied  : BitVec 16 := 0
  ir      : BitVec 5 := 2
  req     : List Byte := []
  resp    : List Byte := []
  pend    : Option TapPend := none
  dr      : BitVec 9 := 0
  heldOp  : Option DbgHeld := none
  ans     : BitVec 3 := 0
  op      : BitVec 4 := 0
  data    : Word := 0
  bnd     : List Bool := []
  sampled : List Bool := []
  extest  : Bool := false
  cap     : Word := 0
deriving DecidableEq, Repr

/-- The partition of R301 as loaded from OTP words 0x008-0x00B (R302, R314). -/
structure Partition where
  sramOpen : BitVec 16 := 0
  openFrom : Nat := 0
  grOpen   : Nat := 0
  periph   : BitVec 11 := 0
deriving DecidableEq, Repr

end Sys2Proof.Machine
end

