-- ==== Sys2Proof/Machine/UnitsIo.lean ====
section
/-!
DEFINITION. The records that State is built from, third part: the watchdog, the time base and the timers (18), the converters
and setpoint outputs (20), the lanes and the stat port (19), CEC, IR and the keypad (21), the UARTs, I2C controllers and GPIO
(22).
-/

namespace Sys2Proof.Machine

/-- The watchdog (R366-R378, WD registers). `warnHeld` is an EXPIRY warning held in AO, `openHeld` an OPEN warning of a grace
period that waits for the Cue engine (R374, R375). -/
structure Wd where
  en      : Bool := false
  warn    : Bool := false
  window  : BitVec 2 := 0
  period  : BitVec 5 := 16
  count   : Nat := 0
  grace   : Bool := false
  gwake   : Bool := false
  armed   : Bool := false
  last    : Bool := false
  evt     : Sqc := {}
  meas    : BitVec 24 := 0
  warnHeld : Option (List Byte) := none
  openHeld : Bool := false
deriving DecidableEq, Repr

/-- One timer (R381-R387). `topNow` is the TOP in force, `pre` the prescaler, `stepped` that a row has already made this tick's step, `capDue`
that a capture of this tick is still to be posted. -/
structure Tmr where
  en      : Bool := false
  oneshot : Bool := false
  capsrc  : BitVec 3 := 0
  pin     : BitVec 5 := 0
  qen     : BitVec 3 := 0
  presc   : BitVec 16 := 0
  count   : Word := 0
  top     : Word := 0xFFFFFFFF
  topNow  : Word := 0xFFFFFFFF
  compare : Word := 0xFFFFFFFF
  capture : Word := 0
  order   : Bool := true
  corder  : Bool := true
  evt     : Sqc := {}
  pre     : Nat := 0
  stepped : Bool := false
  capDue  : Bool := false
deriving DecidableEq, Repr

/-- The shadows of TB and of the RTC (R379, R380), the RTC count in AO with the phase of its crystal against TB, and the
timers. -/
structure Time where
  tbShadow : Vector Word 15 := Vector.replicate 15 0
  rtcShadow : Vector Word 15 := Vector.replicate 15 0
  rtc      : Nat := 0
  rtcPhase : Nat := 0
  tmr      : Vector Tmr 8 := Vector.replicate 8 {}
deriving DecidableEq, Repr

/-- What a converter is converting (R416). -/
inductive Conv where
  | lane (n : Fin 24)
  | keypad
  | entry (i : Fin 8)
deriving DecidableEq, Repr

/-- One entry of a scan sequence (ADC_SEQ). -/
structure AdcSeq where
  hi    : BitVec 12 := 0xFFF
  lo    : BitVec 12 := 0
  input : BitVec 4 := 0
deriving DecidableEq, Repr

/-- One entry result (ADC_RES). -/
structure AdcRes where
  uncal : Bool := false
  out   : Bool := false
  code  : BitVec 12 := 0
deriving DecidableEq, Repr

/-- A converter (R412-R423, ADC registers). `reqs` are the lane requests that wait, oldest first; `startWait` a scan start that
waits for a calibration. -/
structure Adc where
  en      : Bool := false
  enabled : Bool := false
  leaveWait : Bool := false
  lowPower : Bool := false
  trig    : BitVec 2 := 0
  timer   : BitVec 3 := 0
  post    : Bool := false
  seqlen  : BitVec 3 := 0
  loopspd : BitVec 3 := 0
  int1    : BitVec 3 := 0
  int0    : BitVec 3 := 0
  calib   : Bool := false
  uncal   : Bool := true
  scan    : Option (Fin 8) := none
  scanOut : Bool := false
  conv    : Option Conv := none
  reqs    : List (Fin 24) := []
  kpdReq  : Bool := false
  startWait : Bool := false
  evt     : Sqc := {}
  ofs     : BitVec 12 := 0
  gain    : Nat := 0x8000
  stamp   : Word := 0
  seq     : Vector AdcSeq 8 := Vector.replicate 8 {}
  res     : Vector AdcRes 8 := Vector.replicate 8 {}
deriving DecidableEq, Repr

/-- A setpoint output (R424-R428, SPD registers). `range` is the range asked last, `now` the range in force, `inner` a change
that runs while the output is clamped for another reason. -/
structure Spd where
  code    : BitVec 10 := 0
  range   : Bool := false
  now     : Bool := false
  written : Bool := false
  ranging : Bool := false
  inner   : Bool := false
  switched : Bool := false
  pend    : Option Bool := none
  phase   : BitVec 2 := 0
  evt     : Sqc := {}
deriving DecidableEq, Repr

/-- Why a lane's sequencer waits (R400): an LCLK instant, the frame event, a capture edge of a lane, a phase. -/
inductive SeqWait where
  | lclk (t : Nat)
  | frame
  | cap (m : Fin 24)
  | phase (m : Fin 24) (p : Nat)
deriving DecidableEq, Repr

/-- A lane (R388-R407, LANE registers). `factor` is F, `lastF` the last nonzero F, `integ` and `out` the regulator of R395,
`setDuty` the last duty set with FSYNC = 0; `edge`, `frame` and `runAt` are the ticks of the last capture edge, of the last
frame event and of the entry to RUN; `inbox` a result on its way to the lane. -/
structure Lane where
  fsync   : Bool := false
  seqen   : Bool := false
  log     : Bool := false
  sense   : Bool := false
  capedge : BitVec 2 := 0
  outsel  : Bool := false
  spd     : BitVec 4 := 0
  mode    : BitVec 3 := 0
  st      : BitVec 3 := 0
  per     : Nat := 9599
  duty    : Nat := 0
  tgt     : Nat := 0
  tgtNext : Nat := 0
  scale   : Word := 0x80808080
  kp      : Nat := 0x10
  ki      : Nat := 0x04
  rescale : Bool := false
  nfault  : Nat := 4
  outmax  : Nat := 0xFFFF
  outmin  : Nat := 0
  smax    : Nat := 0xFFF
  smin    : Nat := 0
  sper    : Nat := 0
  sofs    : Nat := 0
  senseV  : BitVec 12 := 0
  capt    : Nat := 0
  lockwin : Nat := 0
  tachto  : Nat := 0
  locked  : Bool := false
  slot    : Fin 16 := 0
  seqrun  : Bool := false
  loopc   : Nat := 0
  fault   : BitVec 8 := 0
  evt     : Sqc := {}
  prog    : Vector Word 16 := Vector.replicate 16 0
  factor  : Nat := 0x80
  lastF   : Nat := 0x80
  leveled : Bool := false
  integ   : Int := 0
  out     : Int := 0
  setDuty : Nat := 0
  overN   : Nat := 0
  underN  : Nat := 0
  skipN   : Nat := 0
  inN     : Nat := 0
  outN    : Nat := 0
  edge    : Nat := 0
  frame   : Option Nat := none
  edgeSeen : Bool := true
  runAt   : Nat := 0
  inbox   : Option (BitVec 12) := none
  asked   : Bool := false
  clrPend : Bool := false
  low     : Bool := false
  swait   : Option SeqWait := none
  k       : Nat := 0
  high    : Nat := 0
  pdmAcc  : Nat := 0
  pdmOut  : Bool := false
deriving DecidableEq, Repr

/-- The lane block's shared registers (R402-R407). `lastFrame` is the tick of the last frame event, `lastNext` that of the last write of a
LANE_TGT_NEXT; `buf` holds the log records that wait for the fabric, oldest first (R158, R407). -/
structure LaneBlk where
  fsrc    : BitVec 2 := 3
  fcount  : Word := 0
  fstamp  : Word := 0
  late    : BitVec 24 := 0
  logbase : Word := 0
  logk    : Nat := 4
  logptr  : Nat := 0
  logdrop : Word := 0
  lastFrame : Option Nat := none
  lastNext : Option Nat := none
  buf     : List (List Byte) := []
deriving DecidableEq, Repr

/-- A packet that has passed its CRC and waits in the ingest's input buffer (R410): the bytes of a DATA payload not yet written; a
MARK with its frame number, the TB of its arrival and the flags of the frame as reception found them; a start of the port behind marked frames
that are still to be written, which leads to slot 0 (R411). -/
inductive StatItem where
  | data (bs : List Byte)
  | mark (frame : Word) (tb : Word) (flags : BitVec 5)
  | restart
deriving DecidableEq, Repr

/-- The stat port (R408-R411, STAT registers). `queue` is the input buffer, oldest packet first; `flags` are those of the frame in
reception, `wflags` those that writing has set. `seqExp` is the expected SEQ, none until the first packet; `begun`: the current
slot's header has been opened. -/
structure Stat where
  en      : Bool := false
  active  : Bool := false
  leaveWait : Bool := false
  rbase   : Word := 0
  slot64  : Nat := 1
  nslot   : Nat := 2
  slot    : Nat := 0
  seqExp  : Option Byte := none
  begun   : Bool := false
  bytes   : Nat := 0
  flags   : BitVec 5 := 0
  wflags  : BitVec 5 := 0
  queue   : List StatItem := []
  evt     : Sqc := {}
  frames  : Word := 0
  errCrc  : Word := 0
  errOvr  : Word := 0
deriving DecidableEq, Repr

end Sys2Proof.Machine
end

