-- ==== Sys2Proof/Machine/UnitsSec.lean ====
section
/-!
DEFINITION. The records that State is built from, fourth part: the crypto engine, the key store with the entropy source and
the OTP controller (16), the flash controller, the install session and the settings store (14), the host link (11), what
Elvuk keeps while commands run (12) and the start-up state (13).
-/

namespace Sys2Proof.Machine

/-! ### Crypto engine -/

/-- One copy of the banked configuration of context F (R324). -/
structure CryCfg where
  cls    : BitVec 2 := 2
  ksrc   : BitVec 2 := 0
  ksize  : Bool := false
  dir    : Bool := false
  alg    : BitVec 4 := 0
  handle : BitVec 16 := 0
  len    : BitVec 24 := 0
  aadlen : BitVec 16 := 0
  iv     : Vector Word 4 := Vector.replicate 4 0
  key    : Vector Word 8 := Vector.replicate 8 0
  tag    : Vector Word 4 := Vector.replicate 4 0
  queue  : BitVec 16 := 0
  sstat  : BitVec 2 := 0
deriving DecidableEq, Repr

/-- The job of a context: its copied configuration, owner, world and key, the input taken so far, the cipher output so far,
and the words fed. -/
structure CryJob where
  cfg    : CryCfg
  owner  : Master
  secure : Bool
  key    : List Byte := []
  aad    : List Byte := []
  inp    : List Byte := []
  out    : List Byte := []
  fed    : Nat := 0
deriving DecidableEq, Repr

/-- One job context of the crypto engine with its registers (R323-R331, CRY registers). -/
structure CryCtx where
  cfg      : Vector CryCfg 15 := Vector.replicate 15 {}
  job      : Option CryJob := none
  waitLeave : Bool := false
  din      : List Word := []
  dout     : List Word := []
  overfeed : Bool := false
  owner    : BitVec 4 := 0
  result   : BitVec 4 := 0
  status   : Sqc := {}
  count    : Word := 0
  lwait    : Word := 0
  digest   : Vector Word 8 := Vector.replicate 8 0
  digestOwner : Option Master := none
deriving DecidableEq, Repr

/-- The crypto engine: context F of the stage cores and context P of the Prompter (R323). -/
structure Cry where
  f : CryCtx := {}
  p : CryCtx := {}
deriving DecidableEq, Repr

/-! ### Key store -/

/-- A handle slot (R320). `gen` is the slot's issue count. -/
structure KeySlot where
  held    : Bool := false
  gen     : Nat := 0
  purpose : BitVec 2 := 0
  owner   : Core := 0
  key     : List Byte := []
deriving DecidableEq, Repr

/-- The key store and the entropy source (R315-R322). Keys are empty while they are 0 and unusable. `reserve` counts words,
`fill` and `testing` are ticks to the next word and to the end of the start-up test, `since` ticks since the last failure,
and `draws` the reads of CRY_RNG (the free value of log entry 8 is applied to it). -/
structure KeyStore where
  root    : List Byte := []
  setEnc  : List Byte := []
  setMac  : List Byte := []
  sealKey : List Byte := []
  drv     : List Byte := []
  lock    : Bool := false
  slots   : Vector KeySlot 16 := Vector.replicate 16 {}
  reserve : Nat := 0
  fill    : Nat := 768
  testing : Nat := 1200
  stopped : Bool := false
  fails   : Nat := 0
  since   : Nat := 0
  draws   : Nat := 0
deriving DecidableEq, Repr

/-! ### OTP -/

/-- The cells of one OTP word that carry charge: the bits that read 1 at NORMAL, those that read 1 at STRICT, and those that
carry any charge (R332, R333). -/
structure OtpWord where
  w      : Nat
  normal : BitVec 39
  strict : BitVec 39
  charge : BitVec 39
deriving DecidableEq, Repr

/-- The OTP controller (R332-R339, OTP registers). `cells` lists the words that are not wholly free of charge; `loaded` the
nonzero words read at order 2 of R253, `fresh` the words programmed since then (R339), `badWords` those that were uncorrectable then, `weakWords` those to be reported. -/
structure Otp where
  cells   : List OtpWord := []
  wdata   : Word := 0
  rdata   : Word := 0
  busy    : Option (BitVec 4 × Nat) := none
  result  : BitVec 4 := 0
  tries   : BitVec 4 := 0
  cls     : BitVec 4 := 0
  status  : Sqc := {}
  loaded  : List (Nat × Word) := []
  fresh   : List Nat := []
  badWords : List Nat := []
  weakWords : List Nat := []
deriving DecidableEq, Repr

/-! ### Flash, install, settings -/

/-- A flash controller operation that runs (R276-R278). -/
inductive FlcOp where
  | erase (addr : Nat)
  | program (addr : Nat) (data : List Byte)
deriving DecidableEq, Repr

/-- The flash controller (FLC registers) and the AO flash write counter (R271). -/
structure Flc where
  addr   : Word := 0
  status : Sqc := {}
  busy   : Option FlcOp := none
  result : BitVec 4 := 0
  data   : Vector Word 8 := Vector.replicate 8 0
  wcount : BitVec 64 := 0
  rbuf   : List Nat := []
deriving DecidableEq, Repr

/-- Who holds an install session or a batch: one Perup channel or one stage core (R236, R243). -/
inductive Party where
  | chan (ch : Fin 4)
  | core (c : Core)
deriving DecidableEq, Repr

/-- The install session (R285, R286): the caller, the target slot, the length, the bytes received, the held header and the
body bytes of a line not yet full. -/
structure Session where
  who    : Party
  slot   : Bool
  length : Nat
  got    : Nat := 0
  head   : List Byte := []
  part   : List Byte := []
deriving DecidableEq, Repr

/-- The install journal in data flash (R286, R288): target, stage and bytes of its last entry, and the boot-record sequence when
the session began. -/
structure Journal where
  slot   : Bool
  stage  : Nat
  bytes  : Nat
  seq0   : Word
  done   : Bool
deriving DecidableEq, Repr

/-- The operations of a command of Elvuk that writes flash, in the order in which they are made (R281, R286, R291, R296): a sector erased,
part of a line programmed, a boot record programmed, an entry of the install journal, a read-back with its checks (R262, R287), and the
end of a command that finds no room. -/
inductive FlashOp where
  | erase (a size : Nat)
  | line (a : Nat) (bytes : List Byte)
  | record (a : Nat) (bytes : List Byte)
  | journal (j : Journal)
  | check
  | full
deriving DecidableEq, Repr

/-- Where an operation runs: a journal entry in Elvuk's private area of data flash (R277), a read-back nowhere. -/
def FlashOp.addr : FlashOp → Option Nat
  | .erase a _ => some a
  | .line a _ => some a
  | .record a _ => some a
  | .journal _ => some 0x20D000
  | .check => none
  | .full => none

/-- The install state that IMAGE_STATUS reports. -/
structure Install where
  session : Option Session := none
  journal : Option Journal := none
  state   : Nat := 0
  stage   : Nat := 0
  bytes   : Nat := 0
  last    : Nat := 0
deriving DecidableEq, Repr

/-- A staged change (R243). -/
structure Staged where
  key    : BitVec 16
  schema : BitVec 16
  data   : Option (List Byte)
deriving DecidableEq, Repr

/-- What Elvuk keeps of the settings store outside data flash: the staged batches (R243). The log itself is in memory (R290). -/
structure Settings where
  batches : List (Party × List Staged) := []
deriving DecidableEq, Repr

/-! ### Host link -/

/-- A Perup frame's fields (R207). -/
structure Perup where
  chseq   : Byte
  command : BitVec 16
  payload : List Byte
deriving DecidableEq, Repr

/-- A frame in the transmit FIFO: an event, or a reply of a channel with its sequence. -/
structure TxFrame where
  frame : Perup
  event : Bool
deriving DecidableEq, Repr

/-- An accepted request of a channel, oldest first in its list; `drop` when LINK_RESET has discarded its reply (R216), `user` the
tick of the last fragment's commit while it waits for firmware (R228). -/
structure LinkReq where
  seq     : BitVec 6
  command : BitVec 16
  args    : List Byte
  drop    : Bool := false
  user    : Option Nat := none
deriving DecidableEq, Repr

/-- One Perup channel (R211-R216): E, credits, accepted requests, kept replies newest first, and the sequences whose reply has
not been read yet. -/
structure LinkChan where
  e       : BitVec 6 := 0
  credits : Nat := 3
  reqs    : List LinkReq := []
  kept    : List Perup := []
  unread  : List (BitVec 6) := []
deriving DecidableEq, Repr

/-- How the host saw the last transaction, beside its bytes: served or at least driven, with the data output left high-impedance (R221),
or without the acknowledge of the I2C address (R221, R223), of the opcode (R204) or of a frame's first byte (R213). -/
inductive LinkBus where
  | driven | highZ | nackAddress | nackOpcode | nackFrame
deriving DecidableEq, Repr

/-- The host link (R201-R228, HLINK registers). `early` lists the events held for the opening (R222), `out` the bytes that the BL24
drove in the last transaction after its opcode, an SPI turnaround byte among them (R204, R205), and `bus` how it was answered. -/
structure Link where
  mode    : Bool := false
  userto  : Nat := 100
  evtch   : BitVec 2 := 0
  up      : Bool := false
  rx      : List Perup := []
  tx      : List TxFrame := []
  chan    : Vector LinkChan 4 := Vector.replicate 4 {}
  evtSeq  : BitVec 6 := 0
  lastErr : BitVec 4 := 0
  evtLost : Bool := false
  err     : Bool := false
  evtLostEver : Bool := false
  errEver : Bool := false
  errCrc  : Word := 0
  errFrame : Word := 0
  errSeq  : Word := 0
  errDup  : Word := 0
  errStray : Word := 0
  evtDropped : Word := 0
  evt     : Sqc := {}
  early   : List (BitVec 16 × List Byte) := []
  out     : List Byte := []
  bus     : LinkBus := .driven
deriving DecidableEq, Repr

/-! ### Elvuk -/

/-- What a command that has started waits for (R232, R235, R237, R347, R361, R438, R439, R506): a buffer, leave, CORE_LOST, a domain, the
regulator, the CEC line; or, with all it asked for, its own next row, the flash operations still to be made (`dark`: FLASH was brought up for
it), or its next OTP pulse after the `made` ones. -/
inductive ElvStage where
  | pool
  | leave (r : Fin 41)
  | run
  | work (ops : List FlashOp) (dark : Bool)
  | pulse (made : Nat)
  | lost (c : Core)
  | up (code : Fin 32)
  | cut (code : Fin 32)
  | vset
  | cecSend
  | cecPoll
deriving DecidableEq, Repr

/-- A command of Elvuk that has started and not yet replied: its request, its code, what it waits for, the buffer of its reply,
its leave wait in ticks when it was delayed (R234), the results that its end will reply, and the ticket of the leave it holds (R355). -/
structure ElvJob where
  req     : Req
  code    : Nat
  stage   : ElvStage
  buf     : Option Word := none
  delayed : Option Nat := none
  res     : List Byte := []
  ticket  : Option (Fin 41) := none
deriving DecidableEq, Repr

/-- A message that Elvuk has taken from 0x00C0 and not yet handled: its producer, the world of its QPUT, TYPE and payload. -/
structure ElvMail where
  core   : Core
  secure : Bool
  type   : Nat
  body   : List Byte
deriving DecidableEq, Repr

/-- What OK POWER_SET_STATE and IMAGE_REJECT order to happen after their reply (R349, R353, R241): the caller and the tick of the
reply. -/
structure ElvOrder where
  who : Caller
  tb  : Nat
deriving DecidableEq, Repr

/-- What Elvuk keeps (12): the messages it has taken, oldest first, the commands that have started, the buffers kept aside for
status-only replies (R232), the fragment buffers of a USER command that waits for more (R227), the power state ordered by an
OK POWER_SET_STATE, the reset ordered by an OK IMAGE_REJECT, the stream whose request was taken last (R214: channels 0-3, the stage cores' queue
4), and the ticket with which a copy area is erased, or the tick before which none is asked for (R281). -/
structure Elv where
  inbox   : List ElvMail := []
  jobs    : List ElvJob := []
  spare   : Vector (Option Word) 8 := Vector.replicate 8 none
  frags   : Vector (List Word) 4 := Vector.replicate 4 []
  nap     : Option ElvOrder := none
  standby : Option ElvOrder := none
  reject  : Option ElvOrder := none
  turn    : Nat := 4
  clean   : Option (Fin 41) := none
  cleanAt : Nat := 0
deriving DecidableEq, Repr

/-! ### Start-up -/

/-- How far the start has come (R253): in reset, in the first stage's wait for the release, verifying, or done. -/
inductive BootStage where
  | reset | release | verify | done
deriving DecidableEq, Repr

/-- The cause of a reset as R47 records it. -/
structure ResetCause where
  cause  : Byte
  detail : Byte
deriving DecidableEq, Repr

/-- Start-up state (R249-R275): the stage, the cause to be recorded, the decoded lifecycle, the candidates still to try (the one that
runs or is to run first), whether the first one has been passed over, the reason a fallback carries, whether a candidate failed, the
running slot with the fields of its header, how far verification is (the bytes of the body, those hashed, what the hash rate has allowed and
not yet used, and whether a word that cannot be corrected ended it), whether PR came up from STANDBY, whether the seal was valid, the time of that start in µs, the
RTC second of the reset, and the messages of the CEC and IR inputs that the reset caught waiting for a buffer (R431). -/
structure Boot where
  stage    : BootStage := .reset
  cause    : ResetCause := ⟨1, 0⟩
  life     : BitVec 2 := 0
  noImage  : Bool := false
  cands    : List Bool := []
  fell     : Bool := false
  reason   : Byte := 0
  failed   : Bool := false
  slot     : Option Bool := none
  version  : Word := 0
  entry    : Word := 0
  schMin   : BitVec 16 := 0
  schMax   : BitVec 16 := 0
  hash     : List Byte := []
  bodyLen  : Nat := 0
  hashed   : Nat := 0
  hashAcc  : Nat := 0
  hashStop : Bool := false
  standby  : Bool := false
  quick    : Bool := false
  us       : Nat := 0
  secs     : Nat := 0
  repost   : List HwEvent := []
deriving DecidableEq, Repr

end Sys2Proof.Machine
end

