-- ==== Sys2Proof/Machine/UnitsView.lean ====
section
/-!
DEFINITION. The records that State is built from, fifth part: CEC, the IR inputs and the keypad (21), the UARTs, the I2C
controllers and the GPIO (22).
-/

namespace Sys2Proof.Machine

/-- A received CEC frame in the engine's buffer (R435): its blocks, the flags of payload byte 2, and TB at its last bit. -/
structure CecFrame where
  blocks : List Byte
  held   : Bool
  wake   : Bool
  unacked : Bool
  tb     : BitVec 64
deriving DecidableEq, Repr

/-- A frame being sent (R438): its blocks and the attempts made. -/
structure CecTx where
  blocks   : List Byte
  attempts : Nat := 0
deriving DecidableEq, Repr

/-- The CEC engine (R431-R440, CEC registers). `poll` lists the addresses still to be polled, with the polls made of the first. -/
structure Cec where
  en      : Bool := false
  pullup  : Bool := false
  mask    : BitVec 15 := 0
  phys    : Word := 0xFFFF
  fcount  : Nat := 0
  fopc    : Vector Word 4 := Vector.replicate 4 0
  sbydrop : Word := 0
  evt     : Sqc := {}
  sside   : Bool := false
  line    : Bool := false
  buf     : List CecFrame := []
  tx      : Option CecTx := none
  poll    : Option (List Nat × Nat) := none
deriving DecidableEq, Repr

/-- An IR decoder (R441-R447, IR registers). `lastEnd` is the IRS period in which the last CODE or REPEAT ended; `heldCode` and
`heldErr` what it keeps in AO while PR is dark: code, bits and WAKE mark; reason and bits. -/
structure Ir where
  dec      : BitVec 3 := 0
  param    : Vector Word 4 := Vector.replicate 4 0
  reason   : Byte := 0
  line     : Bool := true
  evt      : Sqc := {}
  lastCode : Word := 0
  errCount : Word := 0
  lastEnd  : Option Nat := none
  heldCode : Option (Word × Nat × Bool) := none
  heldErr  : Option (Byte × Nat) := none
deriving DecidableEq, Repr

/-- What a ladder reading decodes to (R450): no key, a key set, or neither. -/
inductive KpdSet where
  | none | keys (set : BitVec 6) | unresolved
deriving DecidableEq, Repr

/-- The keypad (R448-R452, KPD registers). `cand` and `runs` are the last decode and how often it came in a row, `acc` the
accepted state, `accL`, `accC` and `accTb` its accepting decode, `repAt` the tick of the next REPEAT, `wakePend` that the keypad woke the device and no PRESS came yet. -/
structure Kpd where
  en       : Bool := false
  ain      : BitVec 5 := 0
  th       : Vector (BitVec 16) 14 := Vector.replicate 14 0
  down     : Bool := false
  cand     : KpdSet := .none
  runs     : Nat := 0
  acc      : KpdSet := .none
  lastSet  : BitVec 6 := 0
  lastL    : BitVec 16 := 0
  lastC    : BitVec 12 := 0
  evt      : Sqc := {}
  wakemask : BitVec 6 := 0
  wakePend : Bool := false
  repAt    : Nat := 0
  accL     : BitVec 16 := 0
  accC     : BitVec 12 := 0
  accTb    : BitVec 64 := 0
deriving DecidableEq, Repr

/-- What the RX FIFO of a UART holds: a character with its marks, or a BREAK between characters (R456), each with TB when it was
received. -/
inductive RxItem where
  | char (b : Byte) (parity framing : Bool) (tb : BitVec 64)
  | brk (tb : BitVec 64)
deriving DecidableEq, Repr

/-- What the transmitter of a UART is sending (R459). -/
inductive TxItem where
  | char (b : Byte)
  | brk
deriving DecidableEq, Repr

/-- A UART (R455-R459, UART registers). `ovr` is an overrun that the next message carries; `still`: the line has been idle for IDLE
character times. -/
structure Uart where
  en      : Bool := false
  parity  : BitVec 2 := 0
  stop2   : Bool := false
  bits7   : Bool := false
  flow    : Bool := false
  txqen   : Bool := false
  baud    : Word := 0x9C4
  rxthr   : Nat := 1
  idle    : BitVec 8 := 2
  rx      : List RxItem := []
  tx      : List Byte := []
  shift   : Option TxItem := none
  brkPend : Bool := false
  ovr    : Bool := false
  still   : Bool := false
  evt     : Sqc := {}
  rxlost  : Word := 0
deriving DecidableEq, Repr

/-- One I2C transfer (R461): STOP, bytes, READ, ADDR, the master that wrote it, and the bytes a write sends. -/
structure I2cXfer where
  stop  : Bool
  bytes : Nat
  read  : Bool
  addr  : BitVec 7
  by_   : Master
  data  : List Byte
deriving DecidableEq, Repr

/-- An I2C controller (R460-R463, I2C registers). -/
structure I2c where
  en      : Bool := false
  stretch : BitVec 8 := 25
  thigh   : BitVec 8 := 0x77
  tlow    : BitVec 8 := 0x77
  tx      : List Byte := []
  rx      : List Byte := []
  busy    : Option I2cXfer := none
  hold    : Bool := false
  count   : Nat := 0
  result  : BitVec 4 := 0
  evt     : Sqc := {}
  queue   : BitVec 16 := 0
deriving DecidableEq, Repr

/-- The GPIO and the pin multiplexer (R464-R466). `pads` are the levels that the outside gives the pins; `qBy` the master that
last wrote GPIO_QUEUE. -/
structure Gpio where
  out   : Word := 0
  oe    : Word := 0
  od    : Word := 0
  pull  : Vector Word 2 := Vector.replicate 2 0
  edge  : Vector Word 2 := Vector.replicate 2 0
  evt   : Vector Sqc 2 := Vector.replicate 2 {}
  queue : BitVec 16 := 0
  qBy   : Master := 0
  pads  : Word := 0
  func  : Vector Word 2 := Vector.replicate 2 0
deriving DecidableEq, Repr

end Sys2Proof.Machine
end

