-- ==== Sys2Proof/Machine/State.lean ====
section
/-!
DEFINITION. The state of the BL24: every piece of state the spec gives the part, as plain data, the queue of waiting
commands, the reasons a step can stop, and the state right after reset.
-/

namespace Sys2Proof.Machine

/-- The whole machine. -/
structure State where
  pending : List Instr := []
  variant : Variant := .x
  tb      : BitVec 64 := 0
  mem     : List Host.Cell := []
  sec     : List Nat := []
  ded     : List Nat := []
  poison  : List Nat := []
  sys     : Sys := {}
  ec      : Ec := {}
  pwr     : Pwr := {}
  lv      : Leave := {}
  pool    : Pool
  cue     : Cue
  cores   : Vector CoreState 8 := Vector.replicate 8 {}
  prompter : CoreState := {}
  fab     : Fab
  bwr     : Bwr := {}
  dma     : Vector DmaCh 16 := Vector.replicate 16 {}
  trc     : Trc := {}
  dbg     : Dbg := {}
  wd      : Wd := {}
  time    : Time := {}
  adc     : Vector Adc 4 := Vector.replicate 4 {}
  spd     : Vector Spd 8 := Vector.replicate 8 {}
  lane    : Vector Lane 24 := Vector.replicate 24 {}
  laneBlk : LaneBlk := {}
  stat    : Stat := {}
  part    : Partition := {}
  cec     : Cec := {}
  ir      : Vector Ir 2 := Vector.replicate 2 {}
  irWake  : Vector Word 8 := Vector.replicate 8 0
  irWakeN : Nat := 0
  kpd     : Kpd := {}
  uart    : Vector Uart 2 := Vector.replicate 2 {}
  i2c     : Vector I2c 2 := Vector.replicate 2 {}
  gpio    : Gpio := {}
  cry     : Cry := {}
  key     : KeyStore := {}
  otp     : Otp := {}
  flc     : Flc := {}
  install : Install := {}
  sets    : Settings := {}
  link    : Link := {}
  elv     : Elv := {}
  boot    : Boot := {}
  last    : Vector (BitVec 3 × Word) 15 := Vector.replicate 15 (0, 0)
  fatal   : Option (BitVec 8) := none
deriving DecidableEq, Repr

/-- Reasons for a fault. No rule of the spec stops the block with one: every error it describes is an answer, an event, a record, a
status or a reset, and each of them is a next state. -/
inductive Fault
deriving DecidableEq, Repr

/-- Reasons for a refusal. -/
inductive Refusal where
  /-- Raised by the arm of a command that has no meaning yet. Safe: the run stops. -/
  | notModelled (mnemonic : String)
deriving DecidableEq, Repr

/-! ### Values at power-on reset that depend on the variant -/

/-- POOL_CFG (R182). -/
def poolBase0 : Variant → Word | .x => 0x101C0000 | .s => 0x100C0000 | .t => 0x10040000

/-- The class registers (R189). -/
def poolClass0 (c : Fin 16) : PoolClass :=
  if c.val < 2 then { res := 32, cap := 128, waitlim := 240 }
  else if c.val = 2 then { res := 48, cap := 256, waitlim := 24 }
  else if c.val < 8 then { res := 16, cap := 256, waitlim := 24 }
  else { res := 16, cap := 256, waitlim := 240 }

/-- CUE_TBASE (R164). -/
def cueBase0 : Variant → Word | .x => 0x101FF800 | .s => 0x100FF800 | .t => 0x1007F800

/-- The domains that are up at reset: all present ones but the stage cores' (R253, R340). -/
def dom0 : Variant → BitVec 16 | .t => 0x1C03 | _ => 0x3C03

/-- The banks at reset: the present ones are ON (R341). -/
def sram0 (v : Variant) : Vector (BitVec 2) 16 :=
  Vector.ofFn fun b : Fin 16 => if b.val < (match v with | .x => 16 | .s => 8 | .t => 4) then 2 else 0

/-- The machine of a variant with every register at its reset value and nothing in its memories. -/
def State.base (v : Variant) : State :=
  { variant := v
    pool := { base := poolBase0 v, n256 := 4, cls := Vector.ofFn poolClass0 }
    cue := { tbase := cueBase0 v }
    fab := { alloc := tagReset v }
    pwr := { dom := dom0 v, sram := sram0 v } }

/-- The machine right after power-on reset (R48, R250): a BL24-X whose OTP cells carry no charge and whose flash is erased (log entry
10), with an empty queue of commands. -/
def State.reset : State := State.base .x

end Sys2Proof.Machine
end

