-- ==== Sys2Proof/Machine/Ops.lean ====
section
/-!
DEFINITION. The named operations over memory, event-status registers, error records and the sizes of the variants, which
every meaning goes through (00, 01, 03, 24).
-/

namespace Sys2Proof.Machine

/-- What one command answers. -/
abbrev Result := Host.Outcome State Fault Refusal

/-- One element of a vector changed. -/
def updV {α : Type} {n : Nat} (v : Vector α n) (i : Fin n) (f : α → α) : Vector α n := v.set i.val (f v[i]) i.isLt

/-- One element of a vector replaced. -/
def putV {α : Type} {n : Nat} (v : Vector α n) (i : Fin n) (x : α) : Vector α n := v.set i.val x i.isLt

/-- A word as its unsigned 16-bit, byte and Boolean parts. -/
def bitsOf (w : Word) (lo len : Nat) : Nat := (w.toNat / 2 ^ lo) % 2 ^ len

def natW (n : Nat) : Word := BitVec.ofNat 32 n
def natB (n : Nat) : Byte := BitVec.ofNat 8 n
def boolN (b : Bool) (sh : Nat) : Nat := if b then 2 ^ sh else 0

/-- The bytes of a number, least significant first (00_scope.md: memory is little-endian). -/
def leBytes (k n : Nat) : List Byte := (List.range k).map fun i => natB (n / 256 ^ i)

/-- The number whose bytes, least significant first, are given. -/
def ofLe : List Byte → Nat
  | [] => 0
  | b :: r => b.toNat + 256 * ofLe r

/-- `k` bytes from position `i`, 0 where the list ends. -/
def argN (l : List Byte) (i k : Nat) : Nat := ofLe ((List.range k).map fun j => l.getD (i + j) 0)

/-! ### Sizes of the variants (R1, R11, R19, R40, R41) -/

def coreCount : Variant → Nat | .x => 8 | .s => 4 | .t => 2
def laneCount : Variant → Nat | .x => 24 | .s => 16 | .t => 8
def adcCount : Variant → Nat | .x => 4 | .s => 3 | .t => 2
def spdCount : Variant → Nat | .x => 8 | .s => 4 | .t => 0
def bankCount : Variant → Nat | .x => 16 | .s => 8 | .t => 4
def flashBank : Variant → Nat | .x => 0x100000 | .s => 0x80000 | .t => 0x40000
def poolMax : Variant → Nat | .x => 64 | .s => 32 | .t => 16
def tagCount : Variant → Nat | .x => 2048 | .s => 2048 | .t => 1024
def hasCry : Variant → Bool | .t => false | _ => true
def hasStat : Variant → Bool | .t => false | _ => true
def hasTrc : Variant → Bool | .t => false | _ => true
def sysFeat0 : Variant → Word | .x => 0x000B8988 | .s => 0x00174704 | .t => 0x00200482
def sysFeat1 : Variant → Word | .x => 0x0056BEBB | .s => 0x0056BDAA | .t => 0x0056AC99
def sysMasters : Variant → Word | .x => 0x00007FFF | .s => 0x00007F0F | .t => 0x00004F03
def sramSize (v : Variant) : Nat := bankCount v * 0x20000

/-- Whether a fabric master is present (R19). -/
def masterPresent (v : Variant) (m : Master) : Bool := (sysMasters v).getLsbD m.val

/-- A core as a fabric master (R12). -/
def coreM (c : Core) : Master := ⟨c.val, by omega⟩

/-! ### Memory -/

/-- What an address reads as while no byte is listed: erased flash for the flash arrays (R276), 0 elsewhere (log entry 6). -/
def unlisted (a : Nat) : Byte := if a < 0x210000 then 0xFF else 0

/-- The byte at an address. -/
def memGet (m : List Host.Cell) (a : Nat) : Byte :=
  match m with
  | [] => unlisted a
  | (k, b) :: r => if k = a then b else if a < k then unlisted a else memGet r a

/-- Memory with one byte written, in the canonical form. -/
def memSet (m : List Host.Cell) (a : Nat) (b : Byte) : List Host.Cell :=
  match m with
  | [] => if b = unlisted a then [] else [(a, b)]
  | (k, c) :: r =>
    if k = a then (if b = unlisted a then r else (a, b) :: r)
    else if a < k then (if b = unlisted a then (k, c) :: r else (a, b) :: (k, c) :: r)
    else (k, c) :: memSet r a b

/-- Memory with consecutive bytes written from an address. -/
def memPut (m : List Host.Cell) (a : Nat) : List Byte → List Host.Cell
  | [] => m
  | b :: r => memPut (memSet m a b) (a + 1) r

/-- `k` consecutive bytes from an address. -/
def memBytes (m : List Host.Cell) (a k : Nat) : List Byte := (List.range k).map fun i => memGet m (a + i)

/-- Memory with every byte of [lo, hi) back at what an unlisted address reads as: zeroed SRAM, erased flash. -/
def memClear (m : List Host.Cell) (lo hi : Nat) : List Host.Cell := m.filter fun c => c.1 < lo || hi ≤ c.1

/-- The canonical form: addresses strictly rising, no entry equal to what an unlisted address reads as. -/
def memWf : List Host.Cell → Bool
  | [] => true
  | [(a, b)] => b != unlisted a
  | (a, b) :: (a', b') :: r => b != unlisted a && decide (a < a') && memWf ((a', b') :: r)

/-- One byte of the machine's memory. -/
def State.byte (s : State) (a : Nat) : Byte := memGet s.mem a

/-- The 32-bit word at a byte address. -/
def State.word (s : State) (a : Nat) : Word := natW (ofLe (memBytes s.mem a 4))

/-- Bytes written at an address, with no check of any kind. -/
def State.put (s : State) (a : Nat) (bs : List Byte) : State := { s with mem := memPut s.mem a bs }

/-- [lo, hi) back at what unlisted addresses read as, with good check bits. -/
def State.wipe (s : State) (lo hi : Nat) : State :=
  { s with mem := memClear s.mem lo hi
           sec := s.sec.filter fun a => a < lo || hi ≤ a
           ded := s.ded.filter fun a => a < lo || hi ≤ a
           poison := s.poison.filter fun a => a < lo || hi ≤ a }

/-- The check bits of the words of [lo, hi) are good again: they are written whole (R127). -/
def State.heal (s : State) (lo hi : Nat) : State :=
  { s with sec := s.sec.filter fun a => a < lo || hi ≤ a
           ded := s.ded.filter fun a => a < lo || hi ≤ a
           poison := s.poison.filter fun a => a < lo || hi ≤ a }

/-- Whole words written by the Cue engine or a unit. -/
def State.fill (s : State) (a : Nat) (bs : List Byte) : State := (s.heal a (a + bs.length / 4 * 4)).put a bs

/-! ### Event-status registers (R54, R55) -/

/-- A hardware set of one event bit. -/
def Sqc.raise (q : Sqc) (bit : Nat) : Sqc := { q with bits := q.bits ||| BitVec.ofNat 27 (2 ^ bit), count := q.count + 1 }

/-- What a read returns. -/
def Sqc.val (q : Sqc) : Word := natW ((q.count % 16) * 2 ^ 28 + boolN q.miss 27 + q.bits.toNat)

/-- A read by master m: the set count is noted for it. -/
def Sqc.read (q : Sqc) (m : Master) : Sqc := { q with seen := putV q.seen m (some q.count) }

/-- Whether a clear from master m with this word takes effect (R55). -/
def Sqc.clearOk (q : Sqc) (m : Master) (w : Word) : Bool :=
  decide (bitsOf w 28 4 = q.count % 16) && decide (q.seen[m] = some q.count)

/-- A clear write. -/
def Sqc.clear (q : Sqc) (m : Master) (w : Word) : Sqc :=
  if q.clearOk m w then { q with bits := q.bits &&& ~~~(w.extractLsb' 0 27), miss := false } else { q with miss := true }

/-! ### Error records (R493-R499) -/

/-- A record is lost (R499). -/
def ecLose (s : State) (source : BitVec 8) (cls : BitVec 2) : State :=
  { s with ec := { s.ec with lost := s.ec.lost + 1, evt := s.ec.evt.raise 2, lastLost := cls ++ source, lostBefore := true } }

/-- The collector builds a record and places it at the tail of the FIFO of 32, or loses it (R497). -/
def ecBuild (s : State) (source : BitVec 8) (cls : BitVec 2) (master : BitVec 4) (secure : Bool) (answer : BitVec 3)
    (addr detail : Word) : State :=
  let bit := if cls = 0 then 0 else if cls = 1 then 1 else 3
  let s := { s with ec := { s.ec with
    evt := s.ec.evt.raise bit
    count := if h : cls.toNat < 3 then updV s.ec.count ⟨cls.toNat, h⟩ (· + 1) else s.ec.count } }
  if s.ec.fifo.length < 32 then
    { s with ec := { s.ec with
        fifo := s.ec.fifo ++ [⟨source, cls, master, secure, answer, addr, detail, s.tb.setWidth 32⟩] } }
  else ecLose s source cls

/-- Whether a BUS or FABRIC_TIMEOUT record of master m waits to be committed or lost, so that m's later commits are held
(R500). -/
def ecDue (s : State) (m : BitVec 4) : Bool :=
  m ≠ 15 && s.ec.fifo.any fun r => (r.source = 0x01 || r.source = 0x02) && r.master = m

/-- SYS_ERR.RSVD_ENC is set, and SYS_ERR_SRC takes the first write since the bit was last 0 (R58, R60). -/
def rsvdEnc (s : State) (m : Master) (addr : Word) : State :=
  { s with sys := { s.sys with
      errSrc := if s.sys.err.bits.getLsbD 0 then s.sys.errSrc
                else natW (m.val * 2 ^ 28 + bitsOf addr 0 28)
      err := s.sys.err.raise 0 } }

/-- One stage core changed. -/
def State.updCore (s : State) (c : Core) (f : CoreState → CoreState) : State := { s with cores := updV s.cores c f }

/-- Whether the domain of stage core c is up and not draining (R340, R344). -/
def coreUp (s : State) (c : Core) : Bool :=
  decide (c.val < coreCount s.variant) && s.pwr.dom.getLsbD (2 + c.val) && !s.pwr.drain.getLsbD (2 + c.val)

/-- Whether a domain by its code is up and not draining. -/
def domUp (s : State) (code : Fin 16) : Bool := s.pwr.dom.getLsbD code.val && !s.pwr.drain.getLsbD code.val

/-- Whether an SRAM bank is ON, not draining and not coming up (R341). -/
def bankOn (s : State) (b : Fin 16) : Bool :=
  decide (b.val < bankCount s.variant) && decide (s.pwr.sram[b] = 2) && !s.pwr.drain.getLsbD (16 + b.val)

/-- The Curtain is open (R274). -/
def curtainOpen (s : State) : Bool := s.sys.phase = 2

/-- TB as a number of ticks. -/
def State.now (s : State) : Nat := s.tb.toNat

end Sys2Proof.Machine
end

