-- ==== Sys2Proof/Machine/Crypto.lean ====
section
/-!
DEFINITION. The algorithms of the crypto engine, the key store and the firmware-visible checks: SHA-256, HMAC-SHA-256 and the
KDF of R317, AES with ECB, CBC, CTR and GCM (R328), ECDSA P-256 verification, CRC-16 (R208) and CRC-32 (R280).
-/

namespace Sys2Proof.Machine

/-- A number from bytes, most significant first. -/
def beNat (bs : List Byte) : Nat := bs.foldl (fun n b => n * 256 + b.toNat) 0

/-- `k` bytes of a number, most significant first. -/
def beBytes (k n : Nat) : List Byte := (leBytes k n).reverse

/-- Pieces of `k` elements. `fuel` bounds the pieces. -/
def chunks {α : Type} (k : Nat) : Nat → List α → List (List α)
  | 0, _ => []
  | fuel + 1, l => if l.isEmpty then [] else l.take k :: chunks k fuel (l.drop k)

def xorBytes (a b : List Byte) : List Byte := List.zipWith (· ^^^ ·) a b

/-! ### SHA-256 (FIPS 180-4) -/

/-- The first 32 bits after the point of the k-th root of n, found bit by bit. -/
def rootBits (k n : Nat) : Nat :=
  (List.range 38).foldr (fun i x => if (x + 2 ^ i) ^ k ≤ n * 2 ^ (32 * k) then x + 2 ^ i else x) 0 % 2 ^ 32

/-- The primes below 312, of which there are 64: no number from 2 to 17 divides them but themselves. -/
def shaPrimes : List Nat := (List.range 312).filter fun n => decide (2 ≤ n) && (List.range' 2 16).all fun d => n % d ≠ 0 || d = n

/-- The round constants come from the cube roots of the first 64 primes, the initial hash value from the square roots of the first eight. -/
def shaK : List Word := shaPrimes.map fun n => natW (rootBits 3 n)
def shaInit : List Word := (shaPrimes.take 8).map fun n => natW (rootBits 2 n)

def at32 (l : List Word) (i : Nat) : Word := l.getD i 0

/-- The message schedule: the 16 words of the block, then 48 more. The newest word stands first. -/
def shaSchedule (block : List Word) : List Word :=
  ((List.range 48).foldl (fun rev _ =>
    let a := at32 rev 1
    let b := at32 rev 14
    let s1 := a.rotateRight 17 ^^^ a.rotateRight 19 ^^^ (a >>> 10)
    let s0 := b.rotateRight 7 ^^^ b.rotateRight 18 ^^^ (b >>> 3)
    (s1 + at32 rev 6 + s0 + at32 rev 15) :: rev) block.reverse).reverse

/-- One round over the working variables a to h. -/
def shaRound (v : List Word) (kw : Word) : List Word :=
  match v with
  | [a, b, c, d, e, f, g, h] =>
    let s1 := e.rotateRight 6 ^^^ e.rotateRight 11 ^^^ e.rotateRight 25
    let ch := (e &&& f) ^^^ (~~~e &&& g)
    let t1 := h + s1 + ch + kw
    let s0 := a.rotateRight 2 ^^^ a.rotateRight 13 ^^^ a.rotateRight 22
    let maj := (a &&& b) ^^^ (a &&& c) ^^^ (b &&& c)
    [t1 + (s0 + maj), a, b, c, d + t1, e, f, g]
  | _ => v

/-- The hash value after one 64-byte block. -/
def shaBlock (h : List Word) (block : List Byte) : List Word :=
  let ws := (chunks 4 16 block).map fun b => natW (beNat b)
  let v := (List.zipWith (· + ·) shaK (shaSchedule ws)).foldl shaRound h
  List.zipWith (· + ·) h v

/-- The padding after `n` message bytes in all. -/
def shaPad (n : Nat) : List Byte := 0x80 :: List.replicate ((119 - n % 64) % 64) 0 ++ beBytes 8 (8 * n)

/-- The hash value after the rest of a message of `n` bytes in all. -/
def shaFinish (h : List Word) (rest : List Byte) (n : Nat) : List Word :=
  (chunks 64 (rest.length / 64 + 2) (rest ++ shaPad n)).foldl shaBlock h

def wordsBe (ws : List Word) : List Byte := ws.flatMap fun w => beBytes 4 w.toNat

def sha256 (m : List Byte) : List Byte := wordsBe (shaFinish shaInit m m.length)

/-! ### HMAC and the KDF -/

def hmacKey (key : List Byte) : List Byte :=
  let k := if key.length ≤ 64 then key else sha256 key
  k ++ List.replicate (64 - k.length) 0

def hmacPad (key : List Byte) (x : Byte) : List Byte := (hmacKey key).map (· ^^^ x)

def hmac (key m : List Byte) : List Byte :=
  sha256 (hmacPad key 0x5c ++ sha256 (hmacPad key 0x36 ++ m))

/-- The KDF in counter mode (R317): `bits` is 128 or 256. -/
def kdf (kin label : List Byte) (div : Nat) (purpose : Byte) (bits : Nat) : List Byte :=
  (hmac kin (beBytes 4 1 ++ label ++ [0] ++ beBytes 4 div ++ [purpose] ++ beBytes 4 bits)).take (bits / 8)

/-! ### AES (FIPS 197) -/

/-- Multiplication by x in GF(2^8). -/
def xtime (b : Byte) : Byte := (b <<< 1) ^^^ (if b.getLsbD 7 then 0x1b else 0)

/-- Multiplication in GF(2^8). -/
def gmul (a b : Byte) : Byte :=
  ((List.range 8).foldl (fun (p : Byte × Byte) i => (if b.getLsbD i then p.1 ^^^ p.2 else p.1, xtime p.2)) (0, a)).1

/-- The inverse in GF(2^8), 0 for 0: the 254th power. -/
def ginv (a : Byte) : Byte :=
  let sq (x : Byte) : Byte := gmul x x
  ((List.range 7).foldl (fun (p : Byte × Byte) _ => let q := sq p.2; (gmul p.1 q, q)) (1, a)).1

def subByte (a : Byte) : Byte :=
  let b := ginv a
  b ^^^ b.rotateLeft 1 ^^^ b.rotateLeft 2 ^^^ b.rotateLeft 3 ^^^ b.rotateLeft 4 ^^^ 0x63

def invSubByte (a : Byte) : Byte := ginv (a.rotateLeft 1 ^^^ a.rotateLeft 3 ^^^ a.rotateLeft 6 ^^^ 0x05)

/-- The expanded key as 4-byte words, oldest first, for `nk` = 4 or 8 key words. -/
def aesExpand (key : List Byte) (nk : Nat) : List (List Byte) :=
  let total := 4 * (nk + 7)
  let r := (List.range (total - nk)).foldl (fun (p : List (List Byte) × Byte) i =>
    let rev := p.1
    let t := rev.getD 0 []
    let n := i + nk
    let rot := t.drop 1 ++ t.take 1
    let u :=
      if n % nk = 0 then xorBytes (rot.map subByte) [p.2, 0, 0, 0]
      else if 6 < nk ∧ n % nk = 4 then t.map subByte
      else t
    (xorBytes (rev.getD (nk - 1) []) u :: rev, if n % nk = 0 then xtime p.2 else p.2)) ((chunks 4 nk key).reverse, 1)
  r.1.reverse

/-- The round keys of 16 bytes. -/
def aesKeys (key : List Byte) : List (List Byte) :=
  let nk := key.length / 4
  chunks 16 (nk + 7) (aesExpand key nk).flatten

/-- The state's bytes moved: position i takes the byte of position `f i`. -/
def permBytes (f : Nat → Nat) (st : List Byte) : List Byte := (List.range 16).map fun i => st.getD (f i) 0

/-- Row r of the state shifts left by r; byte i is row i mod 4, column i / 4. -/
def shiftRows (st : List Byte) : List Byte := permBytes (fun i => (i + 4 * (i % 4)) % 16) st
def invShiftRows (st : List Byte) : List Byte := permBytes (fun i => (i + 12 * (i % 4)) % 16) st

/-- One column times the circulant of four coefficients. -/
def mixColumn (co c : List Byte) : List Byte :=
  (List.range 4).map fun i =>
    (List.range 4).foldl (fun acc j => acc ^^^ gmul (co.getD ((j + 4 - i) % 4) 0) (c.getD j 0)) 0

def mixColumns (co st : List Byte) : List Byte := (chunks 4 4 st).flatMap (mixColumn co)

/-- One block enciphered. -/
def aesEnc (key block : List Byte) : List Byte :=
  match aesKeys key with
  | [] => block
  | k0 :: ks =>
    let n := ks.length
    (ks.zipIdx.foldl (fun st p =>
      let st := shiftRows (st.map subByte)
      let st := if p.2 + 1 < n then mixColumns [2, 3, 1, 1] st else st
      xorBytes st p.1) (xorBytes block k0))

/-- One block deciphered. -/
def aesDec (key block : List Byte) : List Byte :=
  match aesKeys key with
  | [] => block
  | k0 :: ks =>
    let n := ks.length
    let st := ks.zipIdx.reverse.foldl (fun st p =>
      let st := xorBytes st p.1
      let st := if p.2 + 1 < n then mixColumns [14, 11, 13, 9] st else st
      (invShiftRows st).map invSubByte) block
    xorBytes st k0

/-- Counter block i after an initial one: the low 32 bits advance (R328). -/
def ctrBlock (iv : List Byte) (i : Nat) : List Byte :=
  iv.take 12 ++ beBytes 4 ((beNat (iv.drop 12) + i) % 2 ^ 32)

/-- CTR over a whole message. -/
def aesCtr (key iv m : List Byte) : List Byte :=
  (chunks 16 (m.length / 16 + 1) m).zipIdx.flatMap fun p => xorBytes p.1 (aesEnc key (ctrBlock iv p.2))

/-- Multiplication in the field of GHASH; bit 127 is the coefficient of 1 (NIST SP 800-38D). -/
def ghashMul (x y : BitVec 128) : BitVec 128 :=
  ((List.range 128).foldl (fun (p : BitVec 128 × BitVec 128) i =>
    (if x.getMsbD i then p.1 ^^^ p.2 else p.1,
     if p.2.getLsbD 0 then (p.2 >>> 1) ^^^ (0xE1#128 <<< 120) else p.2 >>> 1)) (0, y)).1

def ghashBlock (h y : BitVec 128) (b : List Byte) : BitVec 128 :=
  ghashMul (y ^^^ BitVec.ofNat 128 (beNat (b ++ List.replicate (16 - b.length) 0))) h

/-- The GCM tag over additional data and ciphertext, under a 96-bit IV. -/
def gcmTag (key iv aad ct : List Byte) : List Byte :=
  let h := BitVec.ofNat 128 (beNat (aesEnc key (List.replicate 16 0)))
  let bs := chunks 16 (aad.length / 16 + 1) aad ++ chunks 16 (ct.length / 16 + 1) ct
  let y := bs.foldl (ghashBlock h) 0
  let y := ghashBlock h y (beBytes 8 (8 * aad.length) ++ beBytes 8 (8 * ct.length))
  xorBytes (beBytes 16 y.toNat) (aesEnc key (iv ++ beBytes 4 1))

/-! ### ECDSA on NIST P-256 -/

def p256P : Nat := 0xffffffff00000001000000000000000000000000ffffffffffffffffffffffff
def p256N : Nat := 0xffffffff00000000ffffffffffffffffbce6faada7179e84f3b9cac2fc632551
def p256B : Nat := 0x5ac635d8aa3a93e7b3ebbd55769886bc651d06b0cc53b0f63bce3c3e27d2604b
def p256Gx : Nat := 0x6b17d1f2e12c4247f8bce6e563a440f277037d812deb33a0f4a13945d898c296
def p256Gy : Nat := 0x4fe342e2fe1a7f9b8ee7eb4a7c0f9e162bce33576b315ececbb6406837bf51f5

/-- b^e mod m over the low `bits` bits of e. -/
def powMod (b e m bits : Nat) : Nat :=
  ((List.range bits).foldl (fun (p : Nat × Nat) i =>
    (if e.testBit i then p.1 * p.2 % m else p.1, p.2 * p.2 % m)) (1, b % m)).1

/-- The inverse modulo a prime. -/
def invMod (a m : Nat) : Nat := powMod a (m - 2) m 256

/-- A point of the curve in Jacobian coordinates: (X / Z^2, Y / Z^3), the point at infinity where Z is 0. -/
structure EcPoint where
  x : Nat
  y : Nat
  z : Nat

/-- The difference modulo p of two numbers below it. -/
def ecSub (a b : Nat) : Nat := (a + p256P - b) % p256P

/-- A point doubled. -/
def ecDbl (a : EcPoint) : EcPoint :=
  let p := p256P
  if a.z = 0 then a
  else
    let yy := a.y * a.y % p
    let zz := a.z * a.z % p
    let s := 4 * a.x * yy % p
    let m := 3 * ecSub a.x zz * (a.x + zz) % p
    let x := ecSub (m * m % p) (2 * s % p)
    ⟨x, ecSub (m * ecSub s x % p) (8 * yy * yy % p), 2 * a.y * a.z % p⟩

/-- The sum of two points. -/
def ecAdd (a b : EcPoint) : EcPoint :=
  let p := p256P
  if a.z = 0 then b
  else if b.z = 0 then a
  else
    let za := a.z * a.z % p
    let zb := b.z * b.z % p
    let u := a.x * zb % p
    let s := a.y * zb % p * b.z % p
    let h := ecSub (b.x * za % p) u
    let r := ecSub (b.y * za % p * a.z % p) s
    if h = 0 then (if r = 0 then ecDbl a else ⟨1, 1, 0⟩)
    else
      let hh := h * h % p
      let hhh := hh * h % p
      let v := u * hh % p
      let x := ecSub (ecSub (r * r % p) hhh) (2 * v % p)
      ⟨x, ecSub (r * ecSub v x % p) (s * hhh % p), a.z * b.z % p * h % p⟩

/-- A multiple of a point. -/
def ecMul (k : Nat) (q : EcPoint) : EcPoint :=
  ((List.range 256).foldl (fun (a : EcPoint × EcPoint) i =>
    (if k.testBit i then ecAdd a.1 a.2 else a.1, ecDbl a.2)) (⟨1, 1, 0⟩, q)).1

/-- ECDSA verification: message hash, public key X and Y, signature r and s, all big-endian 32-byte strings. -/
def ecdsaVerify (hash pub sig : List Byte) : Bool :=
  let x := beNat (pub.take 32)
  let y := beNat (pub.drop 32)
  let r := beNat (sig.take 32)
  let t := beNat (sig.drop 32)
  let p := p256P
  let n := p256N
  let onCurve : Bool := decide (x < p) && decide (y < p) && y * y % p == (x * x * x + (p - 3) * x + p256B) % p
  if !onCurve || r = 0 || n ≤ r || t = 0 || n ≤ t then false
  else
    let w := invMod t n
    let q := ecAdd (ecMul (beNat hash * w % n) ⟨p256Gx, p256Gy, 1⟩) (ecMul (r * w % n) ⟨x, y, 1⟩)
    q.z != 0 && q.x * invMod (q.z * q.z) p % p % n == r

/-! ### CRCs -/

/-- CRC-16 of R208: polynomial 0x1021, initial value 0xFFFF, most significant bit first. -/
def crc16 (bs : List Byte) : BitVec 16 :=
  bs.foldl (fun (c : BitVec 16) (b : Byte) =>
    (List.range 8).foldl (fun (c : BitVec 16) _ => if c.getMsbD 0 then (c <<< 1) ^^^ 0x1021 else c <<< 1)
      (c ^^^ ((b.setWidth 16 : BitVec 16) <<< 8))) 0xFFFF

/-- CRC-32 of R280: reflected polynomial 0xEDB88320, initial value and final XOR all ones. -/
def crc32 (bs : List Byte) : Word :=
  ~~~(bs.foldl (fun (c : Word) (b : Byte) =>
    (List.range 8).foldl (fun (c : Word) _ => if c.getLsbD 0 then (c >>> 1) ^^^ 0xEDB88320 else c >>> 1)
      (c ^^^ b.setWidth 32)) 0xFFFFFFFF)

end Sys2Proof.Machine
end

