-- ==== Sys2Proof/Machine/Trace.lean ====
section
/-!
DEFINITION. The trace collector: packets, their encodings and the events that emit them (23_trace_debug.md, R467-R478).
-/

namespace Sys2Proof.Machine

/-- An unsigned varint, least significant group first (Packet encoding). `fuel` bounds the groups. -/
def varint : Nat → Nat → List Byte
  | 0, _ => []
  | fuel + 1, n => if n < 128 then [natB n] else natB (n % 128 + 128) :: varint fuel (n / 128)

/-- The zig-zag value of a signed 32-bit difference. -/
def zigzag (d : Word) : Nat := ((d <<< 1) ^^^ (d.sshiftRight 31)).toNat

/-- A packet enters the collector buffer whole, or is discarded whole (R476). -/
def trcPush (s : State) (src : Option Core) (bs : List Byte) : State :=
  if s.trc.buf.length + bs.length ≤ 4096 then
    { s with trc := { s.trc with buf := s.trc.buf ++ bs, sinceSync := s.trc.sinceSync + bs.length } }
  else
    let t := s.trc
    { s with trc := { t with
        lostBytes := t.lostBytes + natW bs.length
        discarded := t.discarded + bs.length
        core := match src with
          | some c => updV t.core c fun k => { k with lost := true }
          | none => t.core } }

/-- One header byte (R472). -/
def trcHdr (type src : Nat) : Byte := natB (type * 16 + src)

/-- BR with n outcomes, oldest in bit 0, under the marker bit (R472). -/
def brByte (outs : List Bool) : Byte :=
  natB (2 ^ outs.length + ofLeBits outs)
where
  ofLeBits : List Bool → Nat
    | [] => 0
    | b :: r => b.toNat + 2 * ofLeBits r

def trcUpd (s : State) (c : Core) (f : TrcCore → TrcCore) : State :=
  { s with trc := { s.trc with core := updV s.trc.core c f } }

/-- The pending repeat count as BRR, if it is not 0 (R473). -/
def trcBrr (s : State) (c : Core) : State :=
  let k := s.trc.core[c]
  if k.rep = 0 then s
  else trcUpd (trcPush s (some c) (trcHdr 4 c.val :: varint 5 k.rep)) c fun k => { k with rep := 0 }

/-- What goes before any other packet of a core: the repeat count, then the outcomes held as one BR (R473). -/
def trcFlush (s : State) (c : Core) : State :=
  let s := trcBrr s c
  let k := s.trc.core[c]
  if k.outs = [] then s
  else trcUpd (trcPush s (some c) [trcHdr 3 c.val, brByte k.outs]) c fun k => { k with outs := [] }

/-- Whether a packet of `n` bytes fits in the collector buffer (R476). -/
def trcFits (s : State) (n : Nat) : Bool := decide (s.trc.buf.length + n ≤ 4096)

/-- TIME (R472): one that is discarded is no TIME packet of the stream. -/
def trcTime (s : State) : State :=
  let t := trcPush s none (trcHdr 1 15 :: leBytes 8 s.tb.toNat)
  { t with trc := { t.trc with lastTime := if trcFits s 9 then some s.tb else t.trc.lastTime } }

/-- STEP of a core: at most 16,777,215 at once, the rest going on in the next STEP (R472). -/
def trcStep (s : State) (c : Core) : State :=
  let n := s.trc.core[c].steps
  let m := min n 0xFFFFFF
  let v := 2 * m + (if n > 0xFFFFFF then 1 else 0)
  trcUpd (trcPush s (some c) (trcHdr 2 c.val :: varint 5 v)) c fun k => { k with steps := n - m }

/-- The packet that precedes ADDR, CTX and GAP in the core's mode (R468). -/
def trcStamp (s : State) (c : Core) : State :=
  if s.trc.mode.getLsbD c.val then trcStep s c
  else if s.trc.lastTime = some s.tb then s else trcTime s

/-- The task and STATE bytes of a CTX packet (R472). -/
def ctxState (k : CoreState) : Nat := bitsOf k.state 0 2 + boolN k.metEn 2

def ctxBytes (s : State) (c : Core) (reason : Nat) : List Byte :=
  [trcHdr 6 c.val, natB reason, natB (ctxState s.cores[c])] ++ leBytes 2 s.trc.task[c].toNat ++ [0, 0, 0]

/-- ADDR of a core: KIND, the cause for TRAP, and the word delta (R472, R474). -/
def addrBytes (s : State) (c : Core) (kind : Nat) (cause : Option Nat) (target : Word) : List Byte :=
  let d : Word := (target >>> 2) - (s.trc.core[c].lastAddr >>> 2)
  [trcHdr 5 c.val, natB kind] ++ (match cause with | some x => [natB x] | none => []) ++ varint 5 (zigzag d)

def trcSetAddr (s : State) (c : Core) (target : Word) : State := trcUpd s c fun k => { k with lastAddr := target }

/-- Whether core c is traced (R468): one that the variant has. -/
def traced (s : State) (c : Core) : Bool := s.trc.en && s.trc.cores.getLsbD c.val && decide (c.val < coreCount s.variant)

/-- Whether R471 excludes a core with this STATE word. -/
def trcExcluded (s : State) (st : Word) : Bool := st.getLsbD 1 && s.dbg.level ≠ 2

/-- A sync point (R477), before which every core's outcomes are emitted (R473). A core that is dark has no next word, and no packet. -/
def trcSync (s : State) : State :=
  let s := (List.finRange 8).foldl (fun s c => if traced s c then trcFlush s c else s) s
  let s := trcPush s none (List.replicate 11 0xFF ++ [0])
  let s := trcTime s
  let s := { s with trc := { s.trc with sinceSync := 0
                                        core := s.trc.core.map fun k => { k with lastAddr := 0, steps := 0 } } }
  (List.finRange 8).foldl (fun s c =>
    if traced s c && coreUp s c then
      let s := trcPush s (some c) (ctxBytes s c 0)
      if trcExcluded s s.cores[c].state then trcPush s (some c) [trcHdr 7 c.val, 1]
      else trcSetAddr (trcPush s (some c) (addrBytes s c 2 none s.cores[c].pc)) c s.cores[c].pc
    else s) s

/-- The periodic packets of the stream: TIME after a multiple of 2^TIMEK ticks, a sync point after 2^SYNCLOG bytes (R468,
R477). -/
def trcPeriodic (s : State) : State :=
  if !s.trc.en then s
  else
    let mark := s.tb.toNat / 2 ^ s.trc.timek.toNat
    let s := if mark ≠ s.trc.timeMark then
        let s := trcTime s
        { s with trc := { s.trc with timeMark := mark } }
      else s
    if s.trc.sinceSync ≥ 2 ^ s.trc.synclog.toNat then trcSync s else s

/-- CTX of a traced core (R469). -/
def trcCtx (s : State) (c : Core) (reason : Nat) : State :=
  if traced s c then
    let s := trcStamp (trcFlush s c) c
    trcPeriodic (trcPush s (some c) (ctxBytes s c reason))
  else s

/-- GAP of a core (R471). -/
def trcGap (s : State) (c : Core) (reason : Nat) : State :=
  let s := trcStamp (trcFlush s c) c
  trcPeriodic (trcPush s (some c) [trcHdr 7 c.val, natB reason])

/-- ADDR of a traced core that is not excluded (R469, R471). -/
def trcAddr (s : State) (c : Core) (kind : Nat) (cause : Option Nat) (target : Word) : State :=
  if traced s c && !trcExcluded s s.cores[c].state then
    let s := trcStamp (trcFlush s c) c
    let s := trcPush s (some c) (addrBytes s c kind cause target)
    trcPeriodic (trcSetAddr s c target)
  else s

/-- One outcome of a conditional B (R469, R473). -/
def trcOutcome (s : State) (c : Core) (taken : Bool) : State :=
  if traced s c && !trcExcluded s s.cores[c].state then
    let s := trcUpd s c fun k => { k with outs := k.outs ++ [taken] }
    let k := s.trc.core[c]
    if k.outs.length < 6 then s
    else
      let pat := brByte k.outs
      if k.lastBr = some pat then
        let s := trcUpd s c fun k => { k with outs := [], rep := k.rep + 1 }
        if s.trc.core[c].rep = 65535 then trcBrr s c else s
      else
        let s := trcBrr s c
        trcPeriodic (trcUpd (trcPush s (some c) [trcHdr 3 c.val, pat]) c fun k =>
          { k with outs := [], lastBr := if trcFits s 2 then some pat else k.lastBr })
  else s

/-- What a change of PRIV or WORLD from the old STATE word emits for core c, whose STATE is already the new one: CTX with
reason STATE; GAP, which shares the STEP or TIME before the CTX, when it enters an excluded world, RESTART at `next` when it leaves one
(R469, R471). -/
def trcState (s : State) (c : Core) (old : Word) (next : Word) : State :=
  let new := s.cores[c].state
  if !traced s c || bitsOf old 0 2 = bitsOf new 0 2 then s
  else if trcExcluded s old && trcExcluded s new then s
  else
    let s := trcCtx s c 1
    if trcExcluded s new then trcPush s (some c) [trcHdr 7 c.val, 1]
    else if trcExcluded s old then trcAddr s c 2 none next
    else s

/-- Steps, or beats in Metronome mode, added to a core's step counter (R468); none of a Secure section that R471 excludes
count. -/
def trcSteps (s : State) (c : Core) (n : Nat) : State :=
  if traced s c && !trcExcluded s s.cores[c].state then trcUpd s c fun k => { k with steps := k.steps + n } else s

/-- OVF once 512 bytes are free after a discard, then a sync point (R476). -/
def trcOvf (s : State) : State :=
  if s.trc.discarded > 0 ∧ s.trc.buf.length + 512 ≤ 4096 then
    let mask := (List.finRange 8).foldl (fun n c => n + boolN s.trc.core[c].lost c.val) 0
    let s := trcPush s none (trcHdr 8 15 :: varint 5 s.trc.discarded ++ [natB mask])
    let s := { s with trc := { s.trc with discarded := 0, evt := s.trc.evt.raise 1
                                          core := s.trc.core.map fun k => { k with lost := false } } }
    trcSync s
  else s

/-- A disabled collector whose buffer has drained is no longer ACTIVE (R478). -/
def trcSettle (s : State) : State :=
  if !s.trc.en && s.trc.buf.isEmpty then { s with trc := { s.trc with active := false } } else s

end Sys2Proof.Machine
end

