-- ==== Sys2Proof/Machine/CoreOps.lean ====
section
/-!
DEFINITION. What a stage core does at a word boundary: taking a trap (R90), the machine check (R502), the end of a word and
of a delay slot (R75, R85, R94), halts (R485), and the completion of an access that a target held.
-/

namespace Sys2Proof.Machine

/-- General register r: g0 reads as 0 (R79). -/
def CoreState.reg (k : CoreState) (r : Reg) : Word := if r = 0 then 0 else k.g[r.toNat]'r.isLt

/-- A general register written: g0 discards (R79). -/
def CoreState.setReg (k : CoreState) (r : Reg) (v : Word) : CoreState :=
  if r = 0 then k else { k with g := k.g.set r.toNat v r.isLt }

/-- STATE fields (R81). -/
def CoreState.priv (k : CoreState) : Bool := k.state.getLsbD 0
def CoreState.world (k : CoreState) : Bool := k.state.getLsbD 1
def CoreState.level (k : CoreState) : Nat := bitsOf k.state 4 3
def CoreState.tl (k : CoreState) : Bool := k.state.getLsbD 8

/-- ACTIVE falls in every slot whose level STATE.LEVEL is now below (R95). -/
def CoreState.clearActive (k : CoreState) : CoreState :=
  { k with listen := k.listen.map fun l => if k.level < l.level.toNat then { l with active := false } else l }

/-- The fetch path is discarded; an outstanding line request becomes wrong-path (R104). -/
def CoreState.flushFetch (k : CoreState) : CoreState :=
  { k with line := none, lineReq := k.lineReq.map fun r => { r with wrong := true }, lineNext := none }

/-- The pc moves on to the next word in sequence. -/
def CoreState.next (k : CoreState) : CoreState := { k with pc := k.pc + 4 }

/-- Whether another present stage core is neither quarantined (or about to be) nor off (R501). -/
def otherRunning (s : State) (c : Core) : Bool :=
  (List.finRange 8).any fun d => d ≠ c && decide (d.val < coreCount s.variant) &&
    (s.cores[d].run = .running || s.cores[d].run = .waiting || s.cores[d].run = .halted)

/-- A refusal in a pool class (R196). -/
def poolRefused (s : State) (c : Fin 16) : State :=
  { s with pool := { s.pool with cls := updV s.pool.cls c fun k => { k with refusals := k.refusals + 1 } } }

/-- A POOL_ALLOC read of a core that waits is withdrawn: no buffer, a refusal in its class, and its answer is discarded (R536). -/
def allocWithdraw (s : State) (c : Core) : State :=
  let mine (w : PoolWait) : Bool := match w.who with | .read m => decide (m = coreM c) | _ => false
  let s := match s.pool.waits.find? mine with
    | some w => poolRefused { s with pool := { s.pool with waits := s.pool.waits.filter fun w => !mine w } } w.cls
    | none => s
  { s with fab := { s.fab with blocked := s.fab.blocked.filter fun b => !(decide (b.port.m = coreM c) && decide (b.kind = .poolAlloc)) } }

/-- A machine check: the core stops, a buffer that it waits for is withdrawn (R536), its record is built, and the device escalates when no
other core runs (R501-R503). -/
def machineCheck (s : State) (c : Core) (reason second : BitVec 8) (restart : Word) : State :=
  let sec := s.cores[c].world
  let s := (allocWithdraw s c).updCore c fun k =>
    { k with run := .check, reason := reason, flow := none, losses := if k.losses = 0xFF then k.losses else k.losses + 1 }
  let s := ecBuild s 0x06 2 (BitVec.ofNat 4 c.val) sec 0 restart (natW (reason.toNat + 256 * second.toNat))
  if otherRunning s c then s else { s with fatal := some 0x06 }

/-- Steps and, in Metronome mode, beats that core c spends. The line asked for ahead comes nearer meanwhile (R112), and so does the end of
the oldest buffered store (R110). -/
def spend (s : State) (c : Core) (st bt : Nat) : State :=
  let met := s.cores[c].metEn
  let s := trcSteps s c (if met then bt else st)
  s.updCore c fun k => { k with stepTb := s.now, hid := k.hid + st, sbDue := k.sbDue - st, metBeats := if met then k.metBeats + natW bt else k.metBeats }

/-- Trap entry as one change (R90-R92), or a double trap while TL is 1 (R93). `listen`: level and world of the slot of a
LISTEN trap. -/
def trapEnter (s : State) (c : Core) (cause : BitVec 8) (detail addr tpc : Word) (inds : Bool)
    (listen : Option (Nat × Bool)) : State :=
  let k := s.cores[c]
  if k.tl then machineCheck s c 1 cause tpc
  else
    let secure := k.world || cause = 0x03 || (match listen with | some (_, w) => w | none => false)
    let level := match listen with | some (l, _) => l | none => k.level
    let new : Word := natW (256 + level * 16 + (if secure then 2 else 0) + 1)
    let vec := (if secure then k.tvecS else k.tvecO) + natW (0x40 * cause.toNat)
    let s := s.updCore c fun k =>
      { k.flushFetch with
        tpc := tpc &&& 0xFFFFFFFC
        tfl := k.fl.setWidth 32
        tstate := k.state
        tcause := natW (cause.toNat + boolN inds 8)
        tdetail := detail
        taddr := addr
        state := new
        pc := vec
        reached := if listen.isSome then .handler else .target
        blk := none
        flow := none
        run := if k.run = .waiting then .running else k.run }
    let s := spend s c 4 4
    let s := trcState s c k.state vec
    trcAddr s c 1 (some cause.toNat) vec

/-- Whether the debug level permits a halt of a core in its present world (R303, R487). -/
def haltPermitted (s : State) (c : Core) : Bool :=
  s.dbg.level = 2 || (s.dbg.level = 1 && !s.cores[c].world)

/-- The core halts: HALT_INFO, the count of halts, and GAP with reason HALTED (R471, R485). -/
def haltCore (s : State) (c : Core) (reason num : Nat) : State :=
  let s := s.updCore c fun k => { k with run := .halted, haltReq := false, stepping := false
                                         haltInfo := natW (2 ^ 31 + num * 16 + reason) }
  let s := { s with dbg := { s.dbg with halts := s.dbg.halts + 1 } }
  if traced s c then trcGap s c 2 else s

/-- A jump of core c: the fetch path is flushed (R104). -/
def jumpTo (s : State) (c : Core) (t : Word) : State :=
  s.updCore c fun k => { k.flushFetch with pc := t, reached := .target, flow := none }

/-- The delay slot of a flow instruction has completed: its transfer takes effect (R75, R84, R85, R94). The push and the pop act on the
return stack as the slot left it: with an RSLOAD in the slot they act on the stack it loaded, which a CALL can take to 257 entries (R84
judges the depth before the slot; log entry 52). -/
def finishFlow (s : State) (c : Core) (f : Flow) : State :=
  match f.kind with
  | .branch none _ => s.updCore c fun k => { k.next with pc := f.addr + 8, flow := none }
  | .branch (some t) ind =>
    let s := jumpTo s c t
    if ind then trcAddr s c 0 none t else s
  | .call ret t ind =>
    let s := jumpTo (s.updCore c fun k => { k with rs := ret :: k.rs }) c t
    if ind then trcAddr s c 0 none t else s
  | .ret t =>
    let s := jumpTo (s.updCore c fun k => { k with rs := k.rs.tail }) c t
    trcAddr s c 0 none t
  | .rett tpc tfl tstate =>
    let old := s.cores[c].state
    let s := jumpTo s c tpc
    let s := s.updCore c fun k =>
      ({ k with fl := tfl.setWidth 4, state := tstate, skipBrk := true } : CoreState).clearActive
    let s := trcState s c old tpc
    if trcExcluded s old then s else trcAddr s c 0 none tpc
  | .trap cause detail =>
    if cause = 0x0B && s.cores[c].hctrl && haltPermitted s c then
      haltCore (jumpTo s c (f.addr + 8)) c 5 0
    else trapEnter s c cause detail 0 (f.addr + 8) false none

/-- A word that is not a flow instruction has completed: the next word, or the transfer it was the delay slot of. -/
def finishWord (s : State) (c : Core) : State :=
  match s.cores[c].flow with
  | none => s.updCore c fun k => k.next
  | some f => finishFlow s c f

/-- A synchronous cause of the word at the core's pc (R91): the restart address is the word, or the flow instruction whose
delay slot it is. -/
def wordTrap (s : State) (c : Core) (cause : BitVec 8) (detail addr : Word) : State :=
  match s.cores[c].flow with
  | none => trapEnter s c cause detail addr s.cores[c].pc false none
  | some f => trapEnter s c cause detail addr f.addr true none

/-- A load's register value from the bytes read (R63). -/
def loadVal (k : LdOp) (raw : Word) : Word :=
  match k with
  | .w => raw
  | .h => (raw.extractLsb' 0 16).signExtend 32
  | .hu => (raw.extractLsb' 0 16).zeroExtend 32
  | .b => (raw.extractLsb' 0 8).signExtend 32
  | .bu => (raw.extractLsb' 0 8).zeroExtend 32

/-- Register results written in order. -/
def writeRegs (k : CoreState) (l : List (Reg × Word)) : CoreState := l.foldl (fun k p => k.setReg p.1 p.2) k

/-- The answer of the last access of a master (R49). -/
def setLast (s : State) (m : Master) (ans : BitVec 3) (data : Word) : State := { s with last := putV s.last m (ans, data) }

/-- Whether a stage core has an access or queue operation that its target holds. -/
def coreBlocked (s : State) (c : Core) : Bool :=
  s.fab.blocked.any (fun b => b.core = some c) ||
    s.cue.held.any fun h => match h with | .qput d .. => d = c | .qget d .. => d = c | _ => false

/-- Whether a core is inside a word: an access of it is held, or an RSSAVE or RSLOAD is under way. -/
def coreInWord (s : State) (c : Core) : Bool := coreBlocked s c || s.cores[c].blk.isSome

/-! ### After the word: watchpoints and late accesses -/

/-- Whether the world of a core is one that a breakpoint or watchpoint enables, by SEC and OPN of its control word. -/
def brkWorld (ctrl : Word) (world : Bool) : Bool := if world then ctrl.getLsbD 1 else ctrl.getLsbD 0

/-- The lowest watchpoint that matches one of the accesses: address, and whether it writes and reads (R489). -/
def watchMatch (k : CoreState) (world : Bool) (accs : List (Word × Bool × Bool)) : Option (Fin 2 × Word) :=
  (List.finRange 2).findSome? fun i =>
    let b := k.watch[i]
    if !b.ctrl.getLsbD 31 || !brkWorld b.ctrl world then none
    else (accs.find? fun a => (a.1 &&& ~~~b.mask) = (b.addr &&& ~~~b.mask) &&
      ((a.2.1 && b.ctrl.getLsbD 4) || (a.2.2 && b.ctrl.getLsbD 5))).map fun a => (i, a.1)

/-- What a matching watchpoint does once the word has completed (R489). A halt waits for the boundary after a delay slot (R485). Matched by
the delay-slot word of SYSCALL or BREAK, a BREAK comes after the trap of the flow instruction, so with TL = 1: a double trap (the
spec does not order the two; log entry 52). -/
def watchAct (s : State) (c : Core) (world : Bool) (accs : List (Word × Bool × Bool)) : State :=
  match watchMatch s.cores[c] world accs with
  | none => s
  | some (i, a) =>
    if s.cores[c].watch[i].ctrl.getLsbD 30 then
      (if haltPermitted s c then haltCore s c 4 i.val else { s with dbg := { s.dbg with denied := s.dbg.denied + 1 } })
    else trapEnter s c 0x0B (natW (0xFFF4 + i.val + 0x20000)) a s.cores[c].pc false none

/-- A sum that saturates at 2^32 - 1. -/
def satAdd (w : Word) (n : Nat) : Word := natW (min (w.toNat + n) 0xFFFFFFFF)

/-- An overrun of `over` beats is recorded (R120). -/
def lateMark (s : State) (c : Core) (ovr : Nat) : State :=
  if ovr = 0 then s else s.updCore c fun k => { k with metStat := k.metStat.raise 0, metLate := satAdd k.metLate ovr }

/-- An access that overran its beat count by `over` beats, once its instruction has completed (R120, R121). `trap`: LATE_TRAP as it was
when the word began, since a write of MET_CTRL takes effect for the next word (R114). -/
def lateAct (s : State) (c : Core) (trap : Bool) (kind : Nat) (addr : Word) (ovr : Nat) : State :=
  if ovr = 0 then s
  else
    let s := lateMark s c ovr
    let k := s.cores[c]
    if trap && !k.tl then trapEnter s c 0x0A (natW (kind * 256 + min ovr 255)) addr k.pc false none else s

/-- The beats that `ticks` ticks last at a core's beat length (R114). -/
def beatsIn (k : CoreState) (ticks : Nat) : Nat := 8 * ticks / (k.metNm1.toNat + 1)

/-- Whether a held access writes. -/
def BlockKind.writes : BlockKind → Bool
  | .uartTx .. | .cryDin .. => true
  | _ => false

/-- The answer of a held access reaches its master; the TAP captures that of debug access (R482). -/
def blockedAns (s : State) (b : Blocked) (ans : BitVec 3) (data : Word) : State :=
  let s := setLast { s with fab := { s.fab with blocked := s.fab.blocked.erase b } } b.port.m ans data
  if b.port.m.val = 14 then { s with dbg := { s.dbg with ans := ans, data := data } } else s

/-- The beats by which an operation that came at tick `at_`, and for which `bt` beats are paid, has overrun by now; they pass as beats of
the core (R114, R120). -/
def heldOver (s : State) (c : Core) (at_ bt : Nat) : Nat := if s.cores[c].metEn then beatsIn s.cores[c] (s.now - at_) - bt else 0

/-- A held operation ends for core c: the beats beyond its count have passed. -/
def heldPay (s : State) (c : Core) (ovr : Nat) : State := s.updCore c fun k => { k with metBeats := k.metBeats + natW ovr }

/-- The KIND of the overrun of a held access (R121). -/
def Blocked.lateKind (b : Blocked) : Nat := if b.drained then 4 else if b.kind.writes then 1 else 0

/-- A held access completes with OK: the word's results are written and the core goes on. -/
def completeBlocked (s : State) (b : Blocked) (data : Word) : State :=
  let s := blockedAns s b 0 data
  match b.core with
  | none => s
  | some c =>
    let ovr := heldOver s c b.arrival b.bt
    match b.what with
    | .port => s
    | .word =>
      let world := s.cores[c].world
      let trap := s.cores[c].metTrap
      let s := (heldPay s c ovr).updCore c fun k =>
        let k := writeRegs k b.regs
        let k := match b.dst with | some (d, op) => k.setReg d (loadVal op data) | none => k
        match b.fl with | some f => { k with fl := f } | none => k
      let s := watchAct (finishWord s c) c world [(b.addr, b.kind.writes, !b.kind.writes)]
      lateAct s c trap b.lateKind b.addr ovr
    | .block =>
      (heldPay s c ovr).updCore c fun k => { k with blk := k.blk.map fun r => { r with
        i := r.i + 1, words := data :: r.words
        late := if r.late.isNone && decide (0 < ovr) then some (b.lateKind, b.addr, ovr) else r.late } }

/-- A held access completes with another answer: no effect, and trap BUS for a stage core (R51, R52). An overrun is recorded; its LATE
trap gives way to BUS (R89, R120). The address is the access's. -/
def failBlocked (s : State) (b : Blocked) (ans : BitVec 3) (addr : Word) : State :=
  let s := blockedAns s b ans 0
  match b.core with
  | none => s
  | some c =>
    let ovr := heldOver s c b.arrival b.bt
    wordTrap (lateMark (heldPay s c ovr) c ovr) c 0x05 (ans.setWidth 32) addr

end Sys2Proof.Machine
end

