-- ==== Sys2Proof/Machine/Leave.lean ====
section
/-!
DEFINITION. The leave arbiter's decisions (R354-R359): a request granted, refused or left waiting, the grants that a release
or a raised budget allows, and the end of a wait. What a grant sets going in the requester is in LeaveGrant.lean.
-/

namespace Sys2Proof.Machine

/-- Units granted in all. -/
def lvGranted (l : Leave) : Nat := l.held.toList.sum

/-- A requester takes its units (R355, R356). `wait` none is a grant at once. -/
def lvGive (s : State) (r : Fin 41) (units : Nat) (cls : BitVec 2) (wait : Option Nat) : State :=
  let l := s.lv
  let held := putV l.held r units
  let c : Fin 4 := cls.toFin
  { s with lv := { l with
      held := held
      peak := max l.peak held.toList.sum
      grants := updV l.grants c (· + 1)
      delays := if wait.isSome then updV l.delays c (· + 1) else l.delays
      rwait := putV l.rwait r (wait.getD 0)
      rstat := putV l.rstat r (if wait.isSome then 2 else 1) } }

/-- A request is refused after `wait` ticks (R356). -/
def lvRefuse (s : State) (r : Fin 41) (cls : BitVec 2) (wait : Nat) : State :=
  let l := s.lv
  { s with lv := { l with
      refusals := updV l.refusals cls.toFin (· + 1)
      evt := l.evt.raise 0
      rwait := putV l.rwait r wait
      rstat := putV l.rstat r 3 } }

/-- How a request is decided at once. -/
inductive LvResult where
  | granted | waiting | refused
deriving DecidableEq, Repr

/-- The decision on a request (R356). -/
def lvDecide (l : Leave) (units : Nat) (cls : BitVec 2) : LvResult :=
  if units > l.budget then .refused
  else if !(l.waiting.any fun w => w.cls.toNat ≤ cls.toNat) && decide (lvGranted l + units ≤ l.budget) then .granted
  else if l.waitlim[cls.toFin] = 0 then .refused
  else .waiting

/-- A request as it reaches the arbiter (R356). -/
def lvRequest (s : State) (r : Fin 41) (units : Nat) (cls : BitVec 2) : State × LvResult :=
  match lvDecide s.lv units cls with
  | .granted => (lvGive s r units cls none, .granted)
  | .refused => (lvRefuse s r cls 0, .refused)
  | .waiting => ({ s with lv := { s.lv with waiting := s.lv.waiting ++ [⟨r, units, cls, s.now⟩] } }, .waiting)

/-- The waiting request that is judged next: the first in class order, by arrival within a class. -/
def lvFirst (ws : List LvWait) : Option LvWait :=
  ws.foldl (fun acc w => match acc with
    | none => some w
    | some a => if w.cls.toNat < a.cls.toNat then some w else some a) none

/-- Whether the wait of a request ended before this tick (R356). One that ends now is still the arbiter's (R358). -/
def lvExpired (s : State) (w : LvWait) : Bool := decide (w.arrival + s.lv.waitlim[w.cls.toFin] < s.now)

/-- The wait that a grant reports: placed before the end of the wait, it is at most the limit less 1 (R358). -/
def lvWaited (s : State) (w : LvWait) : Nat := min (s.now - w.arrival) (s.lv.waitlim[w.cls.toFin] - 1)

/-- Waiting requests are granted while the first of them fits (R356); the granted requesters, in order. -/
def lvServe : Nat → State → State × List (Fin 41)
  | 0, s => (s, [])
  | fuel + 1, s =>
    match lvFirst (s.lv.waiting.filter fun w => !lvExpired s w) with
    | none => (s, [])
    | some w =>
      if lvGranted s.lv + w.units ≤ s.lv.budget then
        let s := { s with lv := { s.lv with waiting := s.lv.waiting.erase w } }
        let r := lvServe fuel (lvGive s w.r w.units w.cls (some (lvWaited s w)))
        (r.1, w.r :: r.2)
      else (s, [])

/-- A requester's units are returned. -/
def lvReturn (s : State) (r : Fin 41) : State := { s with lv := { s.lv with held := putV s.lv.held r 0 } }

/-- A requester gives up a request that waits. -/
def lvWithdraw (s : State) (r : Fin 41) : State :=
  { s with lv := { s.lv with waiting := s.lv.waiting.filter fun w => w.r ≠ r } }

def lvWaits (s : State) (r : Fin 41) : Bool := s.lv.waiting.any fun w => w.r = r
def lvHolds (s : State) (r : Fin 41) : Bool := s.lv.held[r] ≠ 0

/-- The requester number of core c's inrush (R355). -/
def rCore (c : Core) : Fin 41 := ⟨33 + c.val, by omega⟩

/-- A domain that a HELD send needs is noted as not up yet. -/
def heldNote (s : State) (code : Fin 32) : State :=
  { s with pwr := { s.pwr with heldUp := if s.pwr.heldUp.contains code then s.pwr.heldUp else s.pwr.heldUp ++ [code] } }

/-- The inrush of a HELD send's core is refused: WAKE_RETRY, and another request 1 ms later (R355). -/
def heldRefused (s : State) (c : Core) : State :=
  { s with pwr := { s.pwr with evt := s.pwr.evt.raise 1, retry := putV s.pwr.retry c (some s.now) } }

/-- The power manager asks for the inrush of a core that a HELD send needs (R176, R355): coming up on a grant, WAKE_RETRY on a
refusal. A core already coming up, asking or waiting for a retry asks no second time; where the request that waits is a command's, the
HELD send is noted, so that it asks again if the command is refused. -/
def askCore (s : State) (c : Core) : State :=
  if decide (c.val < coreCount s.variant) && !s.pwr.dom.getLsbD (2 + c.val) && !lvHolds s (rCore c) && s.pwr.retry[c].isNone then
    if lvWaits s (rCore c) then heldNote s ⟨2 + c.val, by omega⟩
    else
      let p := lvRequest s (rCore c) 35 1
      match p.2 with
      | .granted => { p.1 with pwr := { p.1.pwr with coming := p.1.pwr.coming ++ [⟨2 + c.val, by omega⟩] } }
      | .waiting => heldNote p.1 ⟨2 + c.val, by omega⟩
      | .refused => heldRefused p.1 c
  else s

/-- The power manager brings up a domain that a HELD send needs (R176): a core by its inrush leave, LANES and STAT without any (R355). -/
def heldAsk (s : State) (code : Fin 32) : State :=
  let s := { s with pwr := { s.pwr with heldUp := s.pwr.heldUp.filter (· ≠ code) } }
  if h : 2 ≤ code.val ∧ code.val < 10 then askCore s ⟨code.val - 2, by omega⟩
  else if s.pwr.dom.getLsbD code.val || s.pwr.coming.contains code then s
  else { s with pwr := { s.pwr with coming := s.pwr.coming ++ [code] } }

end Sys2Proof.Machine
end

