-- ==== Sys2Proof/Machine/PoolCue.lean ====
section
/-!
DEFINITION. The buffer pool and the Cue engine: who gets a buffer, the free, the send and the take of a message, and the
posts of the hardware event sources (09, 10, R500).
-/

namespace Sys2Proof.Machine

/-! ### Sources (R168, R187, R532) -/

/-- The pool class of a source with a fixed queue, and of the DMA channels (R187). The crypto engine, the I2C controllers and
the GPIO edge logic draw on the class of a core (R329, R463, R465), which their events carry. -/
def HwSrc.cls : HwSrc → Fin 16
  | .lane _ => 2 | .adc _ => 3 | .dma _ => 7 | .uart _ => 5 | .timer _ => 5 | .cec => 4 | .ir _ => 4 | .keypad => 4
  | .watchdog => 0 | .stat => 6 | .ec => 0 | .cry => 5 | .i2c _ => 5 | .gpio => 5

/-- The class of stage core m's requests by POOL_MCLASS (R187). For another master that starts a completion source the spec
names no class: the DMA unit draws on DMA, the others on PROMPTER (log entry 7). -/
def masterClass (p : Pool) (m : Master) : Fin 16 :=
  if m.val < 8 then Fin.ofNat 16 (bitsOf p.mclass (4 * m.val) 4) else if m.val = 9 then 7 else 1

/-- The master number in the messages of a source (R532). -/
def HwSrc.master : HwSrc → BitVec 4
  | .lane _ => 11 | .stat => 12 | .dma _ => 9 | _ => 15

/-- The index of a source within its unit (R199). -/
def HwSrc.index : HwSrc → Nat
  | .lane n => n.val | .adc a => a.val | .dma c => c.val | .uart u => u.val | .timer t => t.val | .ir i => i.val
  | .i2c i => i.val | _ => 0

/-- The fixed device queue of a source, none for the completion sources (R18, R168). -/
def HwSrc.fixed : HwSrc → Option (BitVec 16)
  | .lane n => some (BitVec.ofNat 16 (0x10 + n.val)) | .adc a => some (BitVec.ofNat 16 (0x30 + a.val)) | .cec => some 0x40
  | .ir i => some (BitVec.ofNat 16 (0x41 + i.val)) | .keypad => some 0x43 | .uart u => some (BitVec.ofNat 16 (0x50 + u.val))
  | .watchdog => some 0x60 | .timer t => some (BitVec.ofNat 16 (0x70 + t.val)) | .stat => some 0x80 | .ec => some 0x01
  | _ => none

/-! ### The pool -/

def poolCount (p : Pool) : Nat := 256 * p.n256
def poolHandle (p : Pool) (i : Nat) : Word := p.base + natW (64 * i)

/-- The buffer index a handle names, if it names one (R198). -/
def poolIndex (p : Pool) (h : Word) : Option Nat :=
  if h.toNat % 64 = 0 ∧ p.base.toNat ≤ h.toNat ∧ h.toNat < p.base.toNat + 64 * poolCount p then
    some ((h.toNat - p.base.toNat) / 64)
  else none

/-- The tag entry of a buffer, none while it is FREE. -/
def poolTag (p : Pool) (i : Nat) : Option Tag := p.tags.find? fun t => t.idx = i

def poolUse (p : Pool) (c : Fin 16) : Nat := p.tags.countP fun t => t.cls = c
def poolFree (p : Pool) : Nat := poolCount p - p.tags.length
def poolEff (p : Pool) (c : Fin 16) : Nat := max p.cls[c].cap p.cls[c].res
def poolSumRes (p : Pool) : Nat := (p.cls.toList.map (·.res)).sum

/-- Shared buffers in use: every class's use above its reservation (R188). -/
def poolShared (p : Pool) : Nat := ((List.finRange 16).map fun c => poolUse p c - p.cls[c].res).sum

def poolSharedFree (p : Pool) : Nat := poolCount p - poolSumRes p - poolShared p

/-- Step 2 of R192, the only step that serves a waiter (R193). -/
def poolCanShared (p : Pool) (c : Fin 16) : Bool :=
  decide (poolUse p c < poolEff p c) && decide (0 < poolSharedFree p) && decide (0 < poolFree p)

/-- Steps 1 and 2 of R192. -/
def poolCan (p : Pool) (c : Fin 16) : Bool :=
  (decide (poolUse p c < p.cls[c].res) && decide (0 < poolFree p)) || poolCanShared p c

/-- The FREE buffer that a grant takes. The spec does not say which: the choice is the free value of log entry 5. -/
def poolPick (p : Pool) : Nat :=
  let frees := (List.range (poolCount p)).filter fun i => p.tags.all fun t => t.idx ≠ i
  frees.getD (Config.bufferPick p.picks % frees.length) 0

/-- A grant in class c to an owner; the handle (R185, R186, R196). -/
def poolTake (s : State) (c : Fin 16) (owner : BitVec 4) (delayed : Bool) : State × Word :=
  let p := s.pool
  let i := poolPick p
  let tags := ⟨i, 1, owner, c, 0⟩ :: p.tags
  let p' := { p with
    tags := tags
    picks := p.picks + 1
    cls := updV p.cls c fun k => { k with
      grants := k.grants + 1
      delays := if delayed then k.delays + 1 else k.delays
      peak := max k.peak (poolUse { p with tags := tags } c) } }
  ({ s with pool := p' }, poolHandle p i)

/-- A buffer returns to FREE. -/
def poolDrop (s : State) (i : Nat) : State :=
  { s with pool := { s.pool with tags := s.pool.tags.filter fun t => t.idx ≠ i } }

/-- Every buffer whose entry satisfies `f` returns to FREE. -/
def poolDropAll (s : State) (f : Tag → Bool) : State :=
  { s with pool := { s.pool with tags := s.pool.tags.filter fun t => !f t } }

def poolRetag (s : State) (i : Nat) (f : Tag → Tag) : State :=
  { s with pool := { s.pool with tags := s.pool.tags.map fun t => if t.idx = i then f t else t } }

/-! ### Queues -/

/-- The device queues that have a producer on the variant, as CUE_RDATA0 reports it (R168, R169, R179): PMODE and PRODUCER. -/
def devProducer (v : Variant) (q : Nat) : BitVec 2 × BitVec 4 :=
  if q = 0x01 then (1, 15)
  else if 0x10 ≤ q ∧ q < 0x10 + laneCount v then (1, 11)
  else if 0x30 ≤ q ∧ q < 0x30 + adcCount v then (1, 15)
  else if 0x40 ≤ q ∧ q ≤ 0x43 then (1, 15)
  else if q = 0x50 ∨ q = 0x51 then (1, 15)
  else if q = 0x60 then (1, 15)
  else if 0x70 ≤ q ∧ q ≤ 0x77 then (1, 15)
  else if q = 0x80 then (if hasStat v then (1, 12) else (3, 0))
  else if 0x90 ≤ q ∧ q ≤ 0x93 then (1, 8)
  else if 0xA0 ≤ q ∧ q < 0xA0 + coreCount v then (1, 8)
  else if q = 0xC0 then (2, 0)
  else (3, 0)

/-- A queue as it is at release (R168), and a user queue that was never opened. A queue whose producer the variant lacks keeps its other settings
(R169). -/
def queueDefault (v : Variant) (q : BitVec 16) : Queue :=
  let n := q.toNat
  let pr := devProducer v n
  let consumer : BitVec 4 := if 0xA0 ≤ n ∧ n ≤ 0xA7 then BitVec.ofNat 4 (n - 0xA0) else if n = 0xC0 then 8 else 15
  let listed : Bool := (0x10 ≤ n && n ≤ 0x27) || (0x40 ≤ n && n ≤ 0x43) || n = 0x50 || n = 0x51 || (0x70 ≤ n && n ≤ 0x77) || n = 0x80 ||
    (0x90 ≤ n && n ≤ 0x93) || (0xA0 ≤ n && n ≤ 0xA7)
  let limit : BitVec 4 := if n = 0x60 then 3 else if (0x30 ≤ n ∧ n ≤ 0x33) ∨ n = 0xC0 then 7 else if listed then 5 else 0
  if n < 0x100 then ⟨q, true, false, n = 0x01 || n = 0x60, pr.1, pr.2, consumer, limit, none, false, []⟩
  else ⟨q, false, false, false, 0, 0, 15, 0, none, false, []⟩

def queueOf (s : State) (q : BitVec 16) : Queue :=
  (s.cue.queues.find? fun x => x.num = q).getD (queueDefault s.variant q)

/-- The list of queue records with one put in, in rising order of numbers. -/
def queueIns (l : List Queue) (x : Queue) : List Queue :=
  match l with
  | [] => [x]
  | y :: r => if y.num = x.num then x :: r else if x.num < y.num then x :: y :: r else y :: queueIns r x

def setQueue (s : State) (x : Queue) : State := { s with cue := { s.cue with queues := queueIns s.cue.queues x } }

/-- The number of messages a LIMIT code stands for, none for no limit (CUE_ARG0). -/
def limitOf (v : BitVec 4) : Option Nat := if v = 0 then none else some (2 ^ (v.toNat - 1))

def isDevice (q : BitVec 16) : Bool := q.toNat < 0x100
def queueExists (s : State) (q : BitVec 16) : Bool := q.toNat < 2 ^ s.cue.k

/-- The SRAM bank of an address, if it lies in the SRAM window. -/
def bankOf (a : Nat) : Option (Fin 16) :=
  if h : 0x10000000 ≤ a ∧ a < 0x10200000 then some ⟨(a - 0x10000000) / 0x20000, by omega⟩ else none

/-- The address of a queue's descriptor (R162). -/
def descAddr (s : State) (q : BitVec 16) : Nat := s.cue.tbase.toNat + 8 * q.toNat

/-- Whether the descriptor's bank answers DARK (R172, R178). -/
def descDark (s : State) (q : BitVec 16) : Bool :=
  match bankOf (descAddr s q) with | some b => !bankOn s b | none => false

/-- Whether the read of a descriptor meets an uncorrectable word: a FATAL QUEUE error (R501). -/
def descBad (s : State) (q : BitVec 16) : Bool :=
  let a := descAddr s q
  s.ded.contains a || s.ded.contains (a + 4) || s.poison.contains a || s.poison.contains (a + 4)

/-- The Cue engine reads the descriptor of a queue: a single-bit error is corrected, written back and recorded (R534). -/
def descRead (s : State) (q : BitVec 16) : State :=
  [descAddr s q, descAddr s q + 4].foldl (fun s a => if s.sec.contains a then
      ecBuild { s with sec := s.sec.filter (· ≠ a) } 0x03 0 10 true 0 (natW a)
        (natW ((match bankOf a with | some b => b.val | none => 0) + (Config.syndrome a).toNat * 256))
    else s) s

/-- The Cue engine writes the descriptor of a queue whole (R166). -/
def descFresh (s : State) (q : BitVec 16) : State := s.heal (descAddr s q) (descAddr s q + 8)

/-- The core whose domain a queue's consumer lies in: a stage core consumer, a claiming core included (R176). -/
def consumerCore (x : Queue) : Option Core := if h : x.consumer.toNat < 8 then some ⟨x.consumer.toNat, h⟩ else none

/-- The domain of a queue's consumer that can be dark while the Cue engine runs: a stage core's, or that of the lane engine (11) or the
stat port (12) (R14, R176). -/
def consumerDomain (x : Queue) : Option (Fin 32) :=
  match consumerCore x with
  | some c => some ⟨2 + c.val, by omega⟩
  | none => if x.consumer = 11 then some 11 else if x.consumer = 12 then some 13 else none

/-- Whether the consumer counts as dark: its domain is dark or darkening, or it is quarantined (R176, R504). -/
def consumerDark (s : State) (x : Queue) : Bool :=
  match consumerCore x with
  | some c => !coreUp s c || s.cores[c].run = .check || s.cores[c].run = .quarantined
  | none => (x.consumer = 11 && !domUp s 11) || (x.consumer = 12 && !domUp s 13)

/-- A buffer passes to a queue and its message becomes visible: MASTER and STAMP are written, the message is appended (R170,
R171, R173). -/
def queueCommit (s : State) (x : Queue) (h : Word) (master : BitVec 4) (secure : Bool) : State :=
  let old := (s.word h.toNat).toNat % 4096
  let s := s.fill h.toNat (leBytes 4 (s.tb.toNat % 65536 * 65536 + master.toNat * 4096 + old))
  let s := match poolIndex s.pool h with
    | some i => poolRetag s i fun t => { t with st := 2, queue := x.num }
    | none => s
  let s := setQueue s { x with msgs := x.msgs ++ [⟨h, secure⟩] }
  { s with cue := { s.cue with commits := s.cue.commits + 1 } }

/-- What a HELD commit asks of the power manager: the consumer's domain brought up, after its cut when it is draining, or, for a core, the
device woken from NAP first (R176, R350). A quarantined core is not brought up (R504). -/
def heldWake (s : State) (x : Queue) : State :=
  match consumerDomain x with
  | none => s
  | some code =>
    let lost := match consumerCore x with | some c => s.cores[c].run = .check || s.cores[c].run = .quarantined | none => false
    if lost || (s.pwr.mode = .run && s.pwr.entering = some .standby) then s
    else if s.pwr.mode = .run && s.pwr.entering.isNone then (if s.pwr.drain.getLsbD code.val then heldNote s code else heldAsk s code)
    else
      let s := heldNote s code
      if (consumerCore x).isSome then { s with pwr := { s.pwr with wakes := s.pwr.wakes ++ [10] } } else s

/-- The checks of R172 on a send, in their order: 0 OK or 1 HELD, or the code of the first that fails. `src` is the hardware
source, none for a core. -/
def sendCheck (s : State) (q : BitVec 16) (h : Word) (master : BitVec 4) (secure : Bool) (src : Option HwSrc) : Nat :=
  let x := queueOf s q
  let okProducer : Bool :=
    if isDevice q then
      match src with
      | some e => e.fixed = some q && x.pmode = 1
      | none => (x.pmode = 1 && x.producer = master && master ≠ 15) || (x.pmode = 2 && master.toNat < 8)
    else x.pmode = 0 || (x.pmode = 1 && x.producer = master) || (x.pmode = 2 && master.toNat < 8)
  let tag := (poolIndex s.pool h).bind (poolTag s.pool)
  let owned := match tag with | some t => t.st = 1 && t.owner = master | none => false
  if q = 0 then 2
  else if !queueExists s q then 3
  else if !isDevice q && !x.isOpen then 6
  else if descDark s q then 10
  else if x.secure && !secure then 4
  else if !okProducer then 5
  else if !owned then 7
  else if (s.word h.toNat).toNat % 64 > 60 then 8
  else if (match limitOf x.limit with | some n => decide (n ≤ x.msgs.length) | none => false) then 9
  else if consumerDark s x then (if x.wake then 1 else 10)
  else 0

/-- A send that the Cue engine decides now: committed whole or refused whole (R171-R173); the result code. -/
def sendNow (s : State) (q : BitVec 16) (h : Word) (master : BitVec 4) (secure : Bool) (src : Option HwSrc) : State × Nat :=
  let r := sendCheck s q h master secure src
  let x := queueOf s q
  let s := if queueExists s q && x.isOpen then descRead s q else s
  if r = 0 then
    let s := queueCommit s x h master secure
    -- a commit to a queue with WAKE = 1 that is bound wakes the device from NAP (R350)
    let s := if (s.pwr.mode = .nap || s.pwr.entering = some .nap) && x.wake && x.bound.isSome then { s with pwr := { s.pwr with wakes := s.pwr.wakes ++ [10] } } else s
    (s, 0)
  else if r = 1 then
    let s := queueCommit s x h master secure
    (heldWake s x, 1)
  else ({ s with cue := { s.cue with refused := s.cue.refused + 1 } }, r)

/-- Whether a commit by a master must wait at the Cue engine: a TABLE runs, the master's error record is due, or a FATAL fault
has stopped commits (R167, R500, R501). -/
def cueWaits (s : State) (master : BitVec 4) : Bool := s.cue.table.isSome || s.cue.halt || ecDue s master

/-- The descriptor read of a send or a take that meets an uncorrectable word: the FATAL record is lost, commits stop and the
device will reset (R501). -/
def cueFatal (s : State) : State :=
  let s := { s with cue := { s.cue with halt := true }, fatal := some 0x09
                    ec := { s.ec with evt := s.ec.evt.raise 3, count := updV s.ec.count 2 (· + 1) } }
  ecLose s 0x09 2

/-- Whether a send reads a bad descriptor. -/
def cueBad (s : State) (q : BitVec 16) : Bool :=
  q ≠ 0 && queueExists s q && (isDevice q || (queueOf s q).isOpen) && descBad s q

/-- The send of a hardware message whose buffer is h, decided now; a refused one returns its buffer and posts a QUEUE record
(R174). The error collector's own record is lost then (R498), and the refusal is told by a QUEUE record like any other (log entry 54). -/
def sendHw (s : State) (e : HwEvent) (h : Word) : State :=
  if cueBad s e.queue then cueFatal s
  else
    let refused (s : State) (r : Nat) : State :=
      let s := match poolIndex s.pool h with | some i => poolDrop s i | none => s
      let s := { s with cue := { s.cue with evt := s.cue.evt.raise 0 } }
      ecBuild s 0x09 1 e.src.master true 0 0 (natW (e.queue.toNat * 65536 + r))
    let p := sendNow s e.queue h e.src.master e.secure (some e.src)
    let s := p.1
    let r := p.2
    if e.src = .ec then
      match s.ec.fifo with
      | [] => s
      | rec :: rest =>
        let s := { s with ec := { s.ec with fifo := rest, posting := false } }
        if r ≤ 1 then { s with ec := { s.ec with lostBefore := false } } else refused (ecLose s rec.source rec.cls) r
    else if r ≤ 1 then s
    else refused s r

/-- A hardware event has its buffer: the message is written into it and sent, or waits at the Cue engine (R197, R500). -/
def postHw (s : State) (e : HwEvent) (h : Word) : State :=
  let hdr := e.type.toNat * 64 + e.payload.length
  let s := s.fill h.toNat (leBytes 4 hdr ++ e.payload)
  if cueWaits s e.src.master then { s with cue := { s.cue with held := s.cue.held ++ [.event e h] } }
  else sendHw s e h

/-- The events of a source dropped since its last refusal. -/
def dropsOf (p : Pool) (src : HwSrc) : Nat := ((p.drops.find? fun d => d.1 = src).map (·.2)).getD 0

/-- The held event of a source is refused a buffer: it is dropped, and an EXHAUSTED record tells it; the error collector's own
record is lost (R197-R199, R498). -/
def refuseHw (s : State) (e : HwEvent) : State :=
  let c := e.cls
  let s := poolRefused s c
  if e.src = .ec then
    let s := { s with pool := { s.pool with evt := s.pool.evt.raise 2 } }
    match s.ec.fifo with
    | [] => s
    | rec :: rest => ecLose { s with ec := { s.ec with fifo := rest, posting := false } } rec.source rec.cls
  else
    let n := dropsOf s.pool e.src + 1
    let s := { s with pool := { s.pool with drops := s.pool.drops.filter fun d => d.1 ≠ e.src
                                            evt := s.pool.evt.raise 2 } }
    let detail := min n 0xFFFF * 65536 + e.src.master.toNat * 4096 + c.val * 256 + 4
    -- the bytes of a refused UART message are counted (R458)
    let s := match e.src with
      | .uart u => { s with uart := updV s.uart u fun k => { k with rxlost := k.rxlost + ((e.payload.getD 2 0).setWidth 32) } }
      | _ => s
    ecBuild s 0x08 1 15 true 0 (natW (e.src.index * 65536 + e.queue.toNat)) (natW detail)

/-- The data word of a POOL_ALLOC read (R190). -/
def allocWord (h : Word) (delayed : Bool) : Word := h + (if delayed then 1 else 0)

def setAstat (s : State) (m : Master) (wait : Nat) (r : BitVec 2) : State :=
  { s with pool := { s.pool with astat := putV s.pool.astat m (BitVec.ofNat 16 (min wait 0xFFFF), r) } }

/-- The blocked access of a master that waits for a buffer. -/
def blockedAlloc (s : State) (m : Master) : Option Blocked :=
  s.fab.blocked.find? fun b => b.port.m = m && b.kind = .poolAlloc

/-- Whether the wait of a request ended before this tick (R192). One that ends now is still the arbiter's (R194). -/
def poolExpired (s : State) (w : PoolWait) : Bool := decide (w.arrival + s.pool.cls[w.cls].waitlim < s.now)

/-- A waiting request gets its buffer (R192). Placed before the end of the wait, the grant reports at most the limit less 1 (R194). -/
def grantWait (s : State) (w : PoolWait) : State :=
  match w.who with
  | .read m =>
    let p := poolTake s w.cls (BitVec.ofNat 4 m.val) true
    let s := setAstat p.1 m (min (s.now - w.arrival) (s.pool.cls[w.cls].waitlim - 1)) 1
    (match blockedAlloc s m with
      | some b => completeBlocked s b (allocWord p.2 true)
      | none => setLast s m 0 (allocWord p.2 true))
  | .event e =>
    let p := poolTake s w.cls e.src.master true
    postHw p.1 e p.2
  | .reply c =>
    let p := poolTake s w.cls 8 true
    let mine (j : ElvJob) : Bool := j.stage = .pool && (match j.req.who with
      | .core d .. => decide (d = c) | .coreIndirect d .. => decide (d = c) | .host .. => false)
    { p.1 with elv := { p.1.elv with jobs := p.1.elv.jobs.map fun j => if mine j then { j with buf := some p.2 } else j } }
  | .user ch =>
    let p := poolTake s w.cls 8 true
    { p.1 with elv := { p.1.elv with frags := updV p.1.elv.frags ch fun l => l ++ [p.2] } }

/-- The oldest waiting request that may take a shared buffer, and so on while one may (R193). -/
def poolServe : Nat → State → State
  | 0, s => s
  | fuel + 1, s =>
    match s.pool.waits.find? fun w => poolCanShared s.pool w.cls && !poolExpired s w with
    | none => s
    | some w => poolServe fuel (grantWait { s with pool := { s.pool with waits := s.pool.waits.erase w } } w)

/-- After anything that may let a waiter take a buffer. -/
def poolSettle (s : State) : State := poolServe (s.pool.waits.length + 1) s

/-- A hardware event source has an event to post (R197). -/
def hwEvent (s : State) (e : HwEvent) : State :=
  let c := e.cls
  let waiting := s.pool.waits.any fun w => match w.who with | .event f => f.src = e.src | _ => false
  if waiting then
    let n := dropsOf s.pool e.src + 1
    { s with pool := { s.pool with
        drops := (e.src, n) :: s.pool.drops.filter fun d => d.1 ≠ e.src
        cls := updV s.pool.cls c fun k => { k with hwdrop := k.hwdrop + 1 } } }
  else if poolCan s.pool c then
    let p := poolTake s c e.src.master false
    poolSettle (postHw p.1 e p.2)
  else if s.pool.cls[c].waitlim = 0 then refuseHw s e
  else { s with pool := { s.pool with waits := s.pool.waits ++ [⟨.event e, c, s.now⟩] } }

/-- A message of a device source to its fixed queue. -/
def hwFixed (s : State) (src : HwSrc) (type : Nat) (payload : List Byte) : State :=
  match src.fixed with
  | some q => hwEvent s ⟨src, src.cls, q, BitVec.ofNat 6 type, payload, true⟩
  | none => s

/-- The result code of a core's QPUT reaches its register and the word ends (R171). -/
def finishQput (s : State) (c : Core) (d : Reg) (code : Nat) : State :=
  finishWord (s.updCore c fun k => k.setReg d (natW code)) c

/-- What a QGET meets (R177, R178): a bus answer, an empty queue, or the oldest message. -/
inductive Take where
  | fail (ans : BitVec 3)
  | empty
  | bad
  | got (m : Msg) (x : Queue)

def takeCheck (s : State) (q : BitVec 16) (m : Master) (secure : Bool) : Take :=
  let x := queueOf s q
  if q = 0 then .empty
  else if !queueExists s q then .fail 1
  else if isDevice q && x.pmode = 3 then .empty
  else if !isDevice q && !x.isOpen && x.msgs.isEmpty then .empty
  else if x.consumer ≠ 15 && x.consumer.toNat ≠ m.val then .fail 3
  else if x.secure && !secure then .fail 3
  else if descDark s q then .fail 6
  else if descBad s q then .bad
  else match x.msgs with
    | [] => .empty
    | g :: r => .got g { x with msgs := r }

/-- A message is taken: the buffer passes to the master (R177). -/
def takeMsg (s : State) (m : Master) (g : Msg) (x : Queue) : State :=
  let s := setQueue s x
  match poolIndex s.pool g.handle with
  | some i => poolRetag s i fun t => { t with st := 1, owner := BitVec.ofNat 4 m.val, queue := 0 }
  | none => s

/-- The flags of a QGET: Z tells an empty queue, N, C and V keep their values (R66). -/
def setZ (f : BitVec 4) (z : Bool) : BitVec 4 := (f &&& 0xE) ||| (if z then 1 else 0)

/-- A QGET of a stage core decided now (R177, R178). -/
def qgetNow (s : State) (c : Core) (d : Reg) (q : BitVec 16) : State :=
  let sec := s.cores[c].world
  match takeCheck s q (coreM c) sec with
  | .empty => finishWord (s.updCore c fun k => { k.setReg d 0 with fl := setZ k.fl true }) c
  | .bad => cueFatal s
  | .fail ans =>
    let s := ecBuild s 0x01 1 (BitVec.ofNat 4 c.val) sec ans (natW q.toNat) 4
    wordTrap s c 0x05 (natW (ans.toNat + 64)) (natW q.toNat)
  | .got g x =>
    let s := takeMsg (descRead s q) (coreM c) g x
    finishWord (s.updCore c fun k => { k.setReg d g.handle with fl := setZ k.fl false }) c

/-- A QPUT of a stage core decided now (R171). -/
def qputNow (s : State) (c : Core) (d : Reg) (q : BitVec 16) (h : Word) : State :=
  if cueBad s q then cueFatal s
  else
    let p := sendNow s q h (BitVec.ofNat 4 c.val) s.cores[c].world none
    finishQput p.1 c d p.2

/-- A fragment of a USER command is committed: USERTO counts from the last one (R228). -/
def userStamp (s : State) (q : BitVec 16) : State :=
  if h : 0x90 ≤ q.toNat ∧ q.toNat < 0x94 then
    let ch : Fin 4 := ⟨q.toNat - 0x90, by omega⟩
    { s with link := { s.link with chan := updV s.link.chan ch fun c => match c.reqs with
        | x :: r => { c with reqs := { x with user := x.user.map fun _ => s.now } :: r }
        | [] => c } }
  else s

/-- A message of the Prompter, decided now; one that is refused returns its buffer and is recorded (R226). -/
def elvSendNow (s : State) (q : BitVec 16) (h : Word) : State :=
  if cueBad s q then cueFatal s
  else
    let p := sendNow s q h 8 true none
    if p.2 ≤ 1 then userStamp p.1 q
    else
      let s := match poolIndex p.1.pool h with | some i => poolDrop p.1 i | none => p.1
      ecBuild s 0x09 1 8 true 0 0 (natW (q.toNat * 65536 + p.2))

/-- A message of the Prompter is written into its buffer and sent, or waits at the Cue engine (R167, R500). -/
def elvSend (s : State) (q : BitVec 16) (h : Word) (payload : List Byte) : State :=
  let s := s.fill h.toNat (leBytes 4 payload.length ++ payload)
  if cueWaits s 8 then { s with cue := { s.cue with held := s.cue.held ++ [.elvuk q h] } }
  else elvSendNow s q h

/-- A QPUT decided now, with its overrun of `ovr` beats; `drained`: it waited for the store buffer (R120, R121). TADDR of LATE is the queue
number, as it is for BUS (R92; log entry 52). -/
def qputEnd (s : State) (c : Core) (d : Reg) (q : BitVec 16) (h : Word) (trap drained : Bool) (ovr : Nat) : State :=
  lateAct (qputNow s c d q h) c trap (if drained then 4 else 3) (q.setWidth 32) ovr

/-- A QGET decided now, with its overrun of `ovr` beats: where it is answered with BUS, the overrun is recorded without a trap of its own
(R89, R120). -/
def qgetEnd (s : State) (c : Core) (d : Reg) (q : BitVec 16) (trap : Bool) (ovr : Nat) : State :=
  match takeCheck s q (coreM c) s.cores[c].world with
  | .fail _ => qgetNow (lateMark s c ovr) c d q
  | _ => lateAct (qgetNow s c d q) c trap 3 (q.setWidth 32) ovr

/-- One operation that waited at the Cue engine, taken up again; a core's has overrun by the time it waited beyond its 8 beats (R118,
R120). -/
def cueRetry (s : State) (x : CueHeld) : State :=
  match x with
  | .qput c d q h at_ drained =>
    let ovr := heldOver s c at_ 8
    qputEnd (heldPay s c ovr) c d q h s.cores[c].metTrap drained ovr
  | .qget c d q at_ =>
    let ovr := heldOver s c at_ 8
    qgetEnd (heldPay s c ovr) c d q s.cores[c].metTrap ovr
  | .event e h => sendHw s e h
  | .elvuk q h => elvSendNow s q h
  | .lost c secure q h => if cueBad s q then cueFatal s else (sendNow s q h (BitVec.ofNat 4 c.val) secure none).1

def CueHeld.master : CueHeld → BitVec 4
  | .qput c .. => BitVec.ofNat 4 c.val
  | .qget .. => 15
  | .event e _ => e.src.master
  | .elvuk .. => 8
  | .lost c .. => BitVec.ofNat 4 c.val

/-- The operations that no longer have to wait proceed in their order (R167, R500). -/
def cueServe : Nat → State → State
  | 0, s => s
  | fuel + 1, s =>
    match s.cue.held.find? fun x => !cueWaits s x.master with
    | none => s
    | some x => cueServe fuel (cueRetry { s with cue := { s.cue with held := s.cue.held.erase x } } x)

def cueSettle (s : State) : State := poolSettle (cueServe (s.cue.held.length + 1) s)

/-- A record as the payload of its message (R496). -/
def recBytes (r : EcRec) (lostBefore : Bool) : List Byte :=
  [r.source, natB r.cls.toNat, natB (r.master.toNat + boolN r.secure 4 + boolN lostBefore 7), natB r.answer.toNat] ++
    leBytes 4 r.addr.toNat ++ leBytes 4 r.detail.toNat ++ leBytes 4 r.stamp.toNat

/-- The error collector posts its head record (R497, R498). -/
def ecPostHead (s : State) : State :=
  match s.ec.fifo with
  | [] => s
  | r :: _ =>
    if s.ec.posting then s
    else
      let s := { s with ec := { s.ec with posting := true } }
      cueSettle (hwFixed s .ec 0 (recBytes r s.ec.lostBefore))

end Sys2Proof.Machine
end

