-- ==== Sys2Proof/Machine/Fabric.lean ====
section
/-!
DEFINITION. The fabric and the bandwidth regulator (08_fabric_bandwidth.md): charging, the service order, window edges, tags,
and the registers of the FAB and BWR block. Also the forms in which a block answers a register access.
-/

namespace Sys2Proof.Machine

/-- Who makes an access: the port, its world and its privilege (R300, R16). -/
structure Who where
  p      : Port
  secure : Bool
  priv   : Bool := true
deriving DecidableEq, Repr

/-- How a block answers a register read: a bus answer other than OK, the data, or a wait. -/
inductive RegRead where
  | bad (ans : BitVec 3)
  | ok (s : State) (v : Word)
  | wait (s : State) (k : BlockKind)

/-- How a block answers a register write. -/
inductive RegWrite where
  | bad (ans : BitVec 3)
  | ok (s : State)
  | wait (s : State) (k : BlockKind)
  /-- BAD_FIELD with what the block records (R59). -/
  | field (s : State)

/-- The instance number of a register among `n` instances from `base`, `stride` apart. -/
def inst (off base stride n : Nat) : Option (Fin n) :=
  if h : base ≤ off ∧ (off - base) % stride = 0 ∧ (off - base) / stride < n then some ⟨(off - base) / stride, h.2.2⟩ else none

/-! ### Regulator -/

/-- The fill of the buffer behind a master's urgency wire, in the units of R158: the records of the lane engine and its events that wait for
a buffer of the pool, the input buffer of the stat-port ingest, and the trace buffer. -/
def urgFill (s : State) (m : Master) : Nat :=
  if m.val = 13 then s.trc.buf.length / 32
  else if m.val = 12 then
    (((s.fab.waiting.filter fun q => q.t.m = m).map (·.t.bytes)).sum +
      (s.stat.queue.map fun i => match i with | .data bs => bs.length | .mark .. => 4 | .restart => 0).sum) / 32
  else
    s.fab.waiting.countP (fun q => q.t.m = m) + s.laneBlk.buf.length +
      s.pool.waits.countP fun w => match w.who with | .event e => (match e.src with | .lane _ => true | _ => false) | _ => false

def updBwr (s : State) (m : Master) (f : BwrM → BwrM) : State := { s with bwr := { s.bwr with m := updV s.bwr.m m f } }

/-- The urgency wires follow their fill levels (R158). -/
def urgWires (s : State) : State :=
  [11, 12, 13].foldl (fun s i =>
    let m : Master := Fin.ofNat 15 i
    let f := urgFill s m
    updBwr s m fun b => { b with wire := if f ≥ b.cfg.on then true else if f ≤ b.cfg.off then false else b.wire }) s

/-- Tags a master holds (R146): its transactions that a target has accepted or holds, a core's outstanding line and the entries of its
store buffer that have left, and the chunks of DMA that a target holds. A request that waits for the regulator has not been issued
and holds none (log entry 18). -/
def tagsHeld (s : State) (m : Master) : Nat :=
  (s.fab.accepted.countP fun q => q.1.t.m = m) + (s.fab.blocked.countP fun b => b.port.m = m) +
    (if h : m.val < 8 then
      let k := s.cores[(⟨m.val, h⟩ : Core)]
      (if k.lineReq.isSome then 1 else 0) + k.sb.countP (·.out)
    else if m.val = 9 then s.dma.toList.countP (·.held.isSome)
    else 0)

/-- Whether a request of a master waits for admission. -/
def bwrWaits (s : State) (m : Master) : Bool := s.fab.waiting.any fun q => q.t.m = m

/-- Whether a master is urgent (R158, R159). -/
def isUrgent (s : State) (m : Master) : Bool :=
  let b := s.bwr.m[m]
  if h : m.val < 8 then
    b.cfg.urgEn && (b.cfg.force || (b.cfg.met && s.cores[(⟨m.val, h⟩ : Core)].metEn &&
      (bwrWaits s m || s.fab.asking[m] || decide (0 < tagsHeld s m))))
  else if 11 ≤ m.val ∧ m.val ≤ 13 then b.cfg.urgEn && b.wire
  else false

/-- The step of R154 at which a master's request stands: 0 and 1 phase 1, 2 and 3 phase 2, 4 capped. -/
def bwrStep (s : State) (m : Master) : Nat :=
  let b := s.bwr.m[m]
  let u := isUrgent s m
  if b.charged < b.cfg.min then (if u then 0 else 1)
  else if u && decide (b.urgBytes < b.cfg.urgLim) then 2
  else if b.charged < max b.cfg.min b.cfg.max then 3
  else 4

/-- A grant of `bytes` bytes charged whole to its master and to the running window (R152, R153, R160). -/
def bwrCharge (s : State) (m : Master) (bytes : Nat) : State :=
  let st := bwrStep s m
  let two : Bool := st = 2 || st = 3
  let s := updBwr s m fun b => { b with
    charged := b.charged + bytes
    p2 := if two then b.p2 + 1 else b.p2
    urgBytes := if st = 2 then b.urgBytes + bytes else b.urgBytes
    bytes := b.bytes + natW bytes
    statP2 := if two then b.statP2 + 1 else b.statP2
    lastWin := natW s.bwr.num }
  { s with bwr := { s.bwr with total := s.bwr.total + bytes } }

/-- The bytes of the next line of the trace writer, which is its transaction (R476). -/
def trcLineBytes (t : Trc) : Nat := min 32 t.buf.length

/-- The charge of a transaction (R152). -/
def txnCharge (s : State) (t : Txn) : Nat :=
  if t.kind = 2 then 32
  else if t.m.val = 13 then max 4 ((trcLineBytes s.trc + 3) / 4 * 4)
  else if t.m.val < 8 then 4
  else max 4 ((t.bytes + 3) / 4 * 4)

/-- The peak of FAB_TAGUSE, with `n` tags held beside those the state shows. -/
def tagPeak (s : State) (m : Master) (n : Nat) : State :=
  { s with fab := { s.fab with peak := updV s.fab.peak m fun p => max p (tagsHeld s m + n) } }

/-- Masters in round-robin order after the last one served. -/
def rrOrder (last : Nat) : List Master := (List.range 15).map fun i => Fin.ofNat 15 (last + 1 + i)

/-- The sum of the unused minimums (R154). -/
def unusedMin (s : State) : Nat := (s.bwr.m.toList.map fun b => b.cfg.min - b.charged).sum

/-- The master admitted next, with the step of R154 that admits it; none when every request waits. -/
def bwrNext (s : State) : Option (Master × Nat) :=
  let ready (m : Master) : Bool := bwrWaits s m && decide (tagsHeld s m < s.fab.alloc[m])
  let pick (k : Fin 4) (f : Master → Bool) : Option (Master × Nat) :=
    ((rrOrder s.bwr.rr[k]).find? fun m => ready m && f m).map fun m => (m, k.val)
  if !s.bwr.en then pick 0 fun _ => true
  else
    match pick 0 fun m => bwrStep s m = 0 with
    | some r => some r
    | none =>
      match pick 1 fun m => bwrStep s m = 1 with
      | some r => some r
      | none =>
        match pick 2 fun m => bwrStep s m = 2 with
        | some r => some r
        | none =>
          if s.bwr.total + unusedMin s < s.bwr.cap then
            -- weighted round-robin: the master served last goes on while its round has grants left
            let cur : Master := Fin.ofNat 15 s.bwr.rr[3]
            if ready cur && bwrStep s cur = 3 && decide (0 < s.bwr.m[cur].round) &&
                decide (s.bwr.m[cur].round < s.bwr.m[cur].cfg.weight) then some (cur, 3)
            else pick 3 fun m => bwrStep s m = 3
          else none

/-- The first request of a master leaves the waiting list. -/
def takeTxn (m : Master) : List Issued → Option (Issued × List Issued)
  | [] => none
  | q :: r => if q.t.m = m then some (q, r) else (takeTxn m r).map fun p => (p.1, q :: p.2)

/-- A master is served at a step of R154: the grant is charged, and the round-robin places move on. -/
def bwrServe (s : State) (m : Master) (k bytes : Nat) : State :=
  let s := bwrCharge s m bytes
  let round := if s.bwr.rr[3] = m.val ∧ 0 < s.bwr.m[m].round ∧ s.bwr.m[m].round < s.bwr.m[m].cfg.weight
    then s.bwr.m[m].round + 1 else 1
  let s := if k = 3 then updBwr s m fun b => { b with round := round } else s
  { s with bwr := { s.bwr with rr := if h : k < 4 then putV s.bwr.rr ⟨k, h⟩ m.val else s.bwr.rr } }

/-- One admission (R152-R155): the grant is charged and the transaction is accepted at its target. The requests of one master are
admitted in their order (08_fabric_bandwidth.md, "The bandwidth regulator"). -/
def bwrAdmit (s : State) : State :=
  match bwrNext s with
  | none => s
  | some (m, k) =>
    match takeTxn m s.fab.waiting with
    | none => s
    | some (q, rest) =>
      let q := if m.val = 13 then { q with t := { q.t with bytes := trcLineBytes s.trc } } else q
      tagPeak (bwrServe { s with fab := { s.fab with waiting := rest, accepted := s.fab.accepted ++ [(q, s.now)] } } m k (txnCharge s q.t)) m 0

/-- A window ends and the next begins at tick `start` with number `num` (R150, R157, R161): statistics latch, a scheduled
clear and the held configuration take effect. -/
def bwrEdge (s : State) (start num : Nat) : State :=
  let b := s.bwr
  let ms := b.m.map fun x => { x with last := natW x.charged, lastP2 := natW x.p2, charged := 0, p2 := 0, urgBytes := 0 }
  let ms := if b.clr then ms.map fun x => { x with bytes := 0, statP2 := 0, stall := 0, urg := 0 } else ms
  let ms := if b.dirty then ms.map fun x => { x with cfg := x.want } else ms
  let cap := if b.dirty then b.wantCap else b.cap
  let ovr : Bool := decide (cap < (ms.toList.map fun x => x.cfg.min).sum)
  { s with
    bwr := { b with m := ms, cap := cap, window := b.wantWin, start := start, num := num, total := 0, clr := false, dirty := false
                    cfgWin := if b.dirty then natW num else b.cfgWin
                    status := if ovr then b.status.raise 0 else b.status }
    fab := if b.clr then { s.fab with wait := Vector.replicate 15 0, peak := Vector.replicate 15 0 } else s.fab }

/-- The end of the running window, when TB has reached it. -/
def bwrWindowEnd (s : State) : State :=
  if s.bwr.start + s.bwr.window ≤ s.now then bwrEdge s (s.bwr.start + s.bwr.window) (s.bwr.num + 1) else s

/-- Windows that TB has gone past are over (R36, R150): a grant is charged to the running window of its tick. At the very tick of an
edge the arbiter decides, by BWR_WINDOW_EDGE or by a grant before it (R153). -/
def bwrNow (s : State) : State :=
  if s.now ≤ s.bwr.start + s.bwr.window then s
  else
    let s := bwrEdge s (s.bwr.start + s.bwr.window) (s.bwr.num + 1)
    let n := (s.now - 1 - s.bwr.start) / s.bwr.window
    if n = 0 then s else bwrEdge s (s.bwr.start + n * s.bwr.window) (s.bwr.num + n)

/-- The state in which master m asks for admission, behind the requests that wait. -/
def bwrAsk (s : State) (m : Master) : State :=
  { s with fab := { s.fab with waiting := s.fab.waiting ++ [⟨{ m := m, ch := 0, kind := 0, addr := 0, data := 0, bytes := 4 }, true, true⟩] } }

/-- The step at which an access of master m is admitted now, none while it must wait for a tag, for the regulator, or for an earlier
request (R147, R151, R154, R157). -/
def bwrMay (s : State) (m : Master) : Option Nat :=
  if bwrWaits s m then none
  else match bwrNext (bwrAsk s m) with
    | some (n, k) => if n = m then some k else none
    | none => none

/-- A transaction of master m of `bytes` bytes is admitted and charged, if it can be now (R152-R155); it holds a tag while it lasts
(R146). -/
def bwrTry (s : State) (m : Master) (bytes : Nat) : State × Bool :=
  let s := bwrNow s
  match bwrMay s m with
  | some k => (tagPeak (bwrServe s m k bytes) m 1, true)
  | none => (s, false)

/-- As bwrTry, for an access whose master waits until it is admitted (R160). -/
def bwrTake (s : State) (m : Master) (bytes : Nat) : State × Bool :=
  let r := bwrTry s m bytes
  ({ r.1 with fab := { r.1.fab with asking := putV r.1.fab.asking m !r.2 } }, r.2)

/-- The regulator's counters over one tick (R160): waiting for admission, waiting for a tag, urgent. -/
def bwrTick (s : State) : State :=
  (List.finRange 15).foldl (fun s m =>
    let waits := bwrWaits s m || s.fab.asking[m] || (if h : m.val < 8 then s.cores[(⟨m.val, h⟩ : Core)].sb.any (!·.out) else false)
    let noTag := waits && decide (s.fab.alloc[m] ≤ tagsHeld s m)
    let s := if isUrgent s m then updBwr s m fun b => { b with urg := b.urg + 1 } else s
    if noTag then { s with fab := { s.fab with wait := updV s.fab.wait m (· + 1) } }
    else if waits then updBwr s m fun b => { b with stall := b.stall + 1 } else s) (urgWires (bwrNow s))

/-! ### Registers -/

/-- A write of BWR_CTRL (R150). -/
def bwrCtrlWrite (s : State) (w : Who) (v : Word) : State :=
  let win := bitsOf v 0 11
  let bad : Bool := win < 12 || 1536 < win
  let s := if bad then rsvdEnc s w.p.m 0x40051000 else { s with bwr := { s.bwr with wantWin := win } }
  let s := if v.getLsbD 30 then { s with bwr := { s.bwr with clr := true } } else s
  if v.getLsbD 31 && !s.bwr.en then
    let s := bwrEdge (bwrNow s) s.now 0
    { s with bwr := { s.bwr with en := true } }
  else { s with bwr := { s.bwr with en := v.getLsbD 31 } }

/-- A write of FAB_TAGALLOC(m) (R147). -/
def tagAllocWrite (s : State) (w : Who) (m : Master) (v : Word) : State :=
  let n := bitsOf v 0 12
  let addr := 0x40050100 + natW (4 * m.val)
  if n = 0 then rsvdEnc s w.p.m addr
  else
    let sum := (putV s.fab.alloc m n).toList.sum
    if sum > tagCount s.variant then { s with fab := { s.fab with status := s.fab.status.raise 0 } }
    else { s with fab := { s.fab with alloc := putV s.fab.alloc m n } }

def urgWord (c : BwrCfg) : Word :=
  natW (boolN c.urgEn 31 + boolN c.force 30 + boolN c.met 29 + c.off * 65536 + c.on)

def updWant (s : State) (m : Master) (f : BwrCfg → BwrCfg) : State :=
  let s := updBwr s m fun b => { b with want := f b.want }
  { s with bwr := { s.bwr with dirty := true } }

/-- The size of the buffer behind an urgency wire (R158). -/
def urgSize (m : Master) : Nat := if m.val = 13 then 128 else 32

/-- The registers of the FAB and BWR block. An instance of an absent master answers ABSENT, its FAB_TAGALLOC with the others: the block's
text says so of every instance, and R147's "reads 0 and cannot be changed" then shows nowhere (log entry 53). -/
def fabRead (s : State) (w : Who) (off : Nat) : RegRead :=
  let m := w.p.m
  let cfg (v : Nat) : RegRead := if w.secure then .ok s (natW v) else .bad 3
  let per (r : Option (Fin 16)) (f : Master → RegRead) : RegRead :=
    match r with
    | some i => if h : i.val < 15 then
        (if masterPresent s.variant ⟨i.val, h⟩ then f ⟨i.val, h⟩ else .bad 2) else .bad 1
    | none => .bad 1
  if off = 0x000 then cfg s.fab.limit
  else if off = 0x004 then .ok { s with fab := { s.fab with status := s.fab.status.read m } } s.fab.status.val
  else if off = 0x008 then .ok s (natW (tagCount s.variant - s.fab.alloc.toList.sum))
  else if off = 0x1000 then cfg (boolN s.bwr.en 31 + s.bwr.wantWin)
  else if off = 0x1004 then cfg s.bwr.wantCap
  else if off = 0x1008 then .ok s (natW s.bwr.num)
  else if off = 0x100C then .ok { s with bwr := { s.bwr with status := s.bwr.status.read m } } s.bwr.status.val
  else if off = 0x1010 then .ok s s.bwr.cfgWin
  else if 0x1100 ≤ off ∧ off < 0x1500 then
    per (inst (off - off % 0x40) 0x1100 0x40 16) fun i =>
      let b := s.bwr.m[i]
      match (off % 0x40) with
      | 0x00 => cfg b.want.min
      | 0x04 => cfg b.want.max
      | 0x08 => cfg b.want.weight
      | 0x0C => cfg (urgWord b.want).toNat
      | 0x10 => cfg b.want.urgLim
      | 0x14 => .ok s b.bytes
      | 0x18 => .ok s b.statP2
      | 0x1C => .ok s b.stall
      | 0x20 => .ok s b.urg
      | 0x24 => .ok s b.last
      | 0x28 => .ok s b.lastP2
      | 0x2C => .ok s b.lastWin
      | _ => .bad 1
  else if 0x100 ≤ off ∧ off < 0x140 then per (inst off 0x100 4 16) fun i => cfg s.fab.alloc[i]
  else if 0x140 ≤ off ∧ off < 0x180 then
    -- the read itself holds a tag of its master
    per (inst off 0x140 4 16) fun i => .ok s (natW (s.fab.peak[i] * 65536 + tagsHeld s i + (if i = m then 1 else 0)))
  else if 0x180 ≤ off ∧ off < 0x1C0 then per (inst off 0x180 4 16) fun i => .ok s s.fab.wait[i]
  else .bad 1

def fabWrite (s : State) (w : Who) (off : Nat) (v : Word) : RegWrite :=
  let m := w.p.m
  let addr : Word := 0x40050000 + natW off
  let cfg (t : State) : RegWrite := if w.secure then .ok t else .bad 3
  let per (r : Option (Fin 16)) (f : Master → RegWrite) : RegWrite :=
    match r with
    | some i => if h : i.val < 15 then
        (if masterPresent s.variant ⟨i.val, h⟩ then f ⟨i.val, h⟩ else .bad 2) else .bad 1
    | none => .bad 1
  let bytes := bitsOf v 2 18 * 4
  if off = 0x000 then
    let n := bitsOf v 0 16
    cfg (if n < 24 then rsvdEnc s m addr else { s with fab := { s.fab with limit := n } })
  else if off = 0x004 then .ok { s with fab := { s.fab with status := s.fab.status.clear m v } }
  else if off = 0x1000 then cfg (bwrCtrlWrite s w v)
  else if off = 0x1004 then cfg { s with bwr := { s.bwr with wantCap := bytes, dirty := true } }
  else if off = 0x100C then .ok { s with bwr := { s.bwr with status := s.bwr.status.clear m v } }
  else if off = 0x008 ∨ off = 0x1008 ∨ off = 0x1010 then .ok s
  else if 0x1100 ≤ off ∧ off < 0x1500 then
    per (inst (off - off % 0x40) 0x1100 0x40 16) fun i =>
      match (off % 0x40) with
      | 0x00 => cfg (updWant s i fun c => { c with min := bytes })
      | 0x04 => cfg (updWant s i fun c => { c with max := bytes })
      | 0x08 => let n := bitsOf v 0 4
                cfg (if n = 0 then rsvdEnc s m addr else updWant s i fun c => { c with weight := n })
      | 0x0C =>
        if i.val < 8 then
          cfg (updWant s i fun c => { c with urgEn := v.getLsbD 31, force := v.getLsbD 30, met := v.getLsbD 29 })
        else if 11 ≤ i.val ∧ i.val ≤ 13 then
          let lo := bitsOf v 16 8
          let hi := bitsOf v 0 8
          let t := updWant s i fun c => { c with urgEn := v.getLsbD 31 }
          cfg (if hi ≤ lo ∨ urgSize i < hi then rsvdEnc t m addr else updWant t i fun c => { c with off := lo, on := hi })
        else cfg s
      | 0x10 => if i.val < 8 ∨ (11 ≤ i.val ∧ i.val ≤ 13) then cfg (updWant s i fun c => { c with urgLim := bytes }) else cfg s
      | x => if 0x14 ≤ x ∧ x ≤ 0x2C ∧ x % 4 = 0 then .ok s else .bad 1
  else if 0x100 ≤ off ∧ off < 0x140 then per (inst off 0x100 4 16) fun i => cfg (tagAllocWrite s w i v)
  else if 0x140 ≤ off ∧ off < 0x180 then per (inst off 0x140 4 16) fun _ => .ok s
  else if 0x180 ≤ off ∧ off < 0x1C0 then per (inst off 0x180 4 16) fun _ => .ok s
  else .bad 1

end Sys2Proof.Machine
end

