-- ==== Sys2Proof/Machine/Memory.lean ====
section
/-!
DEFINITION. The memory regions of the address map: which region an address lies in, which answer an access of each master
meets there (R39-R53, R300, R301), and a read or a write of memory with its ECC rules (R127, R534) and error records.
Addresses of registers are decoded in Bus.lean.
-/

namespace Sys2Proof.Machine

/-- The regions of R39. Peripheral addresses give their block number (address bits [27:16]) and offset. -/
inductive Region where
  | flash (bank : Bool) (off : Nat)
  | dataFlash
  | rom
  | sram (b : Fin 16)
  | ownCls
  | clsAlias (n : Fin 8)
  | green (off : Nat)
  | periph (block off : Nat)
  | priv (off : Nat)
  | none
deriving DecidableEq, Repr

/-- The peripheral blocks of R43. -/
inductive Block where
  | sys | pwr | lv | tb | wd | fab | cue | pool | ec | dma | lane | adc | spd | stat | hlink | cec | ir | kpd | uart | i2c | gpio
  | cry | trc | dbg | flc | otp | key
deriving DecidableEq, Repr

/-- The block at a block number, address bits [27:16]. -/
def blockAt : Nat → Option Block
  | 0x000 => some .sys | 0x001 => some .pwr | 0x002 => some .lv | 0x003 => some .tb | 0x004 => some .wd | 0x005 => some .fab
  | 0x006 => some .cue | 0x007 => some .pool | 0x008 => some .ec | 0x009 => some .dma | 0x010 => some .lane | 0x011 => some .adc
  | 0x012 => some .spd | 0x013 => some .stat | 0x018 => some .hlink | 0x019 => some .cec | 0x01A => some .ir | 0x01B => some .kpd
  | 0x01C => some .uart | 0x01D => some .i2c | 0x01E => some .gpio | 0x020 => some .cry | 0x021 => some .trc | 0x022 => some .dbg
  | 0xF00 => some .flc | 0xF01 => some .otp | 0xF02 => some .key
  | _ => none

/-- Whether a block is absent on a variant (R43). -/
def Block.absent (v : Variant) : Block → Bool
  | .spd | .stat | .cry | .trc => v = .t
  | _ => false

/-- The region of an address. -/
def regionOf (a : Nat) : Region :=
  if a < 0x100000 then .flash false a
  else if a < 0x200000 then .flash true (a - 0x100000)
  else if a < 0x210000 then .dataFlash
  else if 0x08000000 ≤ a ∧ a < 0x08018000 then .rom
  else if h : 0x10000000 ≤ a ∧ a < 0x10200000 then .sram ⟨(a - 0x10000000) / 0x20000, by omega⟩
  else if 0x18000000 ≤ a ∧ a < 0x18004000 then .ownCls
  else if h : 0x18100000 ≤ a ∧ a < 0x18180000 then
    if (a - 0x18100000) % 0x10000 < 0x4000 then .clsAlias ⟨(a - 0x18100000) / 0x10000, by omega⟩ else .none
  else if 0x1C000000 ≤ a ∧ a < 0x1C008000 then .green (a - 0x1C000000)
  else if 0x40000000 ≤ a ∧ a < 0x50000000 then .periph ((a - 0x40000000) / 0x10000) (a % 0x10000)
  else if 0xE0000000 ≤ a ∧ a < 0xE0001000 then .priv (a - 0xE0000000)
  else .none

/-- The global address of a core's CLS, under which its contents are kept. -/
def clsBase (c : Core) : Nat := 0x18100000 + c.val * 0x10000

/-- The address under which a byte is kept: the own CLS of stage core c is its global one. -/
def physAddr (m : Master) (a : Nat) : Nat :=
  if h : m.val < 8 then (if regionOf a = .ownCls then clsBase ⟨m.val, h⟩ + (a - 0x18000000) else a) else a

/-- Whether an address is in the Open part of its region (R301). -/
def openAddr (s : State) (a : Nat) : Bool :=
  match regionOf a with
  | .flash _ off => decide (0 < s.part.openFrom) && decide (s.part.openFrom < flashBank s.variant / 4096) &&
      decide (4096 * s.part.openFrom ≤ off)
  | .sram b => s.part.sramOpen.getLsbD b.val
  | .ownCls => true
  | .green off => decide (1 ≤ s.part.grOpen) && decide (s.part.grOpen ≤ 127) && decide (256 * s.part.grOpen ≤ off) && decide (0x100 ≤ off)
  | .priv _ => true
  | _ => false

/-- The kinds of access. -/
inductive Acc where
  | read | write | atomic | fetch
deriving DecidableEq, Repr

/-- The answer that a memory region gives from the address alone (R533), and that a peripheral block gives to the data of a unit: ABSENT, DECODE, PERMISSION, in the order of R50, 0
for none of them. The device-owned bytes that are closed to the Secure world too (R46), and the alias of an absent core, are answered by
their targets (`memTarget`). -/
def memStatic (s : State) (w : Who) (acc : Acc) (a : Nat) : Nat :=
  let perm (ok : Bool) : Nat := if ok && (w.secure || openAddr s a) then 0 else 3
  match regionOf a with
  | .flash _ off =>
    if flashBank s.variant ≤ off then 2 else if acc = .atomic then 1 else if acc = .fetch then 0 else perm (acc = .read)
  | .sram b => if bankCount s.variant ≤ b.val then 2 else if acc = .fetch then 0 else perm true
  | .ownCls => if 8 ≤ w.p.m.val ∨ acc = .atomic then 1 else 0
  | .clsAlias n =>
    if coreCount s.variant ≤ n.val then 0
    else if acc = .atomic then 1
    else if w.p.m.val < 10 ∨ w.p.m.val = 14 then (if acc = .fetch then 3 else perm w.priv)
    else 1
  | .green off =>
    if acc = .fetch then 3 else if off < 0x100 then (if w.p.m.val = 8 || w.secure then 0 else 3) else perm true
  | .dataFlash => if w.p.m.val ≠ 8 then 1 else if acc = .read then 0 else if acc = .write then 3 else 1
  | .rom => if w.p.m.val ≠ 8 then 1 else if acc = .read ∨ acc = .fetch then 0 else if acc = .write then 3 else 1
  | .periph blk _ => match blockAt blk with | none => 1 | some b => if b.absent s.variant then 2 else 3
  | _ => 1

/-- The answer that the target gives for what the address names there, 0 for none: the CLS of an absent core, the device-owned bytes of the
Green Room that no other master writes, and the seal (R46). -/
def memTarget (s : State) (w : Who) (acc : Acc) (a : Nat) : Nat :=
  match regionOf a with
  | .clsAlias n => if coreCount s.variant ≤ n.val then 2 else 0
  | .green off =>
    if off < 0x100 && w.p.m.val ≠ 8 && (acc ≠ .read || (0x60 ≤ off && decide (off < 0x80))) then 3 else 0
  | _ => 0

/-- Whether the target of a memory access is dark (R41, R49, R340). -/
def memDark (s : State) (a : Nat) : Bool :=
  match regionOf a with
  | .sram b => !bankOn s b
  | .clsAlias n => !coreUp s n
  | .flash .. => !domUp s 10
  | .dataFlash => !domUp s 10
  | _ => false

/-- Where an ECC record says the word is (R493): the low bits of DETAIL. -/
def eccWhere (p : Nat) : Nat :=
  match regionOf p with
  | .sram b => b.val
  | .clsAlias n => n.val + 16
  | .green _ => 32
  | .dataFlash => 1
  | _ => 0

/-- Whether a kept address lies in a flash array (R276, R277). -/
def inFlash (p : Nat) : Bool := match regionOf p with | .flash .. | .dataFlash => true | _ => false

/-- The word of check bits that a kept byte address lies in: 64 bits in flash (R276), 32 bits elsewhere (R127). -/
def eccWord (p : Nat) : Nat := if inFlash p then p / 8 * 8 else p / 4 * 4

/-- The record of an answer other than OK (R53). -/
def ecBus (s : State) (w : Who) (ans : Nat) (a : Word) (detail : Nat) : State :=
  if ans = 5 then ecBuild s 0x02 1 (BitVec.ofNat 4 w.p.m.val) w.secure 5 a (natW s.fab.limit)
  else ecBuild s 0x01 1 (BitVec.ofNat 4 w.p.m.val) w.secure (BitVec.ofNat 3 ans) a (natW detail)

/-- The source record of an uncorrectable word (R494). -/
def ecPoison (s : State) (w : Who) (p : Nat) : State :=
  let m := BitVec.ofNat 4 w.p.m.val
  if inFlash p then ecBuild s 0x05 1 m w.secure 4 (natW p) (natW (eccWhere p + (Config.syndrome p).toNat * 256))
  else ecBuild s 0x04 1 m w.secure 4 (natW p) (natW (eccWhere p + boolN (s.poison.contains p) 15))

/-- The record of a corrected word, and its write-back, which flash does not have (R534). -/
def ecCorrect (s : State) (w : Who) (p : Nat) (writeBack : Bool) : State :=
  let m := BitVec.ofNat 4 w.p.m.val
  if inFlash p then ecBuild s 0x05 0 m w.secure 0 (natW p) (natW (eccWhere p + (Config.syndrome p).toNat * 256))
  else
    let s := ecBuild s 0x03 0 m w.secure 0 (natW p) (natW (eccWhere p + (Config.syndrome p).toNat * 256))
    if writeBack then { s with sec := s.sec.filter (· ≠ p) } else s

/-- Whether the word at a kept address cannot be corrected. -/
def wordBad (s : State) (p : Nat) : Bool := s.ded.contains p || s.poison.contains p

/-- An access refused: the record of R53, and for POISON the source record after it. -/
def memFail (s : State) (w : Who) (ans : Nat) (a : Nat) (detail : Nat) : State :=
  let s := ecBus s w ans (natW a) detail
  if ans = 4 then ecPoison s w (eccWord (physAddr w.p.m a)) else s

/-- Whether an address lies in the descriptor table in use (R165). -/
def inTable (s : State) (a : Nat) : Bool :=
  decide (s.cue.tbase.toNat ≤ a) && decide (a < s.cue.tbase.toNat + 8 * 2 ^ s.cue.k)

/-- The answer of a memory access at acceptance (R149), 0 for none: from the address alone, from what the address names, from the descriptor
table and from a dark domain. -/
def memAccept (s : State) (w : Who) (acc : Acc) (a : Nat) : Nat :=
  let st := memStatic s w acc a
  if st ≠ 0 then st
  else if memTarget s w acc a ≠ 0 then memTarget s w acc a
  else if inTable s a then 3
  else if memDark s a then 6
  else 0

/-- The answer of a memory access as its target gives it, TIMEOUT apart. -/
def memAnswer (s : State) (w : Who) (acc : Acc) (a bytes : Nat) : Nat :=
  let st := memAccept s w acc a
  if st ≠ 0 then st else if (acc ≠ .write || bytes < 4) && wordBad s (eccWord (physAddr w.p.m a)) then 4 else 0

/-- A read of 1, 2 or 4 aligned bytes of memory that is not answered from the address alone: the answer and the data. -/
def memRead (s : State) (w : Who) (a bytes : Nat) : State × Nat × Word :=
  let ans := memAnswer s w .read a bytes
  if ans ≠ 0 then (memFail s w ans a 0, ans, 0)
  else
    let p := physAddr w.p.m a
    let s := if s.sec.contains (eccWord p) then ecCorrect s w (eccWord p) true else s
    (s, 0, natW (ofLe (memBytes s.mem p bytes)))

/-- A write of 1, 2 or 4 aligned bytes of memory (R127). -/
def memWrite (s : State) (w : Who) (a bytes : Nat) (v : Word) (detail : Nat) : State × Nat :=
  let ans := memAnswer s w .write a bytes
  if ans ≠ 0 then (memFail s w ans a detail, ans)
  else
    let p := physAddr w.p.m a
    let q := eccWord p
    let s := if bytes = 4 then { s with sec := s.sec.filter (· ≠ q), ded := s.ded.filter (· ≠ q), poison := s.poison.filter (· ≠ q) }
             else if s.sec.contains q then ecCorrect s w q true else s
    (s.put p (leBytes bytes v.toNat), 0)

/-- Words written one after another by a unit that is a master; the first answer other than OK ends them. -/
def unitWrite (s : State) (w : Who) (a : Nat) : List Word → State × Nat
  | [] => (s, 0)
  | v :: r =>
    let p := memWrite s w a 4 v 0
    if p.2 = 0 then unitWrite p.1 w (a + 4) r else p

/-- A unit of the device as a master: the world is Secure (R300). -/
def unitWho (m : Master) : Who := ⟨⟨m, 0⟩, true, true⟩

/-- Bytes as words, the last one filled with zeros. -/
def asWords (bs : List Byte) : List Word := (List.range ((bs.length + 3) / 4)).map fun i => natW (argN bs (4 * i) 4)

end Sys2Proof.Machine
end

