-- ==== Sys2Proof/Machine/TimeOps.lean ====
section
/-!
DEFINITION. The watchdog (18_watchdog_timers.md) and how a wake source is accepted. Resets that the watchdog orders are taken
in Reset.lean, which reads `wdService` and `wdExpire` here.
-/

namespace Sys2Proof.Machine

/-- A wake source is accepted while the device is not in RUN, or while it is entering another state (R350-R353). -/
def wakeBy (s : State) (reason : Nat) : State :=
  if s.pwr.mode = .run && s.pwr.entering.isNone then s
  else { s with pwr := { s.pwr with wakes := s.pwr.wakes ++ [reason] } }

/-- A wake source of the mask (R351): bit `b`, REASON b + 1. -/
def wakeArmed (s : State) (b : Nat) : State := if s.pwr.wakeMask.getLsbD b then wakeBy s (b + 1) else s

/-! ### Watchdog -/

/-- A debug session at FULL holds the watchdog (R303, R313). -/
def wdHeld (s : State) : Bool := s.dbg.level = 2

/-- The tick at which the open window begins (R367). -/
def wdOpenAt (w : Wd) : Nat := 2 ^ w.period.toNat - 2 ^ w.period.toNat / 2 ^ (w.window.toNat + 1)

/-- Whether the count is in the open window now; the whole period of a grace is open (R375, R376). -/
def wdOpen (w : Wd) : Bool := w.en && (w.grace || decide (wdOpenAt w ≤ w.count))

/-- WD_CNT. WDO runs on its own, so what the count has come to since the last event that the model places is free, below the next edge of the
window (R31, R367, log entry 61). -/
def wdCnt (s : State) : Nat :=
  let w := s.wd
  let edge := if wdOpen w then 2 ^ w.period.toNat else wdOpenAt w
  if w.en then w.count + Config.wdoTicks s.now % (edge - w.count) else w.count

/-- The payload of a watchdog warning (R378). -/
def wdWarning (s : State) (kind cnt : Nat) : List Byte :=
  [natB kind, natB s.wd.period.toNat, 0, 0] ++ leBytes 4 cnt ++ leBytes 8 s.tb.toNat

def wdPost (s : State) (payload : List Byte) : State := hwFixed s .watchdog 0 payload

/-- PERIOD, WINDOW and WARN of a WD_CTRL word, reserved encodings leaving their field (R58, R366). -/
def wdFields (s : State) (m : Master) (v : Word) : State :=
  let n := bitsOf v 0 5
  let f := bitsOf v 8 2
  let s := if 8 ≤ n ∧ n ≤ 24 then { s with wd := { s.wd with period := BitVec.ofNat 5 n } } else rsvdEnc s m 0x40040000
  let s := if f < 3 then { s with wd := { s.wd with window := BitVec.ofNat 2 f } } else rsvdEnc s m 0x40040000
  { s with wd := { s.wd with warn := v.getLsbD 16 } }

/-- A write of WD_CTRL (R366, R372). -/
def wdCtrlWrite (s : State) (m : Master) (v : Word) : State :=
  if !s.wd.en then
    let s := wdFields s m v
    { s with wd := { s.wd with en := true, count := 0, grace := false, gwake := false } }
  else if wdOpen s.wd then
    let s := wdFields s m v
    { s with wd := { s.wd with count := 0, grace := false, gwake := false, last := true } }
  else { s with wd := { s.wd with evt := s.wd.evt.raise 0, last := false } }

/-- What a write of WD_SVC asks (R370, R371): nothing more, or a reset with DETAIL 2. A watchdog that is held raises no reset: a service in the
closed window is then judged and lost (R313, log entry 60). -/
def wdService (s : State) (v : Word) : State × Bool :=
  if !s.wd.en then (s, false)
  else if v = 0xA5C3 then ({ s with wd := { s.wd with armed := true } }, false)
  else if v = 0x5C3A && s.wd.armed then
    if wdOpen s.wd then ({ s with wd := { s.wd with count := 0, armed := false, grace := false, gwake := false, last := true } }, false)
    else if wdHeld s then ({ s with wd := { s.wd with armed := false, last := false } }, false)
    else ({ s with wd := { s.wd with last := false } }, true)
  else ({ s with wd := { s.wd with armed := false, evt := s.wd.evt.raise 1 } }, false)

/-- The count enters the open window (R374): an OPEN warning in RUN when WARN is set. A grace period began its open window
at its start. -/
def wdEnterOpen (s : State) : State :=
  if s.wd.en && !wdHeld s && !s.wd.grace && decide (s.wd.count < wdOpenAt s.wd) then
    let s := { s with wd := { s.wd with count := wdOpenAt s.wd } }
    if s.wd.warn && s.pwr.mode = .run then wdPost s (wdWarning s 0 s.wd.count) else s
  else s

/-- The EXPIRY warning that AO holds is posted (R375). -/
def wdPostExpiry (s : State) : State :=
  match s.wd.warnHeld with
  | some p => wdPost { s with wd := { s.wd with warnHeld := none } } p
  | none => s

/-- The count reaches 2^n: none when a reset follows, with its DETAIL (R374); otherwise the first expiry in NAP or STANDBY, or on
the way there (R353),
whose warning is held in AO (R375). -/
def wdExpire (s : State) : State × Option Nat :=
  if !s.wd.en || wdHeld s then (s, none)
  else if s.wd.gwake then (s, some 1)
  else if s.pwr.mode = .run && s.pwr.entering.isNone then (s, some 0)
  else
    let s := { s with wd := { s.wd with count := 0, grace := true, gwake := true } }
    let s := { s with wd := { s.wd with warnHeld := some (wdWarning s 1 0) } }
    (wakeBy (if s.pwr.mode = .standby then s else wdPostExpiry s) 8, none)

/-- In STANDBY, TB of the expiry is TB as it is restored (R28, R378). -/
def wdRestored (w : Wd) (tb : BitVec 64) : Wd := { w with warnHeld := w.warnHeld.map fun p => p.take 8 ++ leBytes 8 tb.toNat }

/-- Held warnings are posted once the Cue engine is up (R374, R375). A watchdog that is held raises no warning for its window (R313). -/
def wdPostHeld (s : State) : State :=
  let s := wdPostExpiry s
  if s.wd.openHeld then
    let s := { s with wd := { s.wd with openHeld := false } }
    if s.wd.en && s.wd.warn && !wdHeld s then wdPost s (wdWarning s 0 (wdCnt s)) else s
  else s

def wdRead (s : State) (w : Who) (off : Nat) : RegRead :=
  let d := s.wd
  match off with
  | 0x000 => .ok s (natW (boolN d.en 31 + boolN d.warn 16 + d.window.toNat * 256 + d.period.toNat))
  | 0x004 => .ok s 0
  | 0x008 => .ok s (natW (boolN d.en 31 + boolN (wdHeld s) 30 + boolN d.grace 29 + boolN (wdOpen d) 28 + boolN d.armed 27 +
      boolN d.gwake 26 + boolN d.last 0))
  | 0x00C => .ok { s with wd := { d with evt := d.evt.read w.p.m } } d.evt.val
  | 0x010 => .ok s (natW (wdCnt s % 2 ^ 25))
  | 0x014 => .ok s (d.meas.setWidth 32)
  | _ => .bad 1

end Sys2Proof.Machine
end

