-- ==== Sys2Proof/Machine/IoBase.lean ====
section
/-!
DEFINITION. What the converters, the setpoint outputs, the lanes and the stat port do when leave is granted or refused, and
the small operations that their events share (19, 20).
-/

namespace Sys2Proof.Machine

def lanesUp (s : State) : Bool := domUp s 11
def anaUp (s : State) : Bool := domUp s 12
def statUp (s : State) : Bool := domUp s 13

def updLane (s : State) (n : Fin 24) (f : Lane → Lane) : State := { s with lane := updV s.lane n f }
def updAdc (s : State) (a : Fin 4) (f : Adc → Adc) : State := { s with adc := updV s.adc a f }
def updSpd (s : State) (d : Fin 8) (f : Spd → Spd) : State := { s with spd := updV s.spd d f }
def lanePresent (s : State) (n : Fin 24) : Bool := decide (n.val < laneCount s.variant)

/-! ### Converters -/

/-- A free, enabled converter starts the first request that waits (R416); none starts while a calibration holds it (R421), in
NAP (R349) or in the dark. -/
def adcNext (s : State) (a : Fin 4) : State :=
  let k := s.adc[a]
  if !k.enabled || k.conv.isSome || k.calib || s.pwr.mode ≠ .run || !anaUp s then s
  else match k.reqs with
    | n :: r => updAdc s a fun k => { k with conv := some (.lane n), reqs := r }
    | [] =>
      if k.kpdReq then updAdc s a fun k => { k with conv := some .keypad, kpdReq := false }
      else match k.scan with
        | some i => updAdc s a fun k => { k with conv := some (.entry i) }
        | none => s

/-- A scan start (R418, R421). Converters that are not enabled, and converters in NAP (R349), take none. -/
def adcScanStart (s : State) (a : Fin 4) : State :=
  let k := s.adc[a]
  if !k.en || s.pwr.mode ≠ .run then s
  else if k.calib then updAdc s a fun k => { k with startWait := true }
  else if k.scan.isSome then updAdc s a fun k => { k with evt := k.evt.raise 1 }
  else adcNext (updAdc s a fun k => { k with scan := some 0, scanOut := false }) a

def adcPresent (s : State) (a : Fin 4) : Bool := decide (a.val < adcCount s.variant)

/-- The converters of a trigger start their scans (R418). -/
def adcTrigger (s : State) (f : Adc → Bool) : State :=
  (List.finRange 4).foldl (fun s a => if adcPresent s a && f s.adc[a] then adcScanStart s a else s) s

/-- The correction of R423: round half up, clamped to 12 bits. -/
def adcCorrect (k : Adc) (raw : Nat) : BitVec 12 :=
  let x : Int := (16 * (raw : Int) - k.ofs.toInt) * (k.gain : Int)
  let r := (x + 262144).fdiv 524288
  BitVec.ofInt 12 (max 0 (min 4095 r))

/-! ### Lanes -/

def laneGroup (n : Fin 24) : Fin 41 := ⟨29 + n.val / 8, by omega⟩
def laneFactor (l : Lane) (k : BitVec 2) : Nat := bitsOf l.scale (8 * k.toNat) 8

/-- The effective target of a value (R390). -/
def laneEff (l : Lane) (base : Nat) : Nat := min (base * l.factor / 128) 0xFFFFF

/-- The limits of the regulator (R395). -/
def laneClamp (l : Lane) (x : Int) : Int := max (16 * (l.outmin : Int)) (min x (16 * (l.outmax : Int)))

/-- Whether LANE_DUTY reads the regulator (R393). -/
def laneRegulated (l : Lane) : Bool := l.mode = 3 || l.mode = 5

/-- What LANE_DUTY reads (R393). -/
def laneDutyVal (l : Lane) : Nat := if laneRegulated l then l.out.toNat else l.duty

/-- The phase counter in units of 32 LCLK periods, 4 ticks each (R396). -/
def lanePhase (s : State) (l : Lane) : Nat := min ((s.now - l.edge) / 4) 65535

/-- The dither bit of period k (R391): the 4-bit bit-reversal of k mod 16 below D mod 16. -/
def laneDither (k d : Nat) : Nat :=
  let r := k % 2 * 8 + k / 2 % 2 * 4 + k / 4 % 2 * 2 + k / 8 % 2
  if r < d % 16 then 1 else 0

/-- The high time of the lane's present PWM period, in LCLK periods (R390, R391, R395). -/
def laneHigh (l : Lane) : Nat :=
  if l.st ≠ 2 || l.low || l.factor = 0 || l.mode = 0 || l.mode = 2 then 0
  else if l.mode = 3 && l.outsel then l.per + 1
  else
    let d := laneDutyVal l
    min (d / 16 + laneDither l.k d) (l.per + 1)

/-- The record of R406: lane, code, sense code, LANE_DUTY, TB. -/
def laneRecord (s : State) (n : Fin 24) (code sense : Nat) : List Byte :=
  [natB n.val, natB code] ++ leBytes 2 sense ++ leBytes 4 (laneDutyVal s.lane[n]) ++ leBytes 8 s.tb.toNat

def lanePost (s : State) (n : Fin 24) (type code : Nat) : State :=
  hwFixed s (.lane n) type (laneRecord s n code s.lane[n].senseV.toNat)

/-- The sequencer at slot 0 with its counter at 0 (R400). -/
def laneSeqStart (l : Lane) : Lane := { l with slot := 0, loopc := 0, swait := none, seqrun := l.seqen }

/-- The lane enters RUN (R388, R390, R395, R400): periods from 0, F0, the sequencer at slot 0; counts and integrator at 0 unless
it resumes from HELD. -/
def laneRun (s : State) (n : Fin 24) (keep : Bool) : State :=
  updLane s n fun l =>
    let f := laneFactor l 0
    let l := if keep then l else { l with integ := 0, out := laneClamp l 0, overN := 0, underN := 0, skipN := 0, inN := 0, outN := 0 }
    let l := laneSeqStart { l with st := 2, factor := f, lastF := if f ≠ 0 then f else l.lastF, leveled := false, k := 0, low := false, runAt := s.now
                                   frame := none, edgeSeen := true, clrPend := false, asked := false, locked := false }
    { l with high := laneHigh l }

/-- Lanes of a group whose leave is decided: granted lanes enter RUN; refused ones return MODE to OFF and say so (R389). -/
def laneGranted (s : State) (r : Fin 41) : State :=
  (List.finRange 24).foldl (fun s n =>
    if laneGroup n = r && s.lane[n].st = 1 then laneRun s n false else s) s

def laneRefused (s : State) (r : Fin 41) : State :=
  (List.finRange 24).foldl (fun s n =>
    if laneGroup n = r && (s.lane[n].st = 1 || (s.lane[n].st = 4 && s.lane[n].mode ≠ 0)) then
      lanePost (updLane s n fun l => { l with st := 0, mode := 0 }) n 1 0
    else s) s

/-- A lane with a mode set asks for what it needs to run (R388, R389): HELD behind a closed Curtain, RUN with its group's
leave, LEAVE_WAIT until a grant. -/
def laneAsk (s : State) (n : Fin 24) (keep : Bool) : State :=
  let r := laneGroup n
  let held (t : State) : Bool := !curtainOpen t
  if lvHolds s r then (if held s then updLane s n fun l => { l with st := 4 } else laneRun s n keep)
  else
    let s := updLane s n fun l => { l with st := if held s then 4 else 1 }
    if lvWaits s r then s
    else
      let p := lvRequest s r 10 1
      match p.2 with
      | .granted => laneGranted p.1 r
      | .waiting => p.1
      | .refused => laneRefused p.1 r

/-- The lane's output goes safe (R388, R398): SAFE with a code, the integrator cleared, the sequencer stopped. -/
def laneSafe (s : State) (n : Fin 24) (code : BitVec 8) : State :=
  updLane s n fun l => { l with st := 3, fault := code, integ := 0, out := 0, seqrun := false, swait := none, high := 0, pdmOut := false
                                clrPend := false, asked := false }

/-- A lane fault (R397, R398); none is raised outside RUN or behind a closed Curtain (R265). -/
def laneFault (s : State) (n : Fin 24) (code : Nat) : State :=
  if s.lane[n].st ≠ 2 || !curtainOpen s then s
  else
    let s := ecBuild s 0x07 1 11 true 0 (natW (0x40100000 + 0x400 * n.val)) (natW (code + 256 * n.val))
    let s := laneSafe s n (BitVec.ofNat 8 code)
    let s := updLane s n fun l => { l with evt := l.evt.raise 0 }
    lanePost s n 0 code

/-! ### Setpoint outputs -/

/-- The lane that owns setpoint output d (R389). -/
def spdOwner (s : State) (d : Fin 8) : Option (Fin 24) :=
  (List.finRange 24).find? fun n => lanePresent s n && s.lane[n].spd.toNat = d.val + 1

def spdPresent (s : State) (d : Fin 8) : Bool := decide (d.val < spdCount s.variant)

/-- Whether the output is clamped for a reason other than its own range change (R424). -/
def spdForced (s : State) (d : Fin 8) : Bool :=
  !s.spd[d].written || !curtainOpen s || !anaUp s ||
    (match spdOwner s d with | some n => s.lane[n].st ≠ 2 || !lanesUp s | none => false)

/-- SPD_OUT.CLAMPED (R424, R426). -/
def spdClamped (s : State) (d : Fin 8) : Bool := spdForced s d || s.spd[d].phase = 2 || s.spd[d].inner

/-- The code in force (R425). -/
def spdInForce (s : State) (d : Fin 8) : Nat :=
  match spdOwner s d with
  | some n =>
    let l := s.lane[n]
    if l.outsel then (if l.factor = 0 then 0 else l.out.toNat / 1024) else s.spd[d].code.toNat
  | none => s.spd[d].code.toNat

def spdReq (d : Fin 8) : Fin 41 := ⟨21 + d.val, by omega⟩

/-- A refused range change reverts (R426). -/
def spdRevert (s : State) (d : Fin 8) : State :=
  updSpd s d fun k => { k with range := k.now, ranging := false, phase := 0, pend := none, evt := k.evt.raise 1 }

/-- A range change starts (R426): with leave and a clamp phase while the output drives, internally while it is clamped. -/
def spdStart (s : State) (d : Fin 8) (v : Bool) : State :=
  if v = s.spd[d].now then updSpd s d fun k => { k with range := v }
  else if spdForced s d then updSpd s d fun k => { k with range := v, ranging := true, inner := true, switched := false, phase := 0 }
  else
    let s := updSpd s d fun k => { k with range := v, ranging := true, phase := 1 }
    let p := lvRequest s (spdReq d) 4 0
    match p.2 with
    | .granted => updSpd p.1 d fun k => { k with phase := 2 }
    | .waiting => p.1
    | .refused => spdRevert p.1 d

/-- A change that was refused after waiting: what was pending starts next (R427). -/
def spdRefused (s : State) (d : Fin 8) : State :=
  let pend := s.spd[d].pend
  let s := spdRevert s d
  match pend with
  | some v => spdStart s d v
  | none => s

end Sys2Proof.Machine
end

