-- ==== Sys2Proof/Machine/LeaveGrant.lean ====
section
/-!
DEFINITION. What a grant or a refusal of leave sets going in its requester (R355), and the release of leave with the grants
that follow it (R356).
-/

namespace Sys2Proof.Machine

/-- The context P (true) or F (false) of the crypto engine. -/
def cctx (s : State) (x : Bool) : CryCtx := if x then s.cry.p else s.cry.f

def updCtx (s : State) (x : Bool) (f : CryCtx → CryCtx) : State :=
  if x then { s with cry := { s.cry with p := f s.cry.p } } else { s with cry := { s.cry with f := f s.cry.f } }

/-- The end of a job (R329), its leave apart: the result, the state cleared, the message. -/
def cryFinish (s : State) (x : Bool) (result : BitVec 4) : State :=
  match (cctx s x).job with
  | none => s
  | some j =>
    let n := j.aad.length + j.inp.length
    let bit := if result = 1 ∨ result = 2 ∨ result = 3 then 0 else 1
    let s := updCtx s x fun k => { k with
      job := none, waitLeave := false, din := [], dout := [], result := result, count := natW n, status := k.status.raise bit }
    if j.cfg.queue = 0 then s
    else
      hwEvent s ⟨.cry, masterClass s.pool j.owner, j.cfg.queue, 0,
        [natB (boolN (!x) 0), natB result.toNat, 0, 0] ++ leBytes 4 n ++ leBytes 4 (cctx s x).lwait.toNat, true⟩

/-- A context whose job waits for the engine's leave has it (R330). -/
def cryGranted (s : State) (x : Bool) : State :=
  updCtx s x fun k => if k.waitLeave then { k with waitLeave := false, lwait := natW s.lv.rwait[(16 : Fin 41)] } else k

/-- A grant reaches its requester. -/
def onGrant (s : State) (r : Fin 41) : State :=
  if r.val = 16 then cryGranted (cryGranted s true) false
  else if h : 17 ≤ r.val ∧ r.val < 21 then
    let a : Fin 4 := ⟨r.val - 17, by omega⟩
    adcNext (updAdc s a fun k => { k with enabled := true, leaveWait := false }) a
  else if h : 21 ≤ r.val ∧ r.val < 29 then updSpd s ⟨r.val - 21, by omega⟩ fun k => { k with phase := 2 }
  else if 29 ≤ r.val ∧ r.val < 32 then laneGranted s r
  else if r.val = 32 then { s with stat := { s.stat with active := true, leaveWait := false } }
  else if h : 33 ≤ r.val then
    { s with pwr := { s.pwr with coming := s.pwr.coming ++ [⟨r.val - 31, by omega⟩] } }
  else s

/-- A refusal after a wait reaches its requester. The tickets and the cores that a command brings up are Elvuk's. -/
def onRefused (s : State) (r : Fin 41) : State :=
  if r.val = 16 then
    let end1 (s : State) (x : Bool) : State := if (cctx s x).waitLeave then cryFinish s x 6 else s
    end1 (end1 s true) false
  else if h : 17 ≤ r.val ∧ r.val < 21 then
    updAdc s ⟨r.val - 17, by omega⟩ fun k => { k with en := false, leaveWait := false, scan := none, reqs := [], kpdReq := false
                                                      evt := k.evt.raise 2 }
  else if h : 21 ≤ r.val ∧ r.val < 29 then spdRefused s ⟨r.val - 21, by omega⟩
  else if 29 ≤ r.val ∧ r.val < 32 then laneRefused s r
  else if r.val = 32 then { s with stat := { s.stat with en := false, leaveWait := false, evt := s.stat.evt.raise 3 } }
  else s

/-- Waiting requests that now fit are granted and set going. -/
def leaveServe (s : State) : State :=
  let p := lvServe (s.lv.waiting.length + 1) s
  p.2.foldl onGrant p.1

/-- A requester gives back its units, and others are served (R356), or its request. -/
def leaveRelease (s : State) (r : Fin 41) : State :=
  let t := lvReturn (lvWithdraw s r) r
  if lvHolds s r then leaveServe t else t

/-- The requester of a converter. -/
def adcReq (a : Fin 4) : Fin 41 := ⟨17 + a.val, by omega⟩

/-- Elvuk's own work in context P keeps the engine's grant, or waits for it: verification, a command, the TAP's AUTH_RESPONSE (R263, R330,
log entry 59). -/
def cryElvuk (s : State) : Bool :=
  (decide (s.boot.stage = .verify) && hasCry s.variant) || s.elv.jobs.any (fun j => j.ticket = some 16 || j.stage = .leave 16) ||
    (match s.dbg.pend with | some x => x.ticket = some 16 | none => false)

/-- The engine returns its grant once both contexts are idle (R330). -/
def cryRelease (s : State) : State :=
  if s.cry.f.job.isSome || s.cry.p.job.isSome || cryElvuk s then s else leaveRelease s 16

/-- The end of a job with its leave (R329, R330). -/
def cryEnd (s : State) (x : Bool) (result : BitVec 4) : State := cryRelease (cryFinish s x result)

/-- What Elvuk holds under one of its tickets, or as the engine's user, goes back (R235, R330). -/
def ticketRelease (s : State) (r : Fin 41) : State := if r = 16 then cryRelease s else leaveRelease s r

end Sys2Proof.Machine
end

