-- ==== Sys2Proof/Machine/CryptoOps.lean ====
section
/-!
DEFINITION. The crypto engine's context F, the handles and the entropy source (16_keys_crypto_otp.md): the start of a job, its
data path, its end, and the registers of the CRY block.
-/

namespace Sys2Proof.Machine

def updCfg (s : State) (x : Bool) (m : Master) (f : CryCfg → CryCfg) : State :=
  updCtx s x fun k => { k with cfg := updV k.cfg m f }

/-- The bytes of words, the first byte in bits [7:0] (R327). -/
def wordsLe (ws : List Word) : List Byte := ws.flatMap fun w => leBytes 4 w.toNat

def isAes (c : CryCfg) : Bool := 2 ≤ c.alg.toNat && c.alg.toNat ≤ 5

/-- Whether START records BAD_CONFIG. -/
def cryBad (c : CryCfg) : Bool :=
  ((c.alg = 2 || c.alg = 3) && decide (c.len.toNat % 16 ≠ 0)) || (c.alg = 6 && decide (c.len.toNat ≠ 160)) ||
    (c.alg ≠ 5 && c.aadlen ≠ 0)

/-- The slot a handle names while it is held (R320). -/
def handleSlot (s : State) (h : BitVec 16) : Option (Fin 16) :=
  let i : Fin 16 := Fin.ofNat 16 h.toNat
  if s.key.slots[i].held && s.key.slots[i].gen = h.toNat / 16 then some i else none

/-- The key of a job (R326), none when it is refused. -/
def cryKey (s : State) (m : Master) (secure : Bool) (c : CryCfg) : Option (List Byte) :=
  let aes := isAes c
  if c.alg = 0 || c.alg = 6 then some []
  else if c.ksrc = 0 then
    let bs := wordsLe c.key.toList
    some (if aes && !c.ksize then bs.take 16 else bs)
  else
    match handleSlot s c.handle with
    | none => none
    | some i =>
      let k := s.key.slots[i]
      let want : BitVec 2 := if c.alg = 1 then 2 else if c.ksize then 1 else 0
      if k.owner.val = m.val && secure && k.purpose = want then some k.key else none

/-- A write of START (R324, R326, R330). Context P asks for leave in class SYSTEM. -/
def cryStartJob (s : State) (x : Bool) (w : Who) : State :=
  let m := w.p.m
  let k := cctx s x
  let c := k.cfg[m]
  if k.job.isSome then updCfg s x m fun k => { k with sstat := 1 }
  else if cryBad c then updCfg s x m fun k => { k with sstat := 2 }
  else
    let s := updCfg s x m fun k => { k with sstat := 0, key := Vector.replicate 8 0 }
    let key := cryKey s m w.secure c
    let job : CryJob := { cfg := { c with key := Vector.replicate 8 0 }, owner := m, secure := w.secure, key := key.getD [] }
    let s := updCtx s x fun k => { k with
      job := some job, waitLeave := false, din := [], dout := [], overfeed := false, owner := BitVec.ofNat 4 m.val
      lwait := 0, count := 0, digest := Vector.replicate 8 0, digestOwner := some m }
    if key.isNone then cryEnd s x 5
    else if lvHolds s 16 then s
    else if lvWaits s 16 then updCtx s x fun k => { k with waitLeave := true }
    else
      let p := lvRequest s 16 15 (if x then 1 else c.cls)
      match p.2 with
      | .granted => p.1
      | .waiting => updCtx p.1 x fun k => { k with waitLeave := true }
      | .refused => cryFinish p.1 x 6

/-- A write of ABORT (R329). -/
def cryAbort (s : State) (x : Bool) (m : Master) : State :=
  match (cctx s x).job with
  | some j => if j.owner = m then cryEnd s x 7 else updCfg s x m fun k => { k with sstat := 3 }
  | none => updCfg s x m fun k => { k with sstat := 3 }

/-- Whether an access to DIN, DOUT or DIGEST comes from the owner, or from a DMA channel that the owner started (R325). -/
def cryMay (s : State) (w : Who) (owner : Option Master) : Bool :=
  match owner with
  | none => false
  | some o => w.p.m = o || (w.p.m.val = 9 && s.dma[w.p.ch].by_ = some o)

def cryOwner (s : State) (x : Bool) : Option Master := (cctx s x).job.map (·.owner)

/-- Words of input of a job, additional data first (R327). -/
def cryWords (c : CryCfg) : Nat := (c.aadlen.toNat + 3) / 4 + (c.len.toNat + 3) / 4

/-- A word reaches DIN: false when the FIFO is full and the write must wait (R327). -/
def cryFeed (s : State) (x : Bool) (v : Word) : State × Bool :=
  let k := cctx s x
  match k.job with
  | none => (s, true)
  | some j =>
    if cryWords j.cfg ≤ j.fed then (updCtx s x fun k => { k with overfeed := true }, true)
    else if k.din.length < 16 then
      (updCtx s x fun k => { k with din := k.din ++ [v], job := some { j with fed := j.fed + 1 } }, true)
    else (s, false)

/-- The IV or counter bytes of a job. -/
def cryIv (c : CryCfg) : List Byte := wordsLe c.iv.toList

/-- The output of the next block of message, given the input and the output so far (R328). -/
def cryBlock (j : CryJob) (blk : List Byte) : List Byte :=
  let c := j.cfg
  let pos := j.inp.length
  match c.alg.toNat with
  | 2 => if c.dir then aesDec j.key blk else aesEnc j.key blk
  | 3 =>
    let prev := if pos = 0 then cryIv c else (if c.dir then j.inp else j.out).drop (pos - 16)
    if c.dir then xorBytes (aesDec j.key blk) prev else aesEnc j.key (xorBytes blk prev)
  | 4 => xorBytes blk (aesEnc j.key (ctrBlock (cryIv c) (pos / 16)))
  | 5 => xorBytes blk (aesEnc j.key (ctrBlock ((cryIv c).take 12 ++ [0, 0, 0, 2]) (pos / 16)))
  | _ => []

/-- Whether every input byte has been processed. -/
def cryDone (j : CryJob) : Bool :=
  j.aad.length = j.cfg.aadlen.toNat && j.inp.length = j.cfg.len.toNat

/-- The bytes of the next block, when it is in the input FIFO and its output has room (R327), with the words it takes. -/
def cryReady (k : CryCtx) : Option (CryJob × Bool × List Byte × Nat) :=
  match k.job with
  | none => none
  | some j =>
    if k.waitLeave || cryDone j then none
    else
      let c := j.cfg
      let inAad : Bool := decide (j.aad.length < c.aadlen.toNat)
      let left := if inAad then c.aadlen.toNat - j.aad.length else c.len.toNat - j.inp.length
      let n := min left (if isAes c then 16 else 64)
      let w := (n + 3) / 4
      if k.din.length < w || (isAes c && !inAad && decide (16 < k.dout.length + w)) then none
      else some (j, inAad, (wordsLe (k.din.take w)).take n, w)

/-- The datapath takes one block of a context. -/
def cryAdvance (s : State) (x : Bool) : State :=
  match cryReady (cctx s x) with
  | none => s
  | some (j, inAad, blk, w) =>
    updCtx s x fun k =>
      if inAad then { k with din := k.din.drop w, job := some { j with aad := j.aad ++ blk } }
      else
        let o := cryBlock j blk
        { k with din := k.din.drop w, job := some { j with inp := j.inp ++ blk, out := j.out ++ o }, dout := k.dout ++ asWords o }

/-- Who made an access that its target holds. -/
def heldWho (b : Blocked) : Who := ⟨b.port, b.secure, true⟩

/-- Writes that wait for room in DIN and reads that wait for a word of DOUT go on, oldest first. One whose maker no longer owns the job, which
has ended, answers PERMISSION (R325, log entry 59). -/
def crySettle : Nat → State → State
  | 0, s => s
  | fuel + 1, s =>
    let lost (b : Blocked) (x : Bool) : Bool := !cryMay s (heldWho b) (cryOwner s x)
    match s.fab.blocked.find? fun b => match b.kind with
      | .cryDin x _ => lost b x || decide ((cctx s x).din.length < 16)
      | .cryDout x => lost b x || !(cctx s x).dout.isEmpty
      | _ => false with
    | none => s
    | some b =>
      let refused : State := failBlocked (memFail s (heldWho b) 3 b.addr.toNat 0) b 3 b.addr
      if (match b.kind with | .cryDin x _ => lost b x | .cryDout x => lost b x | _ => false) then crySettle fuel refused
      else match b.kind with
      | .cryDin x v => crySettle fuel (completeBlocked (cryFeed s x v).1 b 0)
      | .cryDout x =>
        let v := (cctx s x).dout.headD 0
        crySettle fuel (completeBlocked (updCtx s x fun k => { k with dout := k.dout.drop 1 }) b v)
      | _ => s

/-- A tick of the engine: one block, context P's first (R323), and whoever waited for it. -/
def cryTick (s : State) : State :=
  let s := cryAdvance s (cryReady s.cry.p).isSome
  crySettle (s.fab.blocked.length + 1) s

/-- The digest registers from bytes. -/
def digestOf (bs : List Byte) : Vector Word 8 := Vector.ofFn fun i : Fin 8 => natW (argN bs (4 * i.val) 4)

/-- The natural end of a job: every input byte processed and DOUT emptied (R328, R329). -/
def cryComplete (s : State) (x : Bool) : State :=
  let k := cctx s x
  match k.job with
  | none => s
  | some j =>
    if k.waitLeave || !cryDone j || !k.dout.isEmpty then s
    else
      let c := j.cfg
      let dig (bs : List Byte) : State := updCtx s x fun k => { k with digest := digestOf bs }
      match c.alg.toNat with
      | 0 => cryEnd (dig (sha256 j.inp)) x 1
      | 1 => cryEnd (dig (hmac j.key j.inp)) x 1
      | 5 =>
        let iv := (cryIv c).take 12
        if c.dir then cryEnd s x (if gcmTag j.key iv j.aad j.inp = wordsLe c.tag.toList then 1 else 4)
        else cryEnd (dig (gcmTag j.key iv j.aad j.out)) x 1
      | 6 =>
        let ok := ecdsaVerify (j.inp.take 32) ((j.inp.drop 32).take 64) (j.inp.drop 96)
        cryEnd s x (if ok then 2 else 3)
      | _ => cryEnd s x 1

/-- A core stops being trusted or goes dark: its job ends (R329, R345). -/
def cryDropOwner (s : State) (m : Master) (result : BitVec 4) : State :=
  if cryOwner s false = some m then cryEnd s false result else s

def keyFree (k : KeySlot) : KeySlot := { k with held := false, purpose := 0, owner := 0, key := [] }

def keyDropOwner (s : State) (c : Core) : State :=
  { s with key := { s.key with slots := s.key.slots.map fun k => if k.held && k.owner = c then keyFree k else k } }

def keyDropAll (s : State) : State := { s with key := { s.key with slots := s.key.slots.map keyFree } }

/-! ### Entropy -/

/-- One tick of the source (R322): the start-up test runs, then a word of 32 bits every 32 µs fills the reserve. -/
def entropyTick (s : State) : State :=
  let k := s.key
  if k.stopped then s
  else
    let k := { k with since := k.since + 1 }
    let k :=
      if 0 < k.testing then { k with testing := k.testing - 1 }
      else if 64 ≤ k.reserve then { k with fill := 768 }
      else if 1 < k.fill then { k with fill := k.fill - 1 }
      else { k with fill := 768, reserve := k.reserve + 1 }
    { s with key := k }

/-- A health test fails (R322). 2^20 samples at 1,024 in 50 µs are 1,228,800 ticks. -/
def entropyFail (s : State) : State :=
  let k := s.key
  if k.stopped then s
  else
    let n := if k.fails ≠ 0 ∧ k.since < 1228800 then k.fails + 1 else 1
    let k := { k with reserve := 0, testing := 1200, fill := 768, fails := n, since := 0, stopped := decide (3 ≤ n) }
    let s := { s with key := k }
    if k.stopped then ecBuild s 0x0B 1 15 true 0 0 0 else s

/-- Whether an AUTH_CHALLENGE waits for the reserve: Elvuk takes from it ahead of the readers (R322). -/
def nonceWaits (s : State) : Bool :=
  s.elv.jobs.any (fun j => j.code = 0x0501) || (match s.dbg.pend with | some x => x.code = 0x0501 | none => false)

/-- A read of CRY_RNG (R322): fresh random bits, a free value, while the reserve has any. -/
def rngRead (s : State) : State × Word :=
  if s.key.stopped || 0 < s.key.testing || s.key.reserve = 0 || nonceWaits s then (s, 0)
  else ({ s with key := { s.key with reserve := s.key.reserve - 1, draws := s.key.draws + 1 } },
    natW (2 ^ 31 + (Config.rngBits s.key.draws).toNat))

/-! ### Registers -/

/-- CRY accesses of stage cores and of DMA and debug (R16) wait for the Curtain (R263, R264). -/
def cryClosed (s : State) (w : Who) : Bool := !curtainOpen s && w.p.m.val ≠ 8

/-- The context and the offset within it, none where the master may not reach it (R323). -/
def cryWhere (w : Who) (off : Nat) : Option (Bool × Nat) :=
  if 0x800 ≤ off ∧ off < 0x900 then (if w.p.m.val = 8 then some (true, off - 0x800) else none) else some (false, off)

/-- A read of a register of a context. -/
def cryCtxRead (s : State) (x : Bool) (w : Who) (off : Nat) : RegRead :=
  let m := w.p.m
  let k := cctx s x
  let c := k.cfg[m]
  if off = 0x000 then .ok s (natW (c.cls.toNat * 256 + c.ksrc.toNat * 64 + boolN c.ksize 5 + boolN c.dir 4 + c.alg.toNat))
  else if off = 0x004 then .ok s (c.handle.setWidth 32)
  else if off = 0x008 then .ok s (c.len.setWidth 32)
  else if off = 0x00C then .ok s (c.aadlen.setWidth 32)
  else if off = 0x050 then .ok s (c.queue.setWidth 32)
  else if off = 0x054 then .ok s 0
  else if off = 0x060 then (if cryMay s w (cryOwner s x) then .ok s 0 else .bad 3)
  else if off = 0x058 then .ok s (c.sstat.setWidth 32)
  else if off = 0x064 then
    if !cryMay s w (cryOwner s x) then .bad 3
    else match k.dout with
      | [] => .wait s (.cryDout x)
      | v :: r => .ok (updCtx s x fun k => { k with dout := r }) v
  else if off = 0x068 then
    .ok s (natW (boolN k.job.isSome 31 + boolN k.waitLeave 30 + boolN k.overfeed 29 + k.owner.toNat * 2 ^ 24 +
      k.result.toNat * 2 ^ 20))
  else if off = 0x06C then .ok (updCtx s x fun k => { k with status := k.status.read m }) k.status.val
  else if off = 0x070 then .ok s (match k.job with | some j => natW (j.aad.length + j.inp.length) | none => k.count)
  else if off = 0x074 then .ok s k.lwait
  else match inst off 0x010 4 4 with
    | some i => .ok s c.iv[i]
    | none =>
      match inst off 0x040 4 4 with
      | some i => .ok s c.tag[i]
      | none =>
        match inst off 0x080 4 8 with
        | some i => if cryMay s w k.digestOwner then .ok s k.digest[i] else .bad 3
        | none => if (inst off 0x020 4 8).isSome then .ok s 0 else .bad 1

def cryRead (s : State) (w : Who) (off : Nat) : RegRead :=
  if off = 0x700 then let r := rngRead s; .ok r.1 r.2
  else if off = 0x704 then .ok s (natW (boolN s.key.stopped 1 + boolN (!s.key.stopped && decide (0 < s.key.testing)) 0))
  else match cryWhere w off with
    | none => .bad 3
    | some (x, o) => cryCtxRead s x w o

def cryCfgWrite (s : State) (x : Bool) (m : Master) (v : Word) : State :=
  let addr : Word := if x then 0x40200800 else 0x40200000
  let cls := bitsOf v 8 2
  let src := bitsOf v 6 2
  let alg := bitsOf v 0 4
  let s := if cls < 2 then rsvdEnc s m addr else updCfg s x m fun k => { k with cls := BitVec.ofNat 2 cls }
  let s := if 2 ≤ src then rsvdEnc s m addr else updCfg s x m fun k => { k with ksrc := BitVec.ofNat 2 src }
  let s := if 7 ≤ alg then rsvdEnc s m addr else updCfg s x m fun k => { k with alg := BitVec.ofNat 4 alg }
  updCfg s x m fun k => { k with ksize := v.getLsbD 5, dir := v.getLsbD 4 }

/-- A write of a register of a context. -/
def cryCtxWrite (s : State) (x : Bool) (w : Who) (off : Nat) (v : Word) : RegWrite :=
  let m := w.p.m
  let set (f : CryCfg → CryCfg) : RegWrite := .ok (updCfg s x m f)
  if off = 0x000 then .ok (cryCfgWrite s x m v)
  else if off = 0x004 then set fun k => { k with handle := v.setWidth 16 }
  else if off = 0x008 then set fun k => { k with len := v.setWidth 24 }
  else if off = 0x00C then set fun k => { k with aadlen := v.setWidth 16 }
  else if off = 0x050 then set fun k => { k with queue := v.setWidth 16 }
  else if off = 0x054 then
    let s := if v.getLsbD 1 then cryAbort s x m else s
    .ok (if v.getLsbD 0 then cryStartJob s x w else s)
  else if off = 0x060 then
    if !cryMay s w (cryOwner s x) then .bad 3
    else
      let p := cryFeed s x v
      if p.2 then .ok p.1 else .wait s (.cryDin x v)
  else if off = 0x06C then .ok (updCtx s x fun k => { k with status := k.status.clear m v })
  else if off = 0x064 then (if cryMay s w (cryOwner s x) then .ok s else .bad 3)
  else if off = 0x058 ∨ off = 0x068 ∨ off = 0x070 ∨ off = 0x074 then .ok s
  else match inst off 0x010 4 4 with
    | some i => set fun k => { k with iv := putV k.iv i v }
    | none =>
      match inst off 0x020 4 8 with
      | some i => set fun k => { k with key := putV k.key i v }
      | none =>
        match inst off 0x040 4 4 with
        | some i => set fun k => { k with tag := putV k.tag i v }
        | none =>
          if (inst off 0x080 4 8).isSome then (if cryMay s w (cctx s x).digestOwner then .ok s else .bad 3) else .bad 1

def cryWrite (s : State) (w : Who) (off : Nat) (v : Word) : RegWrite :=
  if off = 0x700 ∨ off = 0x704 then .ok s
  else match cryWhere w off with
    | none => .bad 3
    | some (x, o) => cryCtxWrite s x w o v

end Sys2Proof.Machine
end

