-- ==== Sys2Proof/Machine/LaneOps.lean ====
section
/-!
DEFINITION. The lanes and the stat port (19_lanes_stat.md): the configuration writes, samples and regulation, captures,
frame events, the sequencer, the stat packets, and their registers.
-/

namespace Sys2Proof.Machine

/-- A group with no lane out of OFF gives its leave back (R389). -/
def laneGroupFree (s : State) (n : Fin 24) : State :=
  let r := laneGroup n
  if (List.finRange 24).all fun m => laneGroup m ≠ r || s.lane[m].st = 0 then leaveRelease s r else s

/-- A lane goes OFF. -/
def laneOff (s : State) (n : Fin 24) : State :=
  laneGroupFree (updLane s n fun l =>
    { l with mode := 0, st := 0, seqrun := false, swait := none, low := false, high := 0, pdmOut := false, asked := false, clrPend := false }) n

/-- OUTSEL and SPD of a LANE_CFG write (R389): the values they take, and whether the write is a reserved one. -/
def laneSpdFields (s : State) (n : Fin 24) (v : Word) : BitVec 4 × Bool × Bool :=
  let l := s.lane[n]
  let want := bitsOf v 16 4
  let taken := (List.finRange 24).any fun m => m ≠ n && lanePresent s m && s.lane[m].spd.toNat = want
  let bad := decide (spdCount s.variant < want) || (want ≠ 0 && taken)
  let spd : BitVec 4 := if bad then l.spd else BitVec.ofNat 4 want
  let out := v.getLsbD 25
  if (l.mode ≠ 0 && (spd ≠ l.spd || out ≠ l.outsel)) || (out && spd = 0) then (l.spd, l.outsel, true)
  else (spd, out, bad)

/-- A write of LANE_CFG(n) (R389). -/
def laneCfgWrite (s : State) (m : Master) (n : Fin 24) (v : Word) : State :=
  let addr : Word := natW (0x40100000 + 0x400 * n.val)
  let f := laneSpdFields s n v
  let s := if f.2.2 then rsvdEnc s m addr else s
  let want := bitsOf v 0 3
  let s := if 6 ≤ want then rsvdEnc s m addr else s
  let old := s.lane[n]
  let mode : BitVec 3 := if 6 ≤ want then old.mode else BitVec.ofNat 3 want
  let s := updLane s n fun l => { l with
    fsync := v.getLsbD 31, seqen := v.getLsbD 30, log := v.getLsbD 29, sense := v.getLsbD 28
    capedge := BitVec.ofNat 2 (bitsOf v 26 2), outsel := f.2.1, spd := f.1, mode := mode
    seqrun := l.seqrun && v.getLsbD 30 }
  if mode = old.mode || old.st = 3 then s
  else if mode = 0 then laneOff s n
  else if old.mode = 0 then laneAsk s n false
  else if old.st = 2 then
    updLane s n fun l => laneSeqStart { l with low := true, high := 0, pdmOut := false, integ := 0, out := laneClamp l 0 }
  else s

/-- LANE_CTRL.SAFE (R399). -/
def laneSafeWrite (s : State) (n : Fin 24) : State := if s.lane[n].st = 3 then s else laneSafe s n 0

/-- LANE_CTRL.CLRSAFE (R399). -/
def laneClrWrite (s : State) (n : Fin 24) : State :=
  if s.lane[n].st = 3 then updLane s n fun l => { l with clrPend := true } else s

/-- LANE_CTRL.SEQRESTART (R400). -/
def laneSeqWrite (s : State) (n : Fin 24) : State :=
  if s.lane[n].st = 2 && s.lane[n].seqen then updLane s n laneSeqStart else s

/-- A live output value set (R393). -/
def laneSetDuty (l : Lane) (v : Nat) : Lane := { l with duty := v }

/-- A firmware write of LANE_DUTY (R393). -/
def laneDutyWrite (s : State) (n : Fin 24) (v : Word) : State :=
  let d := bitsOf v 0 20
  updLane s n fun l => if laneRegulated l then l else { l with duty := d, setDuty := d }

/-- A write of LANE_TGT_NEXT with the arbiter's side (R404): LATE = 1 only in the tick of a frame event that came before it. -/
def laneNextWrite (s : State) (n : Fin 24) (v : Word) (late : Bool) : State :=
  let late := late && s.laneBlk.lastFrame = some s.now
  let s := updLane s n fun l => { l with tgtNext := bitsOf v 0 20 }
  let bit : BitVec 24 := BitVec.ofNat 24 (2 ^ n.val)
  { s with laneBlk := { s.laneBlk with late := if late then s.laneBlk.late ||| bit else s.laneBlk.late &&& ~~~bit, lastNext := some s.now } }

/-- The duty that a new target or factor gives a lane whose output follows it (R393); later factors apply to the same value. -/
def laneFollow (l : Lane) (base : Nat) : Lane :=
  if l.mode = 1 || l.mode = 2 || l.mode = 4 then { l with duty := laneEff l base, setDuty := base } else l

/-- A write of LANE_SCALE(n): the factor is F0 as long as no LEVEL has run (R390); one that LEVEL took stays. -/
def laneScaleWrite (l : Lane) (v : Word) : Lane :=
  let l := { l with scale := v }
  if l.leveled then l else { l with factor := laneFactor l 0, lastF := if laneFactor l 0 ≠ 0 then laneFactor l 0 else l.lastF }

/-! ### Samples -/

/-- A skipped sample (R394, R397). -/
def laneSkip (s : State) (n : Fin 24) : State :=
  let s := updLane s n fun l => { l with evt := l.evt.raise 3, skipN := l.skipN + 1 }
  if s.lane[n].nfault ≤ s.lane[n].skipN then laneFault s n 6 else s

def laneAdc (n : Fin 24) : Fin 4 := ⟨n.val / 6, by omega⟩

/-- Whether the converter has a request of the lane, or its result is on its way. -/
def laneHeldReq (s : State) (n : Fin 24) : Bool :=
  let k := s.adc[laneAdc n]
  k.reqs.contains n || k.conv = some (.lane n) || s.lane[n].inbox.isSome

/-- A sample falls due (R394): the converter is asked, or the sample is skipped. -/
def laneSampleDue (s : State) (n : Fin 24) : State :=
  let l := s.lane[n]
  if l.st ≠ 2 || l.low || !(l.mode = 3 || l.sense) then s
  else
    let a := laneAdc n
    let late := l.asked
    let s := if late || s.adc[a].calib || !anaUp s then laneSkip s n else s
    if s.lane[n].st ≠ 2 then s
    else if s.adc[a].calib || !anaUp s then updLane s n fun l => { l with asked := false }
    else if late && laneHeldReq s n then s
    else
      let s := updLane s n fun l => { l with asked := true }
      if s.adc[a].en then adcNext (updAdc s a fun k => { k with reqs := k.reqs ++ [n] }) a else s

/-- The log records that wait are written in their order, as far as they are admitted; one answered other than OK is dropped (R407). -/
def lanePump : Nat → State → State
  | 0, s => s
  | fuel + 1, s =>
    match s.laneBlk.buf with
    | [] => s
    | r :: rest =>
      let t := bwrTake s 11 16
      if !t.2 then t.1
      else
        let b := t.1.laneBlk
        let size := 2 ^ b.logk
        let i := b.logptr % size
        let s := (unitWrite t.1 (unitWho 11) (b.logbase.toNat + 16 * i) (asWords r)).1
        lanePump fuel { s with laneBlk := { s.laneBlk with logptr := (i + 1) % size, buf := rest } }

/-- A record of the sample log (R407): dropped when the lane engine's write buffer of 32 is full (R158). -/
def laneLog (s : State) (n : Fin 24) : State :=
  let b := s.laneBlk
  if 32 ≤ urgFill s 11 then { s with laneBlk := { b with logdrop := b.logdrop + 1 } }
  else
    let s := { s with laneBlk := { b with buf := b.buf ++ [laneRecord s n 0 s.lane[n].senseV.toNat] } }
    lanePump s.laneBlk.buf.length s

/-- The regulator runs once with an error (R395); division truncates toward zero. -/
def laneRegulate (l : Lane) (e : Int) : Lane :=
  let i := laneClamp l (l.integ + ((l.ki : Int) * e).tdiv 256)
  { l with integ := i, out := laneClamp l (i + ((l.kp : Int) * e).tdiv 16) }

/-- A sense result reaches its lane (R394, R395, R397, R407). -/
def laneSample (s : State) (n : Fin 24) : State :=
  match s.lane[n].inbox with
  | none => s
  | some code =>
    let c := code.toNat
    let s := updLane s n fun l => { l with inbox := none, asked := false }
    if s.lane[n].st ≠ 2 then s
    else
      let s := updLane s n fun l => { l with senseV := code, skipN := 0 }
      let l := s.lane[n]
      let hit : Bool := c < l.smin && l.out = 16 * (l.outmax : Int)
      let ovr := if l.smax < c then l.overN + 1 else 0
      let under := if l.mode = 3 && l.factor ≠ 0 then (if hit then l.underN + 1 else 0) else l.underN
      let s := updLane s n fun l => { l with overN := ovr, underN := under }
      let s := if l.mode = 3 && l.factor ≠ 0 then
          updLane s n fun l => laneRegulate l ((laneEff l l.tgt : Int) - 256 * c) else s
      let s := if l.log then laneLog s n else s
      if l.nfault ≤ ovr then laneFault s n 1
      else if l.mode = 3 && decide (l.nfault ≤ under) then laneFault s n 2
      else s

/-! ### Captures and frames -/

/-- One judgement of a SYNC frame (R396). -/
def laneJudge (s : State) (n : Fin 24) (ok : Bool) : State :=
  let l := s.lane[n]
  if ok then
    let s := updLane s n fun l => { l with inN := l.inN + 1, outN := 0 }
    if !l.locked && decide (8 ≤ l.inN + 1) then
      lanePost (updLane s n fun l => { l with locked := true, evt := l.evt.raise 2 }) n 3 0
    else s
  else if l.locked then
    let s := updLane s n fun l => { l with inN := 0, outN := l.outN + 1 }
    if l.nfault ≤ l.outN + 1 then laneFault (updLane s n fun l => { l with locked := false }) n 4 else s
  else updLane s n fun l => { l with inN := 0 }

/-- Whether an edge is one that CAPEDGE selects (R396). -/
def edgeSelected (sel : BitVec 2) (rising : Bool) : Bool := if rising then sel.getLsbD 0 else sel.getLsbD 1

/-- A capture edge (R396). -/
def laneCaptureEdge (s : State) (n : Fin 24) (rising : Bool) : State :=
  let l := s.lane[n]
  if !edgeSelected l.capedge rising then s
  else
    let s := updLane s n fun l => { l with capt := lanePhase s l, edge := s.now }
    -- lanes whose sequencers wait for this lane's capture edge go on (R400)
    let s := { s with lane := s.lane.map fun k => if k.swait = some (.cap n) then { k with swait := some (.lclk 0) } else k }
    match l.frame with
    | some t =>
      if l.st = 2 && l.mode = 5 && !l.edgeSeen then
        let s := updLane s n fun l => { l with edgeSeen := true }
        let e : Int := (((s.now - t) / 4 : Nat) : Int) - ((l.tgt % 65536 : Nat) : Int)
        let s := laneJudge s n (decide (e.natAbs ≤ l.lockwin))
        if s.lane[n].st = 2 && s.lane[n].factor ≠ 0 then updLane s n fun l => laneRegulate l e else s
      else s
    | none => s

/-- No edge for TACHTO × 65,536 LCLK periods, which are 8,192 ticks each (R396). -/
def laneStall (s : State) (n : Fin 24) : State :=
  let l := s.lane[n]
  if l.st = 2 && (l.mode = 4 || l.mode = 5) && l.tachto ≠ 0 && laneDutyVal l ≠ 0 &&
      decide (max l.edge l.runAt + l.tachto * 8192 ≤ s.now) then laneFault s n 3 else s

/-- What a frame event does to one lane (R350, R396, R399, R403). -/
def laneFrameOne (s : State) (n : Fin 24) : State :=
  if !lanePresent s n then s
  else
    let s := updLane s n fun l =>
      let l := { l with tgt := l.tgtNext }
      if l.fsync then laneFollow l l.tgt else l
    let l := s.lane[n]
    let s := if l.st = 2 && l.mode = 5 && l.frame.isSome && !l.edgeSeen then laneJudge s n false else s
    let l := s.lane[n]
    let s :=
      if l.st = 3 && l.clrPend then
        (if l.mode = 0 then laneOff s n else laneAsk (updLane s n fun l => { l with clrPend := false }) n false)
      else if l.st = 4 && curtainOpen s then laneAsk s n true
      else s
    updLane s n fun l => { l with frame := some s.now, edgeSeen := false
                                  swait := if l.swait = some .frame then some (.lclk 0) else l.swait }

/-- The stamp of a frame event (R37): its tick, or the next one when a write of a target was placed before it in its tick, or when an earlier
frame event of that tick carries that stamp. -/
def frameStamp (s : State) : Word :=
  let b := s.laneBlk
  if b.lastNext = some s.now ∨ (b.lastFrame = some s.now ∧ b.fstamp = s.tb.setWidth 32 + 1) then s.tb.setWidth 32 + 1 else s.tb.setWidth 32

/-- A frame event (R402, R403, R418). LCLK stands still in NAP. -/
def laneFrameEvent (s : State) : State :=
  if !lanesUp s || s.pwr.mode ≠ .run then s
  else
    let s := { s with laneBlk := { s.laneBlk with
      fcount := s.laneBlk.fcount + 1, fstamp := frameStamp s, lastFrame := some s.now } }
    let s := (List.finRange 24).foldl laneFrameOne s
    adcTrigger s fun k => k.trig = 1

/-- Every lane that a closed Curtain holds starts with its opening (R266). -/
def laneOpening (s : State) : State :=
  (List.finRange 24).foldl (fun s n =>
    if lanePresent s n && s.lane[n].st = 4 then laneAsk s n false else s) s

/-! ### The sequencer -/

/-- Whether a sequencer wait is over (R400). -/
def seqOver (s : State) (w : SeqWait) : Bool :=
  match w with
  | .lclk t => decide (t ≤ 8 * s.now)
  | .frame => false
  | .cap _ => false
  | .phase m p => decide (p ≤ lanePhase s s.lane[m])

/-- The slot that a sequencer fetches next: the one after a wait that is over. -/
def seqSlot (l : Lane) : Fin 16 := if l.swait.isSome then l.slot + 1 else l.slot

/-- Whether lane n's sequencer executes the word at its next slot now, and that word is `w` (R400). -/
def seqAt (s : State) (n : Fin 24) (w : Word) : Bool :=
  let l := s.lane[n]
  l.st = 2 && curtainOpen s && s.pwr.mode = .run && l.seqrun && (match l.swait with | some x => seqOver s x | none => true) &&
    l.prog[seqSlot l] = w

/-- The sequencer goes on at a slot. -/
def seqGo (s : State) (n : Fin 24) (slot : Fin 16) : State := updLane s n fun l => { l with slot := slot, swait := none }

def seqNext (s : State) (n : Fin 24) : State := seqGo s n (seqSlot s.lane[n] + 1)

/-- The sequencer waits at the slot it has fetched. -/
def seqHold (s : State) (n : Fin 24) (w : SeqWait) : State := updLane s n fun l => { l with slot := seqSlot l, swait := some w }

/-- A lane number that a sequencer word may name (R400). -/
def seqLane (s : State) (m : Nat) : Option (Fin 24) := if h : m < 24 then (if lanePresent s ⟨m, h⟩ then some ⟨m, h⟩ else none) else none

/-- Whether a sequencer word is undefined or malformed (R400). -/
def seqBad (s : State) (w : Word) : Bool :=
  let op := bitsOf w 28 4
  let rest := bitsOf w 0 28
  if op = 0 ∨ op = 3 then rest ≠ 0
  else if op = 1 then decide (4 ≤ rest)
  else if op = 2 then decide (2 ^ 24 ≤ rest) || rest = 0
  else if op = 4 then decide (32 ≤ rest) || (seqLane s rest).isNone
  else if op = 5 then decide (2 ^ 21 ≤ rest) || (seqLane s (rest / 65536)).isNone
  else if op = 6 then decide (16 ≤ rest)
  else if op = 7 then decide (2 ^ 12 ≤ rest) || rest / 16 = 0
  else if op = 8 then decide (256 ≤ rest)
  else true

/-- LEVEL (R390, R393, R395): the factor, the duty that follows it, the rescaled integrator, whose value is the output until the
next sample. -/
def laneLevel (l : Lane) (k : BitVec 2) : Lane :=
  let fb := laneFactor l k
  let fa := if l.factor = 0 then l.lastF else l.factor
  let i := (l.integ * (fb : Int)).tdiv (fa : Int)
  let l := if l.mode = 3 && l.rescale && fb ≠ 0 && fa ≠ 0 && fb ≠ fa then { l with integ := i, out := laneClamp l i } else l
  let l := { l with factor := fb, leveled := true, lastF := if fb ≠ 0 then fb else fa }
  laneFollow l (if l.fsync then l.tgt else l.setDuty)

/-- LOOPN (R400). -/
def seqLoop (s : State) (n : Fin 24) (c : Nat) (slot : Fin 16) : State :=
  let l := s.lane[n]
  if l.loopc = 0 then seqGo (updLane s n fun l => { l with loopc := c }) n slot
  else
    let s := updLane s n fun l => { l with loopc := l.loopc - 1 }
    if l.loopc - 1 = 0 then seqNext s n else seqGo s n slot

/-- The next PWM period starts (R391). -/
def lanePeriod (s : State) (n : Fin 24) : State :=
  if s.lane[n].st ≠ 2 || s.pwr.mode ≠ .run then s
  else updLane s n fun l =>
    let l := { l with k := l.k + 1, low := false }
    { l with high := laneHigh l }

/-- One LCLK period of a PDM lane (R392). -/
def pdmStep (l : Lane) : Lane :=
  let a := l.pdmAcc + l.duty
  { l with pdmAcc := a % 2 ^ 20, pdmOut := decide (2 ^ 20 ≤ a) }

/-- One tick, 8 LCLK periods, of the PDM lanes. -/
def laneTick (s : State) : State :=
  if s.pwr.mode ≠ .run then s
  else { s with lane := s.lane.map fun l =>
    if l.st = 2 && l.mode = 2 && !l.low then
      (if l.factor = 0 then { l with pdmOut := false } else (List.range 8).foldl (fun l _ => pdmStep l) l)
    else l }

/-! ### The stat port -/

def statAddr (s : State) (slot : Nat) : Nat := s.stat.rbase.toNat + slot * s.stat.slot64 * 64

/-- A packet's SEQ against the expected one (R408). -/
def statSeq (s : State) (seq : Byte) : State :=
  let k := s.stat
  let gap : Bool := match k.seqExp with | some e => decide (e ≠ seq) | none => false
  { s with stat := { k with seqExp := some (seq + 1), flags := if gap then k.flags ||| 2 else k.flags } }

/-- A flag of the frame in reception (R408, R410), and one of the frame that is being written (R409, R410). -/
def statFlag (s : State) (b : BitVec 5) : State := { s with stat := { s.stat with flags := s.stat.flags ||| b } }
def statWFlag (s : State) (b : BitVec 5) : State := { s with stat := { s.stat with wflags := s.stat.wflags ||| b } }

/-- Whether the port takes packets: its block present and up, leave granted, not in NAP (R349, R411). -/
def statTakes (s : State) : Bool := s.stat.active && s.stat.en && statUp s && s.pwr.mode = .run

/-- Writes of the ingest unit in transactions of at most 32 bytes, as far as they are admitted: the bytes still to come, and whether one
was answered other than OK (R152, R410). -/
def statWrite : Nat → State → Nat → List Byte → State × List Byte × Bool
  | 0, s, _, bs => (s, bs, false)
  | fuel + 1, s, a, bs =>
    if bs.isEmpty then (s, [], false)
    else
      let t := bwrTake s 12 (min 32 bs.length)
      if !t.2 then (t.1, bs, false)
      else
        let p := unitWrite t.1 (unitWho 12) a (asWords (bs.take 32))
        if p.2 ≠ 0 then (p.1, bs, true) else statWrite fuel p.1 (a + 32) (bs.drop 32)

/-- The slot header of frame number `frame` (R409). -/
def statHeader (frame : Word) (n : Nat) (flags : BitVec 5) : List Byte := [frame, natW n, natW flags.toNat, 0].flatMap fun w => leBytes 4 w.toNat

/-- The first DATA packet of a frame opens its slot (R409 step 1). -/
def statOpen (s : State) : State × Bool :=
  if s.stat.begun then (s, true)
  else
    let p := statWrite 1 s (statAddr s s.stat.slot) (statHeader 0xFFFFFFFF 0 0)
    if p.2.2 || p.2.1.isEmpty then ({ p.1 with stat := { p.1.stat with begun := true, bytes := 0 } }, true) else (p.1, false)

/-- The oldest packet of the input buffer goes on (R409, R410): the state, and whether the packet is done. Data beyond the slot's end, and data
after a failed write, is discarded. -/
def statData (s : State) (bs : List Byte) : State × Bool :=
  let o := statOpen s
  if !o.2 then o
  else
    let s := o.1
    let room := s.stat.slot64 * 64 - 16 - s.stat.bytes
    let s := if room < bs.length then statWFlag s 8 else s
    if s.stat.wflags.getLsbD 4 then (s, true)
    else
      let bs := bs.take room
      let p := statWrite (bs.length / 32 + 1) s (statAddr s s.stat.slot + 16 + s.stat.bytes) bs
      let s := { p.1 with stat := { p.1.stat with bytes := p.1.stat.bytes + (bs.length - p.2.1.length) } }
      if p.2.2 then (statWFlag s 16, true)
      else if p.2.1.isEmpty then (s, true)
      else ({ s with stat := { s.stat with queue := .data p.2.1 :: s.stat.queue.tail } }, false)

/-- A MARK ends its frame: the header, the message, the next slot (R409 steps 3 and 4). -/
def statMark (s : State) (frame tb : Word) (flags : BitVec 5) : State × Bool :=
  let k := s.stat
  let a := statAddr s k.slot
  let n := if k.begun then k.bytes else 0
  let all := flags ||| k.wflags
  let p := statWrite 1 s a (statHeader frame n all)
  if !p.2.2 && !p.2.1.isEmpty then (p.1, false)
  else
    let s := { p.1 with stat := { p.1.stat with slot := (k.slot + 1) % k.nslot, begun := false, bytes := 0, wflags := 0
                                                frames := k.frames + 1, evt := k.evt.raise 0 } }
    (hwFixed s .stat 0 ([natB k.slot, natB all.toNat, 0, 0] ++ leBytes 4 frame.toNat ++ leBytes 4 n ++ leBytes 4 a ++ leBytes 4 tb.toNat), true)

/-- The ingest writes what its buffer holds, as far as the fabric admits it. -/
def statPump : Nat → State → State
  | 0, s => s
  | fuel + 1, s =>
    match s.stat.queue with
    | [] => s
    | i :: _ =>
      let p := match i with
        | .data bs => statData s bs
        | .mark f tb fl => statMark s f tb fl
        | .restart => ({ s with stat := { s.stat with slot := 0, begun := false, bytes := 0, wflags := 0 } }, true)
      if p.2 then statPump fuel { p.1 with stat := { p.1.stat with queue := p.1.stat.queue.tail } } else p.1

def StatItem.size : StatItem → Nat
  | .data bs => bs.length
  | .mark .. => 4
  | .restart => 0

/-- A packet discarded under R408. -/
def statBad (s : State) : State :=
  if !statTakes s then s
  else { s with stat := { s.stat with errCrc := s.stat.errCrc + 1, flags := s.stat.flags ||| 1, evt := s.stat.evt.raise 1 } }

/-- A packet discarded under R410. -/
def statOver (s : State) : State :=
  if !statTakes s then s
  else { s with stat := { s.stat with errOvr := s.stat.errOvr + 1, flags := s.stat.flags ||| 4, evt := s.stat.evt.raise 2 } }

/-- Whether the input buffer of 1 KiB has room for a packet (R410). -/
def statRoom (s : State) (i : StatItem) : Bool := decide ((s.stat.queue.map (·.size)).sum + i.size ≤ 1024)

/-- A packet enters the input buffer (R410). -/
def statTake (s : State) (seq : Byte) (i : StatItem) : State :=
  let s := statSeq s seq
  let i := match i with | .mark f tb _ => .mark f tb s.stat.flags | x => x
  let s := { s with stat := { s.stat with queue := s.stat.queue ++ [i], flags := match i with | .mark .. => 0 | _ => s.stat.flags } }
  statPump s.stat.queue.length s

/-- A DATA packet with a right CRC (R408, R409): one whose LEN breaks the rule is discarded. -/
def statDataIn (s : State) (seq : Byte) (payload : List Byte) : State :=
  if !statTakes s then s
  else if payload.length < 4 || 512 < payload.length || payload.length % 4 ≠ 0 then statBad s
  else if statRoom s (.data payload) then statTake s seq (.data payload)
  else statOver s

/-- An intact MARK packet (R408, R409), which is also a frame event where LANE_FSRC selects it (R402). -/
def statMarkIn (s : State) (seq : Byte) (frame : Word) : State :=
  if !statTakes s then s
  else
    let i : StatItem := .mark frame (s.tb.setWidth 32) 0
    if !statRoom s i then statOver s
    else
      let s := statTake s seq i
      if s.laneBlk.fsrc = 2 then laneFrameEvent s else s

/-- The items of the buffer up to its last MARK: what EN = 0 leaves to be written (R411). -/
def statMarked (q : List StatItem) : List StatItem :=
  (q.reverse.dropWhile fun i => match i with | .data _ => true | _ => false).reverse

/-- The port's ingest starts (R411): with slot 0, behind the marked frames that an earlier EN = 0 has left to be written. -/
def statStart (k : Stat) : Stat :=
  if k.queue.isEmpty then { k with en := true, slot := 0, begun := false, bytes := 0, flags := 0, wflags := 0, seqExp := none }
  else { k with en := true, queue := k.queue ++ [.restart], flags := 0, seqExp := none }

/-- The port's ingest stops (R411): the packet in progress and the frame not yet marked are discarded. -/
def statStop (k : Stat) : Stat :=
  let q := statMarked k.queue
  let k := { k with en := false, active := false, leaveWait := false, flags := 0, queue := q }
  if q.isEmpty then { k with begun := false, bytes := 0, wflags := 0 } else k

/-- A write of STAT_CTRL (R411). -/
def statCtrlWrite (s : State) (v : Word) : State :=
  let on := v.getLsbD 31
  if on = s.stat.en then s
  else if on then
    let s := { s with stat := statStart s.stat }
    let p := lvRequest s 32 8 2
    match p.2 with
    | .granted => { p.1 with stat := { p.1.stat with active := true } }
    | .waiting => { p.1 with stat := { p.1.stat with leaveWait := true } }
    | .refused => { p.1 with stat := { p.1.stat with en := false, evt := p.1.stat.evt.raise 3 } }
  else leaveRelease { s with stat := statStop s.stat } 32

/-! ### Registers -/

def laneCfgWord (l : Lane) : Nat :=
  boolN l.fsync 31 + boolN l.seqen 30 + boolN l.log 29 + boolN l.sense 28 + l.capedge.toNat * 2 ^ 26 + boolN l.outsel 25 +
    l.spd.toNat * 2 ^ 16 + l.mode.toNat

def laneRegRead (s : State) (m : Master) (n : Fin 24) (o : Nat) : RegRead :=
  let l := s.lane[n]
  match o with
  | 0x00 => .ok s (natW (laneCfgWord l))
  | 0x04 => .ok s 0
  | 0x08 => .ok s (natW l.per)
  | 0x0C => .ok s (natW (laneDutyVal l))
  | 0x10 => .ok s (natW l.tgt)
  | 0x14 => .ok s (natW l.tgtNext)
  | 0x18 => .ok s l.scale
  | 0x1C => .ok s (natW (l.kp * 2 ^ 24 + l.ki * 2 ^ 16 + boolN l.rescale 15 + l.nfault))
  | 0x20 => .ok s (natW (l.outmax * 65536 + l.outmin))
  | 0x24 => .ok s (natW (l.smax * 65536 + l.smin))
  | 0x28 => .ok s (natW (l.sper * 2 ^ 24 + l.sofs))
  | 0x2C => .ok s (l.senseV.setWidth 32)
  | 0x30 => .ok s (natW l.capt)
  | 0x34 => .ok s (natW (lanePhase s l))
  | 0x38 => .ok s (natW (l.lockwin * 2 ^ 24 + l.tachto))
  | 0x3C => .ok s (natW (l.st.toNat * 2 ^ 29 + boolN l.locked 28 + l.slot.val * 2 ^ 24 + boolN l.seqrun 23 + l.loopc * 256 +
      l.fault.toNat))
  | 0x40 => .ok (updLane s n fun l => { l with evt := l.evt.read m }) l.evt.val
  | _ => match inst o 0x100 4 16 with
    | some i => .ok s l.prog[i]
    | none => .bad 1

def laneRead (s : State) (w : Who) (off : Nat) : RegRead :=
  let b := s.laneBlk
  if h : off < 0x6000 then
    let n : Fin 24 := ⟨off / 0x400, by omega⟩
    if lanePresent s n then laneRegRead s w.p.m n (off % 0x400) else .bad 2
  else match off with
  | 0x8000 => .ok s (b.fsrc.setWidth 32)
  | 0x8004 => .ok s 0
  | 0x8008 => .ok s b.fcount
  | 0x800C => .ok s b.fstamp
  | 0x8010 => .ok s (b.late.setWidth 32)
  | 0x8020 => .ok s b.logbase
  | 0x8024 => .ok s (natW b.logk)
  | 0x8028 => .ok s (natW b.logptr)
  | 0x802C => .ok s b.logdrop
  | _ => .bad 1

/-- LANE_CTRL (R399, R400). -/
def laneCtrlWrite (s : State) (n : Fin 24) (v : Word) : State :=
  let s := if v.getLsbD 0 then laneSafeWrite s n else s
  let s := if v.getLsbD 1 then laneClrWrite s n else s
  if v.getLsbD 2 then laneSeqWrite s n else s

def laneRegWrite (s : State) (m : Master) (n : Fin 24) (o : Nat) (v : Word) : RegWrite :=
  let addr : Word := natW (0x40100000 + 0x400 * n.val + o)
  let set (f : Lane → Lane) : RegWrite := .ok (updLane s n f)
  match o with
  | 0x00 => .ok (laneCfgWrite s m n v)
  | 0x04 => .ok (laneCtrlWrite s n v)
  | 0x08 => let p := bitsOf v 0 16
            if p < 15 then .ok (rsvdEnc s m addr) else set fun l => { l with per := p }
  | 0x0C => .ok (laneDutyWrite s n v)
  | 0x14 => .ok (laneNextWrite s n v true)
  | 0x18 => set fun l => laneScaleWrite l v
  | 0x1C =>
    let f := bitsOf v 0 4
    let s := if f = 0 then rsvdEnc s m addr else updLane s n fun l => { l with nfault := f }
    .ok (updLane s n fun l => { l with kp := bitsOf v 24 8, ki := bitsOf v 16 8, rescale := v.getLsbD 15 })
  | 0x20 => set fun l => { l with outmax := bitsOf v 16 16, outmin := bitsOf v 0 16 }
  | 0x24 => set fun l => { l with smax := bitsOf v 16 12, smin := bitsOf v 0 12 }
  | 0x28 => set fun l => { l with sper := bitsOf v 24 8, sofs := bitsOf v 0 16 }
  | 0x38 => set fun l => { l with lockwin := bitsOf v 24 8, tachto := bitsOf v 0 8 }
  | 0x40 => set fun l => { l with evt := l.evt.clear m v }
  | 0x10 | 0x2C | 0x30 | 0x34 | 0x3C => .ok s
  | _ => match inst o 0x100 4 16 with
    | some i => set fun l => { l with prog := putV l.prog i v }
    | none => .bad 1

def laneWrite (s : State) (w : Who) (off : Nat) (v : Word) : RegWrite :=
  let m := w.p.m
  let b := s.laneBlk
  if h : off < 0x6000 then
    let n : Fin 24 := ⟨off / 0x400, by omega⟩
    if lanePresent s n then laneRegWrite s m n (off % 0x400) v else .bad 2
  else match off with
  | 0x8000 =>
    let f := bitsOf v 0 2
    .ok (if f = 2 ∧ s.variant = .t then rsvdEnc s m 0x40108000 else { s with laneBlk := { b with fsrc := BitVec.ofNat 2 f } })
  | 0x8004 => .ok (if v.getLsbD 0 then laneFrameEvent s else s)
  | 0x8020 => .ok { s with laneBlk := { b with logbase := v &&& 0xFFFFFFF0 } }
  | 0x8024 =>
    let k := bitsOf v 0 4
    .ok (if 4 ≤ k ∧ k ≤ 14 then { s with laneBlk := { b with logk := k } } else rsvdEnc s m 0x40108024)
  | 0x8008 | 0x800C | 0x8010 | 0x8028 | 0x802C => .ok s
  | _ => .bad 1

/-- The fill of the port's input buffer: its transactions that wait, in 32-byte units (R158, R410). -/
def statRead (s : State) (w : Who) (off : Nat) : RegRead :=
  let k := s.stat
  match off with
  | 0x000 => .ok s (natW (boolN k.en 31))
  | 0x004 => .ok s k.rbase
  | 0x008 => .ok s (natW (k.slot64 * 65536 + (k.nslot - 1)))
  | 0x00C => .ok s (natW (boolN k.active 31 + boolN k.leaveWait 30 + k.slot * 256 + (k.seqExp.getD 0).toNat))
  | 0x010 => .ok { s with stat := { k with evt := k.evt.read w.p.m } } k.evt.val
  | 0x014 => .ok s k.frames
  | 0x018 => .ok s k.errCrc
  | 0x01C => .ok s k.errOvr
  | 0x020 => .ok s (natW (min (urgFill s 12) 63))
  | _ => .bad 1

def statRegWrite (s : State) (w : Who) (off : Nat) (v : Word) : RegWrite :=
  let k := s.stat
  match off with
  | 0x000 => .ok (statCtrlWrite s v)
  | 0x004 => .ok { s with stat := { k with rbase := v &&& 0xFFFFFFC0 } }
  | 0x008 =>
    if k.en then .ok s
    else
      let a := bitsOf v 16 9
      let b := bitsOf v 0 4
      let addr : Word := 0x40130008
      let s := if 1 ≤ a ∧ a ≤ 256 then { s with stat := { s.stat with slot64 := a } } else rsvdEnc s w.p.m addr
      .ok (if b = 0 then rsvdEnc s w.p.m addr else { s with stat := { s.stat with nslot := b + 1 } })
  | 0x010 => .ok { s with stat := { k with evt := k.evt.clear w.p.m v } }
  | 0x00C | 0x014 | 0x018 | 0x01C | 0x020 => .ok s
  | _ => .bad 1

end Sys2Proof.Machine
end

