-- ==== Sys2Proof/Machine/AdcOps.lean ====
section
/-!
DEFINITION. The converters and the setpoint outputs (20_adc_setpoints.md): enabling, scans, conversions, calibration, range
changes, and the registers of the ADC and SPD blocks.
-/

namespace Sys2Proof.Machine

/-! ### Converters -/

/-- A calibration ends without factors (R422). -/
def adcCalAbort (s : State) (a : Fin 4) : State :=
  if s.adc[a].calib then updAdc s a fun k => { k with calib := false, startWait := false, evt := k.evt.raise 5 } else s

/-- A write of ADC_CTRL(a) (R414). EN = 0 lets the conversion in progress complete. -/
def adcCtrlWrite (s : State) (a : Fin 4) (v : Word) : State :=
  let on := v.getLsbD 31
  if on = s.adc[a].en then s
  else if on then
    let s := updAdc s a fun k => { k with en := true }
    let p := lvRequest s (adcReq a) (if s.adc[a].lowPower then 1 else 6) 2
    match p.2 with
    | .granted => adcNext (updAdc p.1 a fun k => { k with enabled := true }) a
    | .waiting => updAdc p.1 a fun k => { k with leaveWait := true }
    | .refused => updAdc p.1 a fun k => { k with en := false, evt := k.evt.raise 2 }
  else
    let s := adcCalAbort s a
    leaveRelease (updAdc s a fun k => { k with en := false, enabled := false, leaveWait := false, scan := none, reqs := []
                                               kpdReq := false, startWait := false }) (adcReq a)

/-- A write of ADC_GO(a).CAL (R421): the scan is abandoned and the lanes that wait are skipped. -/
def adcCalWrite (s : State) (a : Fin 4) : State :=
  let k := s.adc[a]
  if k.calib then s
  else if !k.enabled || k.lowPower then updAdc s a fun k => { k with evt := k.evt.raise 3 }
  else
    let s := updAdc s a fun k => { k with calib := true, scan := none, reqs := [] }
    k.reqs.foldl (fun s n => laneSkip (updLane s n fun l => { l with asked := false }) n) s

/-- A calibration ends with the factors measured (R421), once the conversion that was in progress has ended. -/
def adcCalEnd (s : State) (a : Fin 4) (ofs : Int) (gain : Nat) : State :=
  let k := s.adc[a]
  if !k.calib || k.conv.isSome then s
  else
    let ok := decide (-2048 ≤ ofs) && decide (ofs ≤ 2047) && decide (24576 ≤ gain) && decide (gain ≤ 40960)
    let s := updAdc s a fun k => { k with calib := false, startWait := false }
    let s := if ok then
        updAdc s a fun k => { k with ofs := BitVec.ofInt 12 ofs, gain := gain, uncal := false, evt := k.evt.raise 4 }
      else updAdc s a fun k => { k with evt := k.evt.raise 5 }
    adcNext (if k.startWait then adcScanStart s a else s) a

/-- Whether an input is tied to VSSA because its lane or its pin is absent (R412). -/
def adcTied (s : State) (a : Fin 4) (input : Nat) : Bool :=
  if input < 6 then decide (laneCount s.variant ≤ 6 * a.val + input)
  else if input < 10 then decide (4 * adcCount s.variant ≤ 4 * a.val + input - 6)
  else false

/-- The code of a conversion of an input with raw result r: a tied input converts to 8 at most, the result is corrected. -/
def adcCode (s : State) (a : Fin 4) (input : Nat) (raw : BitVec 12) : BitVec 12 :=
  adcCorrect s.adc[a] (if adcTied s a input then min raw.toNat 8 else raw.toNat)

/-- The word of entry i in a scan message (R419). -/
def adcEntryWord (k : Adc) (i : Fin 8) : Nat :=
  k.res[i].code.toNat + boolN k.res[i].out 12 + boolN k.res[i].uncal 13 + k.seq[i].input.toNat * 65536

/-- The end of a scan (R418, R419). -/
def adcScanEnd (s : State) (a : Fin 4) : State :=
  let k := s.adc[a]
  let n := k.seqlen.toNat + 1
  let s := updAdc s a fun k => { k with stamp := s.tb.setWidth 32, evt := k.evt.raise 0, scan := none }
  let s := if k.post || k.scanOut then
      hwFixed s (.adc a) 0 ([natB a.val, natB n, natB (boolN k.scanOut 0 + boolN k.uncal 1), 0] ++ leBytes 8 s.tb.toNat ++
        (List.finRange 8).flatMap fun i => if i.val < n then leBytes 4 (adcEntryWord k i) else [])
    else s
  if k.trig = 3 then adcScanStart s a else s

/-- A scan entry's result (R419). -/
def adcEntryDone (s : State) (a : Fin 4) (i : Fin 8) (raw : BitVec 12) : State :=
  let k := s.adc[a]
  let code := adcCode s a k.seq[i].input.toNat raw
  let out : Bool := decide (code.toNat < k.seq[i].lo.toNat) || decide (k.seq[i].hi.toNat < code.toNat)
  let s := updAdc s a fun k => { k with res := putV k.res i ⟨k.uncal, out, code⟩ }
  if k.scan ≠ some i then s
  else
    let s := updAdc s a fun k => { k with scanOut := k.scanOut || out, scan := some (i + 1) }
    if k.seqlen.toNat ≤ i.val then adcScanEnd s a else s

/-! ### Setpoint outputs -/

/-- A write of SPD_CODE(d) (R424, R425). -/
def spdCodeWrite (s : State) (d : Fin 8) (v : Word) : State :=
  updSpd s d fun k => { k with code := v.setWidth 10, written := true }

/-- A write of SPD_RANGE(d) (R426, R427). -/
def spdRangeWrite (s : State) (d : Fin 8) (v : Word) : State :=
  if s.spd[d].ranging then updSpd s d fun k => { k with pend := some (v.getLsbD 0) } else spdStart s d (v.getLsbD 0)

/-- The range is switched and the clamp released (R426, orders 4 and 5). -/
def spdSwitch (s : State) (d : Fin 8) : State :=
  let k := s.spd[d]
  if k.ranging && k.inner && !k.switched then updSpd s d fun k => { k with now := k.range, switched := true }
  else if k.ranging && !k.inner && k.phase = 2 then updSpd s d fun k => { k with now := k.range, phase := 3 }
  else s

/-- The change has settled (R426 order 6, R427). -/
def spdSettle (s : State) (d : Fin 8) : State :=
  let k := s.spd[d]
  if !k.ranging || !(if k.inner then k.switched else k.phase = 3) then s
  else
    let s := updSpd s d fun k => { k with ranging := false, inner := false, switched := false, phase := 0, pend := none
                                          evt := k.evt.raise 0 }
    let s := if k.inner then s else leaveRelease s (spdReq d)
    match k.pend with
    | some v => spdStart s d v
    | none => s

/-! ### Registers -/

def adcCfgWord (k : Adc) : Nat :=
  boolN k.lowPower 30 + k.trig.toNat * 2 ^ 28 + k.timer.toNat * 2 ^ 24 + boolN k.post 23 + k.seqlen.toNat * 2 ^ 20 +
    k.loopspd.toNat * 65536 + k.int1.toNat * 4096 + k.int0.toNat * 256

def adcStatusWord (k : Adc) : Nat :=
  let i : Nat := match k.conv with | some (.entry i) => i.val | _ => (match k.scan with | some i => i.val | none => 0)
  boolN k.enabled 31 + boolN k.leaveWait 30 + boolN k.calib 29 + boolN k.uncal 28 + boolN k.scan.isSome 27 +
    boolN k.conv.isSome 26 + i

def adcSeqWord (q : AdcSeq) : Nat := q.hi.toNat * 2 ^ 20 + q.lo.toNat * 256 + q.input.toNat

def adcRegRead (s : State) (m : Master) (a : Fin 4) (o : Nat) : RegRead :=
  let k := s.adc[a]
  match o with
  | 0x000 => .ok s (natW (boolN k.en 31))
  | 0x004 => .ok s 0
  | 0x008 => .ok s (natW (adcCfgWord k))
  | 0x00C => .ok s (natW (adcStatusWord k))
  | 0x010 => .ok (updAdc s a fun k => { k with evt := k.evt.read m }) k.evt.val
  | 0x014 => .ok s (k.ofs.setWidth 32)
  | 0x018 => .ok s (natW k.gain)
  | 0x01C => .ok s k.stamp
  | _ => match inst o 0x40 4 8 with
    | some i => .ok s (natW (adcSeqWord k.seq[i]))
    | none => match inst o 0x80 4 8 with
      | some i => .ok s (natW (boolN k.res[i].uncal 13 + boolN k.res[i].out 12 + k.res[i].code.toNat))
      | none => .bad 1

def adcRead (s : State) (w : Who) (off : Nat) : RegRead :=
  if h : off < 0x1000 then
    let a : Fin 4 := ⟨off / 0x400, by omega⟩
    if adcPresent s a then adcRegRead s w.p.m a (off % 0x400) else .bad 2
  else if off = 0x1000 then .ok s (Config.adcTscal &&& 0x0FFF0FFF)
  else .bad 1

/-- A write of ADC_CFG(a) (R413, R414). -/
def adcCfgWrite (s : State) (m : Master) (a : Fin 4) (v : Word) : State :=
  let addr : Word := natW (0x40110008 + 0x400 * a.val)
  let spd := spdCount s.variant
  let mode := bitsOf v 30 2
  let loop := bitsOf v 16 3
  let ok (i : Nat) : Bool := i < 5 || (i = 5 && 0 < spd)
  let i1 := bitsOf v 12 3
  let i0 := bitsOf v 8 3
  let s := if 2 ≤ mode ∨ (s.adc[a].en ∧ (mode = 1) ≠ s.adc[a].lowPower) then rsvdEnc s m addr
    else updAdc s a fun k => { k with lowPower := mode = 1 }
  let s := if spd ≤ loop then rsvdEnc s m addr else updAdc s a fun k => { k with loopspd := BitVec.ofNat 3 loop }
  let s := if ok i1 then updAdc s a fun k => { k with int1 := BitVec.ofNat 3 i1 } else rsvdEnc s m addr
  let s := if ok i0 then updAdc s a fun k => { k with int0 := BitVec.ofNat 3 i0 } else rsvdEnc s m addr
  updAdc s a fun k => { k with
    trig := BitVec.ofNat 2 (bitsOf v 28 2), timer := BitVec.ofNat 3 (bitsOf v 24 3), post := v.getLsbD 23
    seqlen := BitVec.ofNat 3 (bitsOf v 20 3) }

def adcRegWrite (s : State) (m : Master) (a : Fin 4) (o : Nat) (v : Word) : RegWrite :=
  let k := s.adc[a]
  let addr : Word := natW (0x40110000 + 0x400 * a.val + o)
  match o with
  | 0x000 => .ok (adcCtrlWrite s a v)
  | 0x004 =>
    let s := if v.getLsbD 1 then adcCalWrite s a else s
    .ok (if v.getLsbD 0 then adcScanStart s a else s)
  | 0x008 => .ok (adcCfgWrite s m a v)
  | 0x010 => .ok (updAdc s a fun k => { k with evt := k.evt.clear m v })
  | 0x014 => .ok (if k.calib then rsvdEnc s m addr else updAdc s a fun k => { k with ofs := v.setWidth 12 })
  | 0x018 =>
    let g := bitsOf v 0 16
    .ok (if k.calib ∨ g < 24576 ∨ 40960 < g then rsvdEnc s m addr else updAdc s a fun k => { k with gain := g })
  | 0x00C | 0x01C => .ok s
  | _ => match inst o 0x40 4 8 with
    | some i =>
      let input := bitsOf v 0 4
      let s := if 12 ≤ input then rsvdEnc s m addr
        else updAdc s a fun k => { k with seq := updV k.seq i fun q => { q with input := BitVec.ofNat 4 input } }
      .ok (updAdc s a fun k => { k with seq := updV k.seq i fun q =>
        { q with hi := BitVec.ofNat 12 (bitsOf v 20 12), lo := BitVec.ofNat 12 (bitsOf v 8 12) } })
    | none => if (inst o 0x80 4 8).isSome then .ok s else .bad 1

def adcWrite (s : State) (w : Who) (off : Nat) (v : Word) : RegWrite :=
  if h : off < 0x1000 then
    let a : Fin 4 := ⟨off / 0x400, by omega⟩
    if adcPresent s a then adcRegWrite s w.p.m a (off % 0x400) v else .bad 2
  else if off = 0x1000 then .ok s
  else .bad 1

/-- SPD_STATUS(d). -/
def spdStatusWord (s : State) (d : Fin 8) : Nat :=
  let k := s.spd[d]
  let owner : Nat := match spdOwner s d with | some n => n.val | none => 31
  boolN k.ranging 31 + boolN k.pend.isSome 30 + k.phase.toNat * 2 ^ 28 + boolN k.written 27 + owner * 65536

def spdRead (s : State) (w : Who) (off : Nat) : RegRead :=
  match inst (off - off % 0x40) 0 0x40 8 with
  | none => .bad 1
  | some d =>
    let k := s.spd[d]
    if !spdPresent s d then .bad 2
    else match off % 0x40 with
    | 0x00 => .ok s (k.code.setWidth 32)
    | 0x04 => .ok s (natW (boolN (k.pend.getD k.range) 0))
    | 0x08 => .ok s (natW (boolN (spdClamped s d) 31 + boolN k.now 30 + spdInForce s d))
    | 0x0C => .ok s (natW (spdStatusWord s d))
    | 0x10 => .ok (updSpd s d fun k => { k with evt := k.evt.read w.p.m }) k.evt.val
    | _ => .bad 1

def spdWrite (s : State) (w : Who) (off : Nat) (v : Word) : RegWrite :=
  match inst (off - off % 0x40) 0 0x40 8 with
  | none => .bad 1
  | some d =>
    if !spdPresent s d then .bad 2
    else match off % 0x40 with
    | 0x00 => .ok (spdCodeWrite s d v)
    | 0x04 => .ok (spdRangeWrite s d v)
    | 0x08 | 0x0C => .ok s
    | 0x10 => .ok (updSpd s d fun k => { k with evt := k.evt.clear w.p.m v })
    | _ => .bad 1

end Sys2Proof.Machine
end

