-- ==== Sys2Proof/Machine/TimerOps.lean ====
section
/-!
DEFINITION. The time base, the RTC and the timers (18_watchdog_timers.md): shadows, counting steps, events and registers.
-/

namespace Sys2Proof.Machine

/-! ### Timers -/

def updTmr (s : State) (t : Fin 8) (f : Tmr → Tmr) : State := { s with time := { s.time with tmr := updV s.time.tmr t f } }

/-- A timer's events of one tick: the event bits, and one message for those that QEN selects (R386). -/
def tmrEvents (s : State) (t : Fin 8) (ovf mat cap : Bool) : State :=
  if !(ovf || mat || cap) then s
  else
    let up (b : Bool) (n : Nat) (q : Sqc) : Sqc := if b then q.raise n else q
    let s := updTmr s t fun k => { k with evt := up cap 2 (up mat 1 (up ovf 0 k.evt)) }
    let k := s.time.tmr[t]
    let bits := (boolN ovf 0 + boolN mat 1 + boolN cap 2) &&& k.qen.toNat
    if bits = 0 then s
    else
      let v := if bits ≥ 4 then k.capture else k.count
      hwFixed s (.timer t) 0 ([natB t.val, natB bits, 0, 0] ++ leBytes 4 v.toNat ++ leBytes 8 s.tb.toNat)

/-- One counting step of a timer (R381, R382): the new counter, overflow, match. -/
def tmrStep (k : Tmr) : Tmr × Bool × Bool :=
  if k.count = k.topNow then
    ({ k with count := 0, topNow := k.top, en := !k.oneshot, pre := 0 }, true, k.compare = 0)
  else ({ k with count := k.count + 1, pre := 0 }, false, k.count + 1 = k.compare)

/-- A counting step with what it raises, in one message with a capture of the same tick (R386); an overflow triggers the scans that name the
timer (R418). -/
def tmrDoStep (s : State) (t : Fin 8) : State :=
  let k := s.time.tmr[t]
  let r := tmrStep k
  let s := tmrEvents (updTmr s t fun _ => { r.1 with capDue := false }) t r.2.1 r.2.2 k.capDue
  if r.2.1 then adcTrigger s fun k => k.trig = 2 && k.timer.toNat = t.val else s

/-- A capture of a tick without a step is posted alone. -/
def tmrCapPost (s : State) (t : Fin 8) : State :=
  let due := s.time.tmr[t].capDue
  tmrEvents (updTmr s t fun k => { k with capDue := false }) t false false due

/-- One tick of a timer: the prescaler, then the step (R381), unless a write has taken this tick's step with it (R384, R385). -/
def tmrTick (s : State) (t : Fin 8) : State :=
  let k := s.time.tmr[t]
  if k.stepped then updTmr (tmrCapPost s t) t fun k => { k with stepped := false }
  else if !k.en then tmrCapPost s t
  else if k.pre < k.presc.toNat then tmrCapPost (updTmr s t fun k => { k with pre := k.pre + 1 }) t
  else tmrDoStep s t

/-- Whether the step of this tick is due (R381). -/
def tmrDue (k : Tmr) : Bool := k.en && !k.stepped && decide (k.presc.toNat ≤ k.pre)

/-- The step of this tick, made now. -/
def tmrStepNow (s : State) (t : Fin 8) : State := updTmr (tmrDoStep s t) t fun k => { k with stepped := true }

/-- A write of TMR_COUNT at a tick boundary, with the arbiter's order when it meets the overflow (R384). The boundary is the end of the
present tick; COUNT holds the written value after it on either side. -/
def tmrCountWrite (s : State) (t : Fin 8) (v : Word) (writeFirst : Bool) : State :=
  let k := s.time.tmr[t]
  let meets : Bool := tmrDue k && decide (k.count = k.topNow)
  if meets && !writeFirst then updTmr (tmrStepNow s t) t fun k => { k with count := v, order := false }
  else updTmr s t fun k => { k with count := v, order := true, pre := if meets then 0 else k.pre, stepped := k.stepped || meets }

/-- A write of TMR_COMPARE, with the arbiter's order when it meets the match (R385). -/
def tmrCompareWrite (s : State) (t : Fin 8) (v : Word) (writeFirst : Bool) : State :=
  let k := s.time.tmr[t]
  if tmrDue k && (tmrStep k).2.2 && !writeFirst then updTmr (tmrStepNow s t) t fun k => { k with compare := v, corder := false }
  else updTmr s t fun k => { k with compare := v, corder := true }

/-- A capture edge reaches the TB domain (R383): CAPTURE takes COUNT as it is before the step of this tick, with which the event is posted
(R386). A pin that the variant lacks captures nothing. -/
def tmrCapture (s : State) (t : Fin 8) : State :=
  let k := s.time.tmr[t]
  if k.capsrc = 0 || (k.capsrc.toNat < 4 && s.variant = .t && 16 ≤ k.pin.toNat) then s
  else updTmr s t fun k => { k with capture := k.count, capDue := true }

/-- A write of TMR_CFG (R381). Each of its fields that holds a reserved encoding sets SYS_ERR.RSVD_ENC, so SEQ advances once a field (R58, R60,
log entry 53). -/
def tmrCfgWrite (s : State) (m : Master) (t : Fin 8) (v : Word) : State :=
  let addr : Word := 0x40030100 + natW (0x40 * t.val)
  let mode := bitsOf v 29 2
  let cap := bitsOf v 26 3
  let s := if mode < 2 then updTmr s t fun k => { k with oneshot := mode = 1 } else rsvdEnc s m addr
  let s := if cap < 5 then updTmr s t fun k => { k with capsrc := BitVec.ofNat 3 cap } else rsvdEnc s m addr
  updTmr s t fun k => { k with
    pin := BitVec.ofNat 5 (bitsOf v 21 5)
    qen := BitVec.ofNat 3 (bitsOf v 18 3)
    presc := BitVec.ofNat 16 (bitsOf v 0 16)
    en := v.getLsbD 31
    topNow := if v.getLsbD 31 && !k.en then k.top else k.topNow
    pre := if v.getLsbD 31 && !k.en then 0 else k.pre }

/-- A read of TB_LO latches the reader's shadow (R379). -/
def tbLoRead (s : State) (m : Master) : State × Word :=
  ({ s with time := { s.time with tbShadow := putV s.time.tbShadow m (s.tb.extractLsb' 32 32) } }, s.tb.extractLsb' 0 32)

/-- A read of RTC_FRAC latches the reader's shadow (R380). -/
def rtcFracRead (s : State) (m : Master) : State × Word :=
  ({ s with time := { s.time with rtcShadow := putV s.time.rtcShadow m (natW (s.time.rtc / 32768)) } }, natW (s.time.rtc % 32768))

def timeRead (s : State) (w : Who) (off : Nat) : RegRead :=
  let m := w.p.m
  if off = 0x000 then let r := tbLoRead s m; .ok r.1 r.2
  else if off = 0x004 then .ok s s.time.tbShadow[m]
  else if off = 0x008 then .ok s (s.tb.extractLsb' 32 32)
  else if off = 0x010 then let r := rtcFracRead s m; .ok r.1 r.2
  else if off = 0x014 then .ok s s.time.rtcShadow[m]
  else
    match inst (off - off % 0x40) 0x100 0x40 8 with
    | none => .bad 1
    | some t =>
      let k := s.time.tmr[t]
      match off % 0x40 with
      | 0x00 => .ok s (natW (boolN k.en 31 + boolN k.oneshot 29 + k.capsrc.toNat * 2 ^ 26 + k.pin.toNat * 2 ^ 21 +
          k.qen.toNat * 2 ^ 18 + k.presc.toNat))
      | 0x04 => .ok s k.count
      | 0x08 => .ok s k.top
      | 0x0C => .ok s k.compare
      | 0x10 => .ok s k.capture
      | 0x14 => .ok s (natW (boolN k.en 2 + boolN k.corder 1 + boolN k.order 0))
      | 0x18 => .ok (updTmr s t fun k => { k with evt := k.evt.read m }) k.evt.val
      | _ => .bad 1

def timeWrite (s : State) (w : Who) (off : Nat) (v : Word) : RegWrite :=
  if off = 0 ∨ off = 4 ∨ off = 8 ∨ off = 0x10 ∨ off = 0x14 then .ok s
  else
    match inst (off - off % 0x40) 0x100 0x40 8 with
    | none => .bad 1
    | some t =>
      match off % 0x40 with
      | 0x00 => .ok (tmrCfgWrite s w.p.m t v)
      -- a store's side is the arbiter's (log entry 52)
      | 0x04 => .ok (tmrCountWrite s t v (Config.arbiter s.now))
      | 0x08 => .ok (updTmr s t fun k => { k with top := v })
      | 0x0C => .ok (tmrCompareWrite s t v (Config.arbiter s.now))
      | 0x10 | 0x14 => .ok s
      | 0x18 => .ok (updTmr s t fun k => { k with evt := k.evt.clear w.p.m v })
      | _ => .bad 1

end Sys2Proof.Machine
end

