-- ==== Sys2Proof/Machine/ViewOps.lean ====
section
/-!
DEFINITION. CEC reception and its posts, the IR decoders and the keypad (21_viewer_inputs.md), with the registers of the CEC, IR
and KPD blocks. What ends an Elvuk command that sends or polls on CEC is in Elvuk.lean.
-/

namespace Sys2Proof.Machine

/-- PR is dark (R343). -/
def prDark (s : State) : Bool := s.pwr.mode = .standby

/-- Whether a hardware source holds an event that waits for its buffer (R197). -/
def srcWaits (s : State) (src : HwSrc) : Bool :=
  s.pool.waits.any fun w => match w.who with | .event f => f.src = src | _ => false

/-- The device is in NAP or on its way there (R350). -/
def napping (s : State) : Bool := s.pwr.mode = .nap || s.pwr.entering = some .nap

/-! ### CEC -/

/-- Whether a frame's destination is one that the engine takes: its claimed address or broadcast (R434). -/
def cecFor (c : Cec) (dest : Nat) : Bool := dest = 15 || c.mask.getLsbD dest

/-- Whether the frame buffer of two is full, the frame that waits for a pool buffer included (R435). -/
def cecFull (s : State) : Bool := decide (2 ≤ s.cec.buf.length + (if srcWaits s .cec then 1 else 0))

/-- The next buffered frame is posted (R435): a HELD frame takes TB now. -/
def cecPostNext (s : State) : State :=
  match s.cec.buf with
  | [] => s
  | f :: rest =>
    if prDark s || srcWaits s .cec then s
    else
      let n := f.blocks.length - 1
      let h := (f.blocks.headD 0)
      let flags := boolN (bitsOf (h.setWidth 32) 0 4 = 15) 0 + boolN f.held 1 + boolN f.wake 2 + boolN f.unacked 3
      let tb := if f.held then s.tb else f.tb
      hwFixed { s with cec := { s.cec with buf := rest } } .cec 0
        ([h, natB n, natB flags, 0] ++ leBytes 8 tb.toNat ++ f.blocks.drop 1)

/-- The opcodes of the standby filter (R440). -/
def cecFilter (c : Cec) : List Byte := ((c.fopc.toList.flatMap fun w => leBytes 4 w.toNat)).take c.fcount

/-- The side of the last line edge that met a sampling point, when the bits of a frame, an attempt or a poll had one (R38, R433). -/
def cecSide (s : State) (sside : Option Bool) : State := { s with cec := { s.cec with sside := sside.getD s.cec.sside } }

/-- A frame that ends with EOM on the line (R434, R435, R440). -/
def cecReceive (s : State) (blocks : List Byte) (sside : Option Bool) : State :=
  match blocks with
  | [] => s
  | h :: data =>
    let dest := h.toNat % 16
    let s := cecSide { s with cec := { s.cec with line := true } } sside
    if !s.cec.en || 15 < data.length || !cecFor s.cec dest then s
    else
      let pass : Bool := match data with | o :: _ => (cecFilter s.cec).contains o | [] => false
      if prDark s && !pass then { s with cec := { s.cec with sbydrop := s.cec.sbydrop + 1 } }
      else if cecFull s then { s with cec := { s.cec with evt := s.cec.evt.raise 1 } }
      else
        let wakes : Bool := pass && (prDark s || (napping s && s.pwr.wakeMask.getLsbD 1))
        let f : CecFrame := ⟨blocks, prDark s, wakes, !curtainOpen s, s.tb⟩
        let s := { s with cec := { s.cec with buf := s.cec.buf ++ [f], evt := s.cec.evt.raise 0 } }
        cecPostNext (if pass then wakeArmed s 1 else s)

/-- A bit period that begins early in a frame for the engine: the line error and the frame's end (R434). -/
def cecLineError (s : State) (dest : Nat) (sside : Option Bool) : State :=
  let s := cecSide s sside
  if s.cec.en && cecFor s.cec dest then { s with cec := { s.cec with evt := s.cec.evt.raise 3, line := true } } else s

/-! ### IR -/

def updIr (s : State) (i : Fin 2) (f : Ir → Ir) : State := { s with ir := updV s.ir i f }

/-- The IR_CONFIG parameter bytes 2 to 15, by their argument number (R442). -/
def irByte (k : Ir) (n : Nat) : Nat := bitsOf (k.param.toList.getD ((n - 2) / 4) 0) ((n - 2) % 4 * 8) 8
def irHalf (k : Ir) (n : Nat) : Nat := irByte k n + 256 * irByte k (n + 1)

/-- Whether a duration of `d` IRS periods matches `t` microseconds with tolerance `tol` (R441). -/
def irMatch (tol t d : Nat) : Bool :=
  let x := 1000000 * d
  let y := 32768 * t
  decide ((x - y + (y - x)) * 100 ≤ y * tol + 100000000)

/-- What a frame decodes to (R443-R446). -/
inductive IrOut where
  | code (v : Word) (bits : Nat)
  | rep
  | err (reason : Byte) (bits : Nat)
  | capture
deriving DecidableEq, Repr

/-- Marks and spaces of a frame that alternate from a mark. -/
def irMarks : List Nat → List Nat
  | [] => []
  | [m] => [m]
  | m :: _ :: r => m :: irMarks r

def irSpaces (l : List Nat) : List Nat := irMarks (l.drop 1)

/-- A 32-bit code from its bits in arrival order (R443). -/
def irCode (msb : Bool) (bits : List Bool) : Word :=
  natW ((bits.zipIdx.map fun p => boolN p.1 (if msb then 31 - p.2 else p.2)).sum)

/-- CHECK (R442, R443). -/
def irCheck (check : Nat) (v : Word) : Bool :=
  if check = 0 then v.extractLsb' 16 16 = ~~~(v.extractLsb' 0 16) else v.extractLsb' 24 8 = ~~~(v.extractLsb' 16 8)

/-- PULSE_DISTANCE (R443, R445). `recent`: the last CODE or REPEAT ended less than 120 ms before. A space that matches both a 0
and a 1 is taken for a 0 (log entry 20). -/
def irPulse (k : Ir) (recent : Bool) (l : List Nat) : IrOut :=
  let tol := irByte k 10
  let lmark := irHalf k 2
  let lspace := irHalf k 4
  let unit := irHalf k 6
  let one := irByte k 8
  let flags := irByte k 12
  let marks := irMarks l
  let spaces := irSpaces l
  let n := (l.length - 3) / 2
  let lead : Bool := match marks with | m :: _ => irMatch tol lmark m | [] => false
  let space (t : Nat) : Bool := match spaces with | x :: _ => irMatch tol t x | [] => false
  -- LSPACE ÷ 2 is compared doubled: |2d - LSPACE| against the same bound doubled
  let half : Bool := match spaces with
    | x :: _ => let a := 2000000 * x
                let b := 32768 * lspace
                decide ((a - b + (b - a)) * 100 ≤ b * tol + 200000000)
    | [] => false
  let repeatShape : Bool := l.length = 3 && lead && half && (marks.drop 1).all (irMatch tol unit)
  if flags / 2 % 2 = 1 && repeatShape then (if recent then .rep else .err 7 0)
  else if !(lead && space lspace) then .err 1 n
  else if !(marks.drop 1).all (irMatch tol unit) then .err 2 n
  else if !(spaces.drop 1).all fun x => irMatch tol unit x || irMatch tol (one * unit) x then .err 3 n
  else if n ≠ 32 then .err 5 n
  else
    let v := irCode (flags % 2 = 1) ((spaces.drop 1).map fun x => !irMatch tol unit x)
    if irCheck (irByte k 11) v then .code v n else .err 6 n

/-- The half-cells of a bi-phase frame, true for a mark; none when a duration is off the grid (R444). -/
def irHalves (tol half : Nat) : Bool → List Nat → Option (List Bool)
  | _, [] => some []
  | lvl, d :: r =>
    if irMatch tol half d then (irHalves tol half (!lvl) r).map (lvl :: ·)
    else if irMatch tol (2 * half) d then (irHalves tol half (!lvl) r).map fun x => lvl :: lvl :: x
    else none

/-- The cells of a bi-phase frame, none when one lacks its centre edge. -/
def irCells (markFirst : Bool) : List Bool → Option (List Bool)
  | [] => some []
  | [_] => none
  | a :: b :: r => if a = b then none else (irCells markFirst r).map ((a = markFirst) :: ·)

/-- BIPHASE (R444, R445). A frame begins with a mark: the half-cell of high level before it belongs to the first start cell when
space-then-mark is 1. -/
def irBiphase (k : Ir) (l : List Nat) : IrOut :=
  let cells := irByte k 4
  let start := irByte k 5
  let one : Bool := irByte k 7 % 2 = 1
  match irHalves (irByte k 6) (irHalf k 2) true l with
  | none => .err 4 (l.length / 2)
  | some hs =>
    let hs := if one then hs else false :: hs
    let hs := if hs.length % 2 = 1 then hs ++ [false] else hs
    match irCells one hs with
    | none => .err 4 (hs.length / 2)
    | some cs =>
      let n := cs.length
      if n ≠ cells then .err 5 n
      else if !(cs.take start).all id then .err Config.irStartReason n
      else .code (natW ((cs.drop start).foldl (fun a b => 2 * a + b.toNat) 0)) n

/-- The GAP of a decoder in ms (R442). -/
def irGap (k : Ir) : Nat :=
  if k.dec = 1 then irByte k 13 else if k.dec = 2 then irByte k 8 else irByte k 2

/-- Whether the last CODE or REPEAT ended less than 120 ms before the frame of these durations began, in IRS periods. -/
def irRecent (s : State) (k : Ir) (l : List Nat) : Bool :=
  match k.lastEnd with
  | some t => decide ((s.time.rtc - t) * 1000000 < (l.sum * 1000000 + irGap k * 32768000 / 1000) + 120000 * 32768)
  | none => false

def irDecode (s : State) (i : Fin 2) (l : List Nat) : IrOut :=
  let k := s.ir[i]
  match k.dec.toNat with
  | 1 => irPulse k (irRecent s k l) l
  | 2 => irBiphase k l
  | _ => .capture

def irPost (s : State) (i : Fin 2) (type : Nat) (flags bits : Nat) (reason : Byte) (code : Word) (more : List Byte) : State :=
  hwFixed s (.ir i) type ([natB i.val, natB flags, natB bits, reason] ++ leBytes 4 code.toNat ++ leBytes 8 s.tb.toNat ++ more)

/-- Whether a CODE is one of the WAKE_KEYS codes (R452). -/
def irWakes (s : State) (v : Word) : Bool := (s.irWake.toList.take s.irWakeN).contains v

/-- The parts of a capture (R446): up to 22 durations each, saturating at 65,535. -/
def irCapture (s : State) (i : Fin 2) (l : List Nat) : State :=
  ((chunks 22 (l.length + 1) l).zipIdx).foldl (fun s p =>
    irPost s i 3 0 p.1.length (natB p.2) 0 (p.1.flatMap fun d => leBytes 2 (min d 65535))) s

/-- Whether the durations are those of one frame: marks and spaces from a mark to a mark, no space as long as GAP (R441). -/
def irFrameOk (k : Ir) (l : List Nat) : Bool :=
  l.length % 2 = 1 && (irSpaces l).all fun x => decide (x * 1000 < irGap k * 32768)

/-- A frame ends at GAP (R443-R447). -/
def irFrame (s : State) (i : Fin 2) (l : List Nat) : State :=
  let k := s.ir[i]
  if k.dec = 0 || !irFrameOk k l then s
  else
    let s := updIr s i fun k => { k with line := true }
    let ended (s : State) : State := updIr s i fun k => { k with lastEnd := some s.time.rtc }
    match irDecode s i l with
    | .code v n =>
      let s := ended (updIr s i fun k => { k with lastCode := v, evt := k.evt.raise 0 })
      let hit := irWakes s v
      if prDark s then
        wakeIf (updIr s i fun k => { k with heldCode := some (v, n, hit && s.pwr.wakeMask.getLsbD (2 + i.val)) }) i hit
      else
        let woke : Bool := hit && napping s && s.pwr.wakeMask.getLsbD (2 + i.val)
        wakeIf (irPost s i 0 (boolN woke 0) n 0 v []) i hit
    | .rep =>
      let s := ended (updIr s i fun k => { k with evt := k.evt.raise 2 })
      if prDark s then
        updIr s i fun k => { k with heldCode := some (match k.heldCode with | some h => h | none => (k.lastCode, 0, false)) }
      else irPost s i 1 0 0 0 k.lastCode []
    | .err r n =>
      let s := updIr s i fun k => { k with reason := r, evt := k.evt.raise 1, errCount := k.errCount + 1 }
      if prDark s then updIr s i fun k => { k with heldErr := some (r, n) } else irPost s i 2 0 n r 0 []
    | .capture => if prDark s then s else irCapture s i l
where
  wakeIf (s : State) (i : Fin 2) (hit : Bool) : State := if hit then wakeArmed s (2 + i.val) else s

/-- What a decoder kept while PR was dark is posted, CODE first (R447). -/
def irPostHeld (s : State) (i : Fin 2) : State :=
  let k := s.ir[i]
  let s := updIr s i fun k => { k with heldCode := none, heldErr := none }
  let s := match k.heldCode with | some (v, n, w) => irPost s i 0 (boolN w 0 + 2) n 0 v [] | none => s
  match k.heldErr with | some (r, n) => irPost s i 2 2 n r 0 [] | none => s

/-! ### Keypad -/

/-- The converter and the input of the keypad's AIN pin (R412, R450). -/
def kpdAdc (k : Kpd) : Fin 4 := Fin.ofNat 4 (k.ain.toNat / 4)
def kpdInput (k : Kpd) : Nat := 6 + k.ain.toNat % 4

def kpdTh (k : Kpd) (j : Nat) : Nat := (k.th.toList.getD j 0).toNat

def kpdNoAdc (s : State) : Bool := !s.adc[kpdAdc s.kpd].enabled || s.adc[kpdAdc s.kpd].uncal

/-- The load of a code (R450): rounded half up. -/
def kpdLoad (k : Kpd) (c : Nat) : Nat := if c = 0 then 65535 else (8192 * (kpdTh k 0 - c) + c) / (2 * c)

/-- The 21 candidates: single keys, then chords, with their loads (R449). -/
def kpdCands (n : Nat → Nat) : List (BitVec 6 × Nat) :=
  ((List.range 6).map fun i => (BitVec.ofNat 6 (2 ^ i), n i)) ++
    (List.range 6).flatMap fun i => ((List.range 6).filter (i < ·)).map fun j => (BitVec.ofNat 6 (2 ^ i + 2 ^ j), n i + n j)

/-- The decode of a code, with its load (R450). -/
def kpdDecode (k : Kpd) (c : Nat) : KpdSet × BitVec 16 :=
  if kpdTh k 2 ≤ c then (.none, 0)
  else if kpdTh k 1 < c then (k.cand, k.lastL)
  else
    let l := kpdLoad k c
    let lv : BitVec 16 := if l < 65536 then BitVec.ofNat 16 l else Config.kpdLoad c
    match (kpdCands fun i => kpdTh k (4 + i)).find? fun p => decide (p.2 ≤ l + kpdTh k 3) && decide (l ≤ p.2 + kpdTh k 3) with
    | some p => (.keys p.1, lv)
    | none => (.unresolved, lv)

def kpdPost (s : State) (type : Nat) (set : BitVec 6) (wake : Bool) (l : BitVec 16) : State :=
  hwFixed s .keypad type ([natB set.toNat, natB (boolN wake 0)] ++ leBytes 2 l.toNat ++ leBytes 2 s.kpd.accC.toNat ++ [0, 0] ++
    leBytes 8 s.kpd.accTb.toNat)

/-- The accepted state changes (R451). -/
def kpdAccept (s : State) (d : KpdSet) (l : BitVec 16) (c : BitVec 12) : State :=
  let s := { s with kpd := { s.kpd with acc := d, accL := l, accC := c, accTb := s.tb } }
  let k := s.kpd
  match d with
  | .keys set =>
    let s := { s with kpd := { k with lastSet := set, evt := k.evt.raise 0, wakePend := false
                                      repAt := s.now + 24000 * kpdTh k 12 } }
    kpdPost s 0 set (k.wakePend && set &&& k.wakemask = set) l
  | .unresolved => kpdPost { s with kpd := { k with evt := k.evt.raise 2 } } 3 0 false l
  | .none => kpdPost { s with kpd := { k with evt := k.evt.raise 1, lastSet := 0 } } 2 k.lastSet false 0

/-- A ladder reading reaches the keypad (R450, R451). -/
def kpdResult (s : State) (c : BitVec 12) : State :=
  let k := s.kpd
  if !k.en then s
  else
    let p := kpdDecode k c.toNat
    let runs := if p.1 = k.cand then k.runs + 1 else 1
    let s := { s with kpd := { k with cand := p.1, runs := runs, lastL := p.2, lastC := c } }
    if p.1 ≠ k.acc && decide (kpdTh k 11 ≤ runs) then kpdAccept s p.1 p.2 c else s

/-- The press detector (R452). -/
def kpdPress (s : State) (down : Bool) : State :=
  if !s.kpd.en then s
  else
    let fresh := down && !s.kpd.down
    let s := { s with kpd := { s.kpd with down := down } }
    if fresh && s.kpd.wakemask ≠ 0 && (prDark s || napping s) && s.pwr.wakeMask.getLsbD 4 then
      wakeArmed { s with kpd := { s.kpd with wakePend := true } } 4
    else s

/-- A sample of the ladder falls due (R450). -/
def kpdSample (s : State) : State :=
  let k := s.kpd
  if !k.en || !(k.down || k.acc ≠ .none) || prDark s || !anaUp s || kpdNoAdc s then s
  else adcNext (updAdc s (kpdAdc k) fun a => { a with kpdReq := true }) (kpdAdc k)

/-- A REPEAT falls due (R451). -/
def kpdRepeat (s : State) : State :=
  let k := s.kpd
  match k.acc with
  | .keys set =>
    if !k.en || kpdTh k 12 = 0 || s.now < k.repAt || prDark s then s
    else kpdPost { s with kpd := { k with repAt := k.repAt + 24000 * kpdTh k 13 } } 1 set false k.accL
  | _ => s

/-- A conversion completes with a raw result (R416, R419, R423): it goes to its lane, to the keypad or to its entry, and the
next request starts. -/
def adcConvDone (s : State) (a : Fin 4) (raw : BitVec 12) : State :=
  match s.adc[a].conv with
  | none => s
  | some c =>
    let s := updAdc s a fun k => { k with conv := none }
    let s := match c with
      | .lane n =>
        let code := adcCode s a (n.val % 6) raw
        if lanesUp s then updLane s n fun l => { l with inbox := some code } else s
      | .keypad => kpdResult s (adcCode s a (kpdInput s.kpd) raw)
      | .entry i => adcEntryDone s a i raw
    adcNext s a

/-! ### Registers -/

def cecRead (s : State) (w : Who) (off : Nat) : RegRead :=
  let k := s.cec
  match off with
  | 0x000 => .ok s (natW (boolN k.en 31 + boolN k.pullup 30 + k.mask.toNat))
  | 0x004 => .ok s (natW (boolN k.sside 8 + boolN (cecFull s) 2 + boolN (k.tx.isSome || k.poll.isSome) 1 + boolN k.line 0))
  | 0x008 => .ok { s with cec := { k with evt := k.evt.read w.p.m } } k.evt.val
  | 0x00C => .ok s k.phys
  | 0x010 => .ok s (natW k.fcount)
  | 0x024 => .ok s k.sbydrop
  | _ => match inst off 0x14 4 4 with
    | some j => .ok s k.fopc[j]
    | none => .bad 1

def cecWrite (s : State) (w : Who) (off : Nat) (v : Word) : RegWrite :=
  let k := s.cec
  let set (k : Cec) : RegWrite := .ok { s with cec := k }
  match off with
  | 0x000 => set { k with en := v.getLsbD 31, pullup := v.getLsbD 30, mask := v.setWidth 15 }
  | 0x008 => set { k with evt := k.evt.clear w.p.m v }
  | 0x00C => set { k with phys := v &&& 0xFFFFFF }
  | 0x010 => let n := bitsOf v 0 5
             if 16 < n then .ok (rsvdEnc s w.p.m 0x40190010) else set { k with fcount := n }
  | 0x004 | 0x024 => .ok s
  | _ => match inst off 0x14 4 4 with
    | some j => set { k with fopc := putV k.fopc j v }
    | none => .bad 1

def irRead (s : State) (w : Who) (off : Nat) : RegRead :=
  if off = 0x820 then .ok s (natW s.irWakeN)
  else match inst off 0x800 4 8 with
  | some j => .ok s s.irWake[j]
  | none => match inst (off - off % 0x100) 0 0x100 2 with
    | none => .bad 1
    | some i =>
      let k := s.ir[i]
      match off % 0x100 with
      | 0x00 => .ok s (k.dec.setWidth 32)
      | 0x14 => .ok s (natW (k.reason.toNat * 256 + boolN k.line 0))
      | 0x18 => .ok (updIr s i fun k => { k with evt := k.evt.read w.p.m }) k.evt.val
      | 0x1C => .ok s k.lastCode
      | 0x20 => .ok s k.errCount
      | o => match inst o 4 4 4 with
        | some j => .ok s k.param[j]
        | none => .bad 1

def irWrite (s : State) (w : Who) (off : Nat) (v : Word) : RegWrite :=
  let addr : Word := 0x401A0000 + natW off
  if off = 0x820 then
    let n := bitsOf v 0 4
    .ok (if 8 < n then rsvdEnc s w.p.m addr else { s with irWakeN := n })
  else match inst off 0x800 4 8 with
  | some j => .ok { s with irWake := putV s.irWake j v }
  | none => match inst (off - off % 0x100) 0 0x100 2 with
    | none => .bad 1
    | some i =>
      match off % 0x100 with
      | 0x00 => .ok (if v.getLsbD 2 then rsvdEnc s w.p.m addr else updIr s i fun k => { k with dec := v.setWidth 3 })
      | 0x18 => .ok (updIr s i fun k => { k with evt := k.evt.clear w.p.m v })
      | 0x14 | 0x1C | 0x20 => .ok s
      | o => match inst o 4 4 4 with
        | some j => .ok (updIr s i fun k => { k with param := putV k.param j v })
        | none => .bad 1

def kpdSetBits (k : Kpd) : BitVec 6 := match k.acc with | .keys x => x | _ => 0

def kpdRead (s : State) (w : Who) (off : Nat) : RegRead :=
  let k := s.kpd
  match off with
  | 0x000 => .ok s (natW (boolN k.en 31 + k.ain.toNat))
  | 0x020 => .ok s (natW (boolN k.down 31 + boolN (kpdNoAdc s) 30 + boolN (k.acc = .unresolved) 8 + (kpdSetBits k).toNat))
  | 0x024 => .ok { s with kpd := { k with evt := k.evt.read w.p.m } } k.evt.val
  | 0x028 => .ok s (natW (k.lastL.toNat * 65536 + k.lastC.toNat))
  | 0x02C => .ok s (k.wakemask.setWidth 32)
  | _ => match inst off 4 4 7 with
    | some j => .ok s (natW (kpdTh k (2 * j.val + 1) * 65536 + kpdTh k (2 * j.val)))
    | none => .bad 1

def kpdWrite (s : State) (w : Who) (off : Nat) (v : Word) : RegWrite :=
  let k := s.kpd
  let set (k : Kpd) : RegWrite := .ok { s with kpd := k }
  match off with
  | 0x000 => set { k with en := v.getLsbD 31, ain := v.setWidth 5 }
  | 0x024 => set { k with evt := k.evt.clear w.p.m v }
  | 0x02C => set { k with wakemask := v.setWidth 6 }
  | 0x020 | 0x028 => .ok s
  | _ => match inst off 4 4 7 with
    | some j =>
      let lo := putV k.th ⟨2 * j.val, by omega⟩ (v.extractLsb' 0 16)
      set { k with th := putV lo ⟨2 * j.val + 1, by omega⟩ (v.extractLsb' 16 16) }
    | none => .bad 1

end Sys2Proof.Machine
end

