-- ==== Sys2Proof/Machine/SerialOps.lean ====
section
/-!
DEFINITION. The UARTs, the I2C controllers, the GPIO and the pin multiplexer (22_serial_gpio.md): their FIFOs, messages,
transfers and edges, and the registers of the four blocks.
-/

namespace Sys2Proof.Machine

/-! ### Pins -/

/-- GPIO pins of the variant (R454). -/
def gpioCount : Variant → Nat | .t => 16 | _ => 32
def gpioMask (v : Variant) : Word := match v with | .t => 0xFFFF | _ => 0xFFFFFFFF

/-- The 2-bit field of a pin in a pair of registers. -/
def pinField (r : Vector Word 2) (p : Nat) : Nat := bitsOf (r.toList.getD (p / 16) 0) (2 * (p % 16)) 2

/-- Whether a pin has its ALT function (R466). -/
def pinAlt (s : State) (p : Nat) : Bool := pinField s.gpio.func p = 1

/-- The pins for which ALT is defined (R466). -/
def altDefined (p : Nat) : Bool := 2 ≤ p && p ≤ 13

/-- Data bytes in an RX FIFO. -/
def rxCount (l : List RxItem) : Nat := l.countP fun x => match x with | .char .. => true | .brk _ => false

/-- What the ALT function of a pin drives on its pad (R457, R459-R461, R466), none where it drives nothing: TX is high but for the character or
the BREAK being sent, RTS is high with 56 bytes or more and FLOW = 1, SCL is low while the bus is held. -/
def altDrive (s : State) (p : Nat) : Option Bool :=
  let tx (u : Fin 2) : Option Bool :=
    some (match s.uart[u].shift with | none => true | some .brk => false | some (.char _) => Config.txLevel u.val s.now)
  let rts (u : Fin 2) : Option Bool := some (s.uart[u].flow && decide (56 ≤ rxCount s.uart[u].rx))
  let scl (i : Fin 2) : Option Bool := if s.i2c[i].hold && s.i2c[i].en then some false else none
  match p with
  | 2 => tx 0 | 6 => tx 1 | 4 => rts 0 | 12 => rts 1 | 8 => scl 0 | 10 => scl 1
  | _ => none

/-- The level of a pad (R464, R466): what GPIO or the pin's ALT function drives, else what the outside gives. Behind a closed Curtain no pad is
driven (R264). -/
def padLevel (s : State) (p : Nat) : Bool :=
  let g := s.gpio
  let outside := g.pads.getLsbD p
  if !curtainOpen s then outside
  else if pinAlt s p then (altDrive s p).getD outside
  else if g.oe.getLsbD p && !(g.od.getLsbD p && g.out.getLsbD p) then g.out.getLsbD p
  else outside

/-- GPIO_IN (R464). -/
def gpioIn (s : State) : Word := natW (((List.range (gpioCount s.variant)).map fun p => boolN (padLevel s p) p).sum)

def setPad (s : State) (p : Nat) (high : Bool) : State :=
  let bit := natW (2 ^ p)
  { s with gpio := { s.gpio with pads := if high then s.gpio.pads ||| bit else s.gpio.pads &&& ~~~bit } }

/-! ### UARTs -/

def updUart (s : State) (u : Fin 2) (f : Uart → Uart) : State := { s with uart := updV s.uart u f }

def uartRxPin (u : Fin 2) : Nat := if u = 0 then 3 else 7
def uartCtsPin (u : Fin 2) : Nat := if u = 0 then 5 else 13

/-- The CTS input: an unselected one reads high (R466). -/
def uartCts (s : State) (u : Fin 2) : Bool := !pinAlt s (uartCtsPin u) || s.gpio.pads.getLsbD (uartCtsPin u)

/-- One message's worth of the RX FIFO (R458): bytes, flags of payload byte 1, index + 1 of the marked byte, TB, and the rest. -/
def rxTake : Nat → List RxItem → List Byte → BitVec 64 → List Byte × Nat × Nat × BitVec 64 × List RxItem
  | 0, l, acc, t => (acc, 0, 0, t, l)
  | _ + 1, [], acc, tb => (acc, 0, 0, tb, [])
  | n + 1, x :: r, acc, _ =>
    match x with
    | .brk t => (acc, 4, 0, t, r)
    | .char b p f t =>
      let acc := acc ++ [b]
      if p || f then (acc, boolN p 0 + boolN f 1, acc.length, t, r)
      else if acc.length = 48 then (acc, 0, 0, t, r)
      else rxTake n r acc t

/-- Whether a UART has a reason to build a message (R458). -/
def uartDue (k : Uart) : Bool :=
  k.ovr || decide (k.rxthr ≤ rxCount k.rx) || (k.still && decide (k.idle ≠ 0) && decide (0 < rxCount k.rx)) ||
    k.rx.any fun x => match x with | .char _ p f _ => p || f | .brk _ => true

def uartPost (s : State) (u : Fin 2) (type flags : Nat) (mark : Nat) (tb : BitVec 64) (data : List Byte) : State :=
  hwFixed s (.uart u) type ([natB u.val, natB flags, natB data.length, natB mark] ++ leBytes 8 tb.toNat ++ data)

/-- Messages are built while there is a reason and no message of the UART waits (R458). -/
def uartBuild : Nat → State → Fin 2 → State
  | 0, s, _ => s
  | fuel + 1, s, u =>
    let k := s.uart[u]
    if !uartDue k || srcWaits s (.uart u) then s
    else
      let r := rxTake 70 k.rx [] s.tb
      let s := updUart s u fun k => { k with rx := r.2.2.2.2, ovr := false }
      uartBuild fuel (uartPost s u 0 (r.2.1 + boolN k.ovr 3) r.2.2.1 r.2.2.2.1 r.1) u

def uartBuildAll (s : State) : State := uartBuild 70 (uartBuild 70 s 0) 1

/-- Whether the receiver listens. -/
def uartListens (s : State) (u : Fin 2) : Bool := s.uart[u].en && !prDark s && pinAlt s (uartRxPin u)

/-- A received character (R456-R458). -/
def uartRx (s : State) (u : Fin 2) (data : Byte) (parityErr framingErr : Bool) : State :=
  if !uartListens s u then s
  else
    let k := s.uart[u]
    if 64 ≤ rxCount k.rx then
      uartBuild 70 (updUart s u fun k => { k with ovr := true, still := false, evt := k.evt.raise 3 }) u
    else
      let p := parityErr && k.parity ≠ 0
      let b : Byte := if k.bits7 then data &&& 0x7F else data
      let s := updUart s u fun k => { k with
        rx := k.rx ++ [.char b p framingErr s.tb], still := false
        evt := (fun q : Sqc => if framingErr then q.raise 1 else q) (if p then k.evt.raise 0 else k.evt) }
      uartBuild 70 s u

/-- A received BREAK (R456, R458). -/
def uartBreakRx (s : State) (u : Fin 2) : State :=
  if !uartListens s u then s
  else uartBuild 70 (updUart s u fun k => { k with rx := k.rx ++ [.brk s.tb], still := false, evt := k.evt.raise 2 }) u

/-- The line has been idle for IDLE character times (R458). -/
def uartIdleRx (s : State) (u : Fin 2) : State :=
  if !uartListens s u || s.uart[u].idle = 0 then s else uartBuild 70 (updUart s u fun k => { k with still := true }) u

/-- The transmitter starts what waits: the next byte, or a BREAK once the FIFO is empty (R457, R459, R265). -/
def uartKick (s : State) (u : Fin 2) : State :=
  let k := s.uart[u]
  if !k.en || k.shift.isSome || !curtainOpen s || prDark s || (k.flow && uartCts s u) then s
  else match k.tx with
    | b :: r => updUart s u fun k => { k with shift := some (.char b), tx := r }
    | [] => if k.brkPend then updUart s u fun k => { k with shift := some .brk, brkPend := false } else s

/-- Writes that a full TX FIFO holds go on as room appears (R459). -/
def uartSettle : Nat → State → Fin 2 → State
  | 0, s, _ => s
  | fuel + 1, s, u =>
    if 64 ≤ s.uart[u].tx.length then s
    else
      match s.fab.blocked.findSome? fun b => match b.kind with | .uartTx v x => if v = u then some (b, x) else none | _ => none with
      | none => s
      | some (b, x) =>
        let s := updUart s u fun k => { k with tx := k.tx ++ [x.setWidth 8] }
        uartSettle fuel (uartKick (completeBlocked s b 0) u) u

def uartGo (s : State) (u : Fin 2) : State :=
  let s := uartKick s u
  uartSettle (s.fab.blocked.length + 1) s u

/-- A write of UART_TXDATA: false when it must wait (R459). -/
def uartTxWrite (s : State) (u : Fin 2) (v : Word) : State × Bool :=
  if 64 ≤ s.uart[u].tx.length then (s, false)
  else (uartKick (updUart s u fun k => { k with tx := k.tx ++ [v.setWidth 8] }) u, true)

/-- A character or a BREAK has been sent (R458, R459). -/
def uartSent (s : State) (u : Fin 2) : State :=
  if s.uart[u].shift.isNone then s
  else
    let s := uartGo (updUart s u fun k => { k with shift := none }) u
    let k := s.uart[u]
    if k.txqen && k.shift.isNone && k.tx.isEmpty then uartPost s u 1 0 0 s.tb [] else s

def uartBreakWrite (s : State) (u : Fin 2) : State := uartKick (updUart s u fun k => { k with brkPend := true }) u

def uartFlushWrite (s : State) (u : Fin 2) : State := uartGo (updUart s u fun k => { k with rx := [], tx := [] }) u

/-- The CTS pad changes (R457). -/
def uartCtsSet (s : State) (u : Fin 2) (high : Bool) : State := uartGo (setPad s (uartCtsPin u) high) u

/-! ### I2C -/

def updI2c (s : State) (i : Fin 2) (f : I2c → I2c) : State := { s with i2c := updV s.i2c i f }

/-- The end of a transfer (R462, R463). `data` are the bytes read. -/
def i2cFinish (s : State) (i : Fin 2) (x : I2cXfer) (result : BitVec 4) (moved : Nat) (data : List Byte) : State :=
  let s := updI2c s i fun k => { k with
    busy := none, result := result, count := moved, hold := result = 1 && !x.stop
    evt := k.evt.raise (if result = 1 then 0 else 1) }
  let q := s.i2c[i].queue
  if q = 0 then updI2c s i fun k => { k with rx := k.rx ++ data }
  else hwEvent s ⟨.i2c i, masterClass s.pool x.by_, q, 0,
    [natB i.val, natB result.toNat, natB moved, 0] ++ leBytes 8 s.tb.toNat ++ data, true⟩

/-- A write of I2C_XFER (R461, R463). -/
def i2cXferWrite (s : State) (m : Master) (i : Fin 2) (v : Word) : State :=
  let k := s.i2c[i]
  let n := bitsOf v 8 5 + 1
  let read := v.getLsbD 7
  let x : I2cXfer := ⟨v.getLsbD 13, n, read, v.setWidth 7, m, if read then [] else k.tx.take n⟩
  if !k.en then s
  else if k.busy.isSome then updI2c s i fun k => { k with evt := k.evt.raise 2 }
  else if !read && decide (k.tx.length < n) then i2cFinish s i x 6 0 []
  else if read && k.queue = 0 && decide (32 < k.rx.length + n) then i2cFinish s i x 6 0 []
  else updI2c s i fun k => { k with busy := some x, tx := if read then k.tx else k.tx.drop n }

/-- A transfer ends on the wire (R462): the outcome must be one that the transfer can have. -/
def i2cEnd (s : State) (i : Fin 2) (e : I2cEnd) : State :=
  match s.i2c[i].busy with
  | none => s
  | some x =>
    if !curtainOpen s || prDark s then s
    else match e with
    | .done data =>
      if x.read then (if data.length = x.bytes then i2cFinish s i x 1 x.bytes data else s)
      else i2cFinish s i x 1 x.bytes []
    | .nackAddr => i2cFinish s i x 2 0 []
    | .nackData n => if x.read || decide (x.bytes ≤ n) then s else i2cFinish s i x 3 n []
    | .arbLost n data => i2cPart s i x 4 n data
where
  /-- A transfer that ended part of the way: the bytes read, or the number written. -/
  i2cPart (s : State) (i : Fin 2) (x : I2cXfer) (r : BitVec 4) (n : Nat) (data : List Byte) : State :=
    if x.read then
      let d := data.take x.bytes
      i2cFinish s i x r d.length d
    else i2cFinish s i x r (min n x.bytes) []

/-- The bus or SCL is held for STRETCH ms (R462). -/
def i2cTimeout (s : State) (i : Fin 2) (n : Nat) (data : List Byte) : State :=
  match s.i2c[i].busy with
  | none => s
  | some x => if !curtainOpen s || prDark s then s else i2cEnd.i2cPart s i x 5 n data

/-- A write of I2C_TXDATA. -/
def i2cTxWrite (s : State) (i : Fin 2) (v : Word) : State :=
  if 32 ≤ s.i2c[i].tx.length then updI2c s i fun k => { k with evt := k.evt.raise 1 }
  else updI2c s i fun k => { k with tx := k.tx ++ [v.setWidth 8] }

/-- A read of I2C_RXDATA (R463). -/
def i2cRxRead (s : State) (i : Fin 2) : State × Word :=
  match s.i2c[i].rx with
  | [] => (s, 0)
  | b :: r => (updI2c s i fun k => { k with rx := r }, natW (256 + b.toNat))

/-! ### GPIO -/

/-- The event bits and the message of an edge of a present pin (R465). -/
def gpioEdgeSet (s : State) (p : Fin 32) (rising : Bool) : State :=
  if gpioCount s.variant ≤ p.val || prDark s then s
  else
    let s := if curtainOpen s && !pinAlt s p.val && s.gpio.oe.getLsbD p.val && !(s.gpio.od.getLsbD p.val && s.gpio.out.getLsbD p.val)
      then s else setPad s p.val rising
    let s := uartGo (uartGo s 0) 1
    let sel := pinField s.gpio.edge p.val
    if !(if rising then sel % 2 = 1 else 2 ≤ sel) then s
    else
      let h : Fin 2 := ⟨p.val / 16, by omega⟩
      let s := { s with gpio := { s.gpio with evt := updV s.gpio.evt h fun q => q.raise (p.val % 16) } }
      if s.gpio.queue = 0 then s
      else hwEvent s ⟨.gpio, masterClass s.pool s.gpio.qBy, s.gpio.queue, 0,
        leBytes 4 (2 ^ p.val) ++ leBytes 4 (gpioIn s).toNat ++ leBytes 8 s.tb.toNat, true⟩

def gpioSetWrite (s : State) (v : Word) : State :=
  { s with gpio := { s.gpio with out := s.gpio.out ||| (v &&& gpioMask s.variant) } }
def gpioClrWrite (s : State) (v : Word) : State := { s with gpio := { s.gpio with out := s.gpio.out &&& ~~~v } }

/-- A write of a register of sixteen 2-bit fields: absent pins ignore it, reserved encodings leave their field (R58). -/
def pinFields (v : Variant) (base : Nat) (ok : Nat → Nat → Bool) (old new : Word) : Word × Bool :=
  (List.range 16).foldl (fun (acc : Word × Bool) i =>
    let f := bitsOf new (2 * i) 2
    if gpioCount v ≤ base + i then acc
    else if ok (base + i) f then
      ((acc.1 &&& ~~~(natW (3 * 4 ^ i))) ||| natW (f * 4 ^ i), acc.2)
    else (acc.1, true)) (old, false)

/-! ### Registers -/

def uartRead (s : State) (w : Who) (off : Nat) : RegRead :=
  if h : off < 0x2000 then
    let u : Fin 2 := ⟨off / 0x1000, by omega⟩
    let k := s.uart[u]
    match off % 0x1000 with
    | 0x000 => .ok s (natW (boolN k.en 31 + k.parity.toNat * 256 + boolN k.stop2 7 + boolN k.bits7 6 + boolN k.flow 5 + boolN k.txqen 4))
    | 0x004 => .ok s k.baud
    | 0x008 => .ok s (natW (k.rxthr * 256 + k.idle.toNat))
    | 0x00C => .ok s 0
    | 0x010 => .ok s 0
    | 0x014 => .ok s (natW (boolN (k.shift.isSome || !k.tx.isEmpty) 31 + boolN (!uartCts s u) 30 +
        boolN (k.flow && decide (rxCount k.rx < 56)) 29 + k.tx.length * 256 + rxCount k.rx))
    | 0x018 => .ok (updUart s u fun k => { k with evt := k.evt.read w.p.m }) k.evt.val
    | 0x01C => .ok s k.rxlost
    | _ => .bad 1
  else .bad 1

def uartCfgWrite (s : State) (m : Master) (u : Fin 2) (v : Word) : State :=
  let par := bitsOf v 8 2
  let s := if par = 3 then rsvdEnc s m (0x401C0000 + natW (0x1000 * u.val)) else updUart s u fun k => { k with parity := BitVec.ofNat 2 par }
  uartGo (updUart s u fun k => { k with
    en := v.getLsbD 31, stop2 := v.getLsbD 7, bits7 := v.getLsbD 6, flow := v.getLsbD 5, txqen := v.getLsbD 4 }) u

def uartWrite (s : State) (w : Who) (off : Nat) (v : Word) : RegWrite :=
  let m := w.p.m
  if h : off < 0x2000 then
    let u : Fin 2 := ⟨off / 0x1000, by omega⟩
    let addr : Word := 0x401C0000 + natW off
    match off % 0x1000 with
    | 0x000 => .ok (uartCfgWrite s m u v)
    | 0x004 =>
      let d := bitsOf v 4 16
      let s := if d = 0 then rsvdEnc s m addr else updUart s u fun k => { k with baud := natW (d * 16 + bitsOf k.baud 0 4) }
      .ok (updUart s u fun k => { k with baud := natW (bitsOf k.baud 4 16 * 16 + bitsOf v 0 4) })
    | 0x008 =>
      let t := bitsOf v 8 6
      let s := if 1 ≤ t ∧ t ≤ 48 then updUart s u fun k => { k with rxthr := t } else rsvdEnc s m addr
      .ok (uartBuild 70 (updUart s u fun k => { k with idle := v.setWidth 8 }) u)
    | 0x00C =>
      let s := if v.getLsbD 1 then uartFlushWrite s u else s
      .ok (if v.getLsbD 0 then uartBreakWrite s u else s)
    | 0x010 => let r := uartTxWrite s u v
               if r.2 then .ok r.1 else .wait s (.uartTx u v)
    | 0x018 => .ok (updUart s u fun k => { k with evt := k.evt.clear m v })
    | 0x014 | 0x01C => .ok s
    | _ => .bad 1
  else .bad 1

def i2cRead (s : State) (w : Who) (off : Nat) : RegRead :=
  if h : off < 0x2000 then
    let i : Fin 2 := ⟨off / 0x1000, by omega⟩
    let k := s.i2c[i]
    match off % 0x1000 with
    | 0x000 => .ok s (natW (boolN k.en 31 + k.stretch.toNat))
    | 0x004 => .ok s (natW (k.thigh.toNat * 256 + k.tlow.toNat))
    | 0x008 | 0x00C => .ok s 0
    | 0x010 => let r := i2cRxRead s i
               .ok r.1 r.2
    | 0x014 => .ok s (natW (boolN k.busy.isSome 31 + boolN k.hold 30 + k.count * 256 + k.result.toNat))
    | 0x018 => .ok (updI2c s i fun k => { k with evt := k.evt.read w.p.m }) k.evt.val
    | 0x01C => .ok s (k.queue.setWidth 32)
    | _ => .bad 1
  else .bad 1

def i2cWrite (s : State) (w : Who) (off : Nat) (v : Word) : RegWrite :=
  let m := w.p.m
  if h : off < 0x2000 then
    let i : Fin 2 := ⟨off / 0x1000, by omega⟩
    let addr : Word := 0x401D0000 + natW off
    match off % 0x1000 with
    | 0x000 =>
      let s := if bitsOf v 0 8 = 0 then rsvdEnc s m addr else updI2c s i fun k => { k with stretch := v.setWidth 8 }
      .ok (updI2c s i fun k =>
        if v.getLsbD 31 then { k with en := true } else { k with en := false, tx := [], rx := [] })
    | 0x004 =>
      let s := if bitsOf v 8 8 < 5 then rsvdEnc s m addr else updI2c s i fun k => { k with thigh := v.extractLsb' 8 8 }
      .ok (if bitsOf v 0 8 < 10 then rsvdEnc s m addr else updI2c s i fun k => { k with tlow := v.setWidth 8 })
    | 0x008 => .ok (i2cXferWrite s m i v)
    | 0x00C => .ok (i2cTxWrite s i v)
    | 0x018 => .ok (updI2c s i fun k => { k with evt := k.evt.clear m v })
    | 0x01C => .ok (updI2c s i fun k => { k with queue := v.setWidth 16 })
    | 0x010 | 0x014 => .ok s
    | _ => .bad 1
  else .bad 1

def gpioRead (s : State) (w : Who) (off : Nat) : RegRead :=
  let g := s.gpio
  match off with
  | 0x000 => .ok s g.out
  | 0x004 | 0x008 => .ok s 0
  | 0x00C => .ok s g.oe
  | 0x010 => .ok s g.od
  | 0x014 => .ok s (gpioIn s)
  | 0x030 => .ok s (g.queue.setWidth 32)
  | 0x1000 => .ok s g.func[(0 : Fin 2)]
  | 0x1004 => .ok s g.func[(1 : Fin 2)]
  | _ => match inst off 0x18 4 6 with
    | none => .bad 1
    | some j =>
      let h : Fin 2 := ⟨j.val % 2, by omega⟩
      match j.val / 2 with
      | 0 => .ok s g.pull[h]
      | 1 => .ok s g.edge[h]
      | _ => .ok { s with gpio := { g with evt := updV g.evt h fun q => q.read w.p.m } } g.evt[h].val

/-- Both UARTs see a change of the pin functions. -/
def pmuxWrite (s : State) (m : Master) (h : Fin 2) (v : Word) : State :=
  let r := pinFields s.variant (16 * h.val) (fun p f => f = 0 || (f = 1 && altDefined p)) s.gpio.func[h] v
  let s := if r.2 then rsvdEnc s m (0x401E1000 + natW (4 * h.val)) else s
  uartGo (uartGo { s with gpio := { s.gpio with func := putV s.gpio.func h r.1 } } 0) 1

def gpioWrite (s : State) (w : Who) (off : Nat) (v : Word) : RegWrite :=
  let m := w.p.m
  let g := s.gpio
  let mask := gpioMask s.variant
  match off with
  | 0x000 => .ok { s with gpio := { g with out := v &&& mask } }
  | 0x004 => .ok (gpioSetWrite s v)
  | 0x008 => .ok (gpioClrWrite s v)
  | 0x00C => .ok { s with gpio := { g with oe := v &&& mask } }
  | 0x010 => .ok { s with gpio := { g with od := v &&& mask } }
  | 0x014 => .ok s
  | 0x030 => .ok { s with gpio := { g with queue := v.setWidth 16, qBy := m } }
  | 0x1000 => .ok (pmuxWrite s m 0 v)
  | 0x1004 => .ok (pmuxWrite s m 1 v)
  | _ => match inst off 0x18 4 6 with
    | none => .bad 1
    | some j =>
      let h : Fin 2 := ⟨j.val % 2, by omega⟩
      match j.val / 2 with
      | 0 =>
        let r := pinFields s.variant (16 * h.val) (fun _ f => f ≠ 3) g.pull[h] v
        let s := if r.2 then rsvdEnc s m (0x401E0000 + natW off) else s
        .ok { s with gpio := { s.gpio with pull := putV g.pull h r.1 } }
      | 1 => .ok { s with gpio := { g with edge := putV g.edge h (pinFields s.variant (16 * h.val) (fun _ _ => true) g.edge[h] v).1 } }
      | _ => .ok { s with gpio := { g with evt := updV g.evt h fun q => q.clear m v } }

end Sys2Proof.Machine
end

