-- ==== Sys2Proof/Machine/FlashOps.lean ====
section
/-!
DEFINITION. The flash controller (14_images_settings.md, R276-R278, FLC registers), the programs and erases that Elvuk makes,
and the boot records (R280, R281, R257).
-/

namespace Sys2Proof.Machine

/-! ### Arrays -/

/-- The array of an address: 0 and 1 the program banks, 2 data flash; none outside the present arrays. -/
def flashArray (s : State) (a : Nat) : Option (Fin 3) :=
  match regionOf a with
  | .flash b off => if off < flashBank s.variant then some (if b then 1 else 0) else none
  | .dataFlash => some 2
  | _ => none

/-- The sector size of an array (R276, R277). -/
def sectorSize (k : Fin 3) : Nat := if k = 2 then 2048 else 4096

/-- The flash words that lie wholly in [lo, hi), 64 bits each (R276). -/
def wordsIn (lo hi : Nat) : List Nat :=
  let a := (lo + 7) / 8 * 8
  (List.range ((hi - a) / 8)).map fun i => a + 8 * i

/-- Whether [lo, hi) of flash can be read whole: no word that holds any of it is uncorrectable. -/
def flashReads (s : State) (lo hi : Nat) : Bool := !((s.ded ++ s.poison).any fun a => decide (lo < a + 8) && decide (a < hi))

/-- Bytes programmed at an address, with check bits that are good, or that read as uncorrectable. -/
def flashPut (s : State) (a : Nat) (bs : List Byte) (poison : Bool) : State :=
  let hi := a + bs.length
  let keep (x : Nat) : Bool := x < a || hi ≤ x
  let s := s.put a bs
  { s with sec := s.sec.filter keep, ded := (if poison then wordsIn a hi else []) ++ s.ded.filter keep, poison := s.poison.filter keep }

/-- Every accepted operation counts as it starts, and empties the read buffers (R271, R103). -/
def flashStart (s : State) : State := { s with flc := { s.flc with wcount := s.flc.wcount + 1, rbuf := [] } }

/-- Elvuk copies the count to its mirror after each operation (R271), and the read buffers are emptied again. -/
def flashEnd (s : State) : State :=
  { s with flc := { s.flc with rbuf := [] } }.put 0x1C000080 (leBytes 8 s.flc.wcount.toNat)

/-- What a failed operation leaves in its `size` bytes. -/
def flashLeft (s : State) (a size : Nat) (l : FlashLeft) : State := flashPut s a (l.bytes.take size) l.poison

/-! ### The controller -/

/-- FLC_CMD with an operation and its other bits (R59, R276). -/
def flcCommand (s : State) (op : Nat) (rsv : BitVec 28) : State :=
  let fail (r : BitVec 4) : State := { s with flc := { s.flc with result := r } }
  if rsv ≠ 0 || op = 0 || 3 ≤ op then fail 1
  else if s.flc.busy.isSome || s.elv.jobs.any (fun j => match j.stage with | .work (op :: _) _ => op.addr.isSome | _ => false) then fail 3
  else
    let a := s.flc.addr.toNat
    match flashArray s a with
    | none => fail 4
    | some k =>
      let o : FlcOp := if op = 1 then .erase (a / sectorSize k * sectorSize k)
        else .program (a / 32 * 32) (s.flc.data.toList.flatMap fun w => leBytes 4 w.toNat)
      let s := flashStart s
      { s with flc := { s.flc with busy := some o, result := 0 } }

/-- An operation of the controller as Elvuk's commands make it. -/
def FlcOp.op : FlcOp → FlashOp
  | .erase a => .erase a (if a < 0x200000 then 4096 else 2048)
  | .program a d => .line a d

/-- A flash read goes through the eight read buffers (R103). -/
def flashTouch (s : State) (a : Nat) : State :=
  match regionOf a with
  | .flash .. => { s with flc := { s.flc with rbuf := ((a / 32) :: s.flc.rbuf.filter (· ≠ a / 32)).take 8 } }
  | _ => s

/-- The operation that runs: the controller's, or the one that a command of Elvuk is at. -/
def flashRunning (s : State) : Option FlashOp :=
  (s.flc.busy.map FlcOp.op).or (s.elv.jobs.findSome? fun j => match j.stage with | .work (op :: _) _ => some op | _ => none)

/-- Whether a read of an address is held by the operation that runs (R278). -/
def flashHeld (s : State) (a : Nat) : Bool :=
  match (flashRunning s).bind FlashOp.addr with
  | some b => flashArray s a ≠ none && flashArray s a = flashArray s b
  | none => false

/-- The world and privilege of a held access: its port's, as they are now. -/
def portWho (s : State) (p : Port) : Who :=
  if h : p.m.val < 8 then
    let k := s.cores[(⟨p.m.val, h⟩ : Core)]
    ⟨p, k.world, k.priv⟩
  else if p.m.val = 9 then ⟨p, s.dma[p.ch].secure, true⟩
  else if p.m.val = 14 then ⟨p, s.dbg.level = 2, true⟩
  else ⟨p, true, true⟩

/-- Reads that the operation held are served, and fill read buffers (R103, R278). -/
def flashRelease : Nat → State → State
  | 0, s => s
  | fuel + 1, s =>
    match s.fab.blocked.findSome? fun b => match b.kind with | .flashRead a => if flashHeld s a.toNat then none else some (b, a) | _ => none with
    | none => s
    | some (b, a) =>
      -- FLASH may be draining: a read that was accepted before the drain completes (R344)
      let s' := flashTouch { s with pwr := { s.pwr with drain := 0 } } a.toNat
      let r := memRead s' { portWho s b.port with secure := b.secure } (a.toNat / 4 * 4) 4
      let r := ({ r.1 with pwr := { r.1.pwr with drain := s.pwr.drain } }, r.2)
      let v := r.2.2 >>> (8 * (a.toNat % 4))
      flashRelease fuel (if r.2.1 = 0 then completeBlocked r.1 b v else failBlocked r.1 b (BitVec.ofNat 3 r.2.1) a)

/-- The end of an operation: the counter's mirror, and the reads that it held. -/
def flashServed (s : State) : State := flashRelease (s.fab.blocked.length + 1) (flashEnd s)

def flcRead (s : State) (w : Who) (off : Nat) : RegRead :=
  let k := s.flc
  match off with
  | 0x000 => .ok s 0
  | 0x004 => .ok s k.addr
  | 0x008 => .ok { s with flc := { k with status := k.status.read w.p.m } } k.status.val
  | 0x00C => .ok s (natW (boolN k.busy.isSome 31 + k.result.toNat))
  | 0x040 => .ok s (k.wcount.extractLsb' 0 32)
  | 0x044 => .ok s (k.wcount.extractLsb' 32 32)
  | _ => match inst off 0x20 4 8 with
    | some i => .ok s k.data[i]
    | none => .bad 1

/-- The bits of a command word outside its OP field [27:24]. -/
def cmdRest (v : Word) : BitVec 28 := v.extractLsb' 28 4 ++ v.extractLsb' 0 24

def flcWrite (s : State) (w : Who) (off : Nat) (v : Word) : RegWrite :=
  let k := s.flc
  match off with
  | 0x000 =>
    let op := bitsOf v 24 4
    let t := flcCommand s op (cmdRest v)
    if cmdRest v ≠ 0 || op = 0 || 3 ≤ op then .field t else .ok t
  | 0x004 => .ok { s with flc := { k with addr := v &&& 0xFFFFFFE0 } }
  | 0x008 => .ok { s with flc := { k with status := k.status.clear w.p.m v } }
  | 0x00C | 0x040 | 0x044 => .ok s
  | _ => match inst off 0x20 4 8 with
    | some i => .ok { s with flc := { k with data := putV k.data i v } }
    | none => .bad 1

/-! ### Boot records -/

/-- A boot record (R280). -/
structure BootRec where
  seq      : Word
  active   : Byte
  trial    : Byte
  attempts : Byte
  state    : Byte
  reject   : Byte
  setmode  : Byte
  cgen     : Word
  sgen     : Word
  base     : Word
  nextgen  : Word
deriving DecidableEq, Repr

/-- The 32 bytes of a record, its CRC included (R280). -/
def BootRec.bytes (r : BootRec) : List Byte :=
  let b := leBytes 4 r.seq.toNat ++ [r.active, r.trial, r.attempts, r.state, r.reject, r.setmode, 0, 0] ++ leBytes 4 r.cgen.toNat ++
    leBytes 4 r.sgen.toNat ++ leBytes 4 r.base.toNat ++ leBytes 4 r.nextgen.toNat
  b ++ leBytes 4 (crc32 b).toNat

def bootRecOf (b : List Byte) : BootRec :=
  { seq := natW (argN b 0 4), active := b.getD 4 0, trial := b.getD 5 0, attempts := b.getD 6 0, state := b.getD 7 0
    reject := b.getD 8 0, setmode := b.getD 9 0, cgen := natW (argN b 12 4), sgen := natW (argN b 16 4), base := natW (argN b 20 4)
    nextgen := natW (argN b 24 4) }

def recAddr (copy : Bool) (slot : Nat) : Nat := 0x200000 + (if copy then 0x800 else 0) + 32 * slot

/-- [lo, hi) of flash is erased: nothing is listed there, and no word fails to read. -/
def flashBlank (s : State) (lo hi : Nat) : Bool :=
  !(s.mem.any fun c => decide (lo ≤ c.1) && decide (c.1 < hi)) && !((s.ded ++ s.poison).any fun a => decide (lo ≤ a) && decide (a < hi))

/-- The bytes of a slot of a copy, none when it is blank; a slot with an uncorrectable word is programmed and unreadable. -/
def recSlot (s : State) (copy : Bool) (slot : Nat) : Option (List Byte) :=
  let a := recAddr copy slot
  if flashBlank s a (a + 32) then none else some (memBytes s.mem a 32)

/-- The record of a copy: the one in its highest programmed slot, none when it is not valid (R281). -/
def recOfCopy (s : State) (copy : Bool) : Option BootRec :=
  match (List.range 64).reverse.find? fun k => (recSlot s copy k).isSome with
  | none => none
  | some k =>
    let a := recAddr copy k
    let b := memBytes s.mem a 32
    if (wordsIn a (a + 32)).any (wordBad s) then none
    else if natW (argN b 28 4) = crc32 (b.take 28) then some (bootRecOf b) else none

/-- The copy in use (R257). -/
def recCopy (s : State) : Option (Bool × BootRec) :=
  match recOfCopy s false, recOfCopy s true with
  | some a, some b => if a.seq.toNat < b.seq.toNat then some (true, b) else some (false, a)
  | some a, none => some (false, a)
  | none, some b => some (true, b)
  | none, none => none

def recInUse (s : State) : Option BootRec := (recCopy s).map (·.2)

/-- The lowest blank slot of a copy. -/
def recBlank (s : State) (copy : Bool) : Option Nat := (List.range 64).find? fun k => (recSlot s copy k).isNone

/-! ### The boot-attempt state (R275) -/

def bootByte (s : State) (i : Nat) (b : Byte) : State := s.put (0x1C000050 + i) [b]

/-- ATTEMPTS and RECSEQ follow the record in use. -/
def bootRecState (s : State) : State :=
  match recInUse s with
  | some r => (bootByte s 3 r.attempts).put 0x1C00005C (leBytes 4 r.seq.toNat)
  | none => (bootByte s 3 0).put 0x1C00005C [0, 0, 0, 0]

/-! ### The operations of Elvuk's commands -/

/-- What an operation does when it succeeds. -/
def FlashOp.done (s : State) : FlashOp → State
  | .erase a n => s.wipe a (a + n)
  | .line a bs => flashPut s a bs false
  | .record a bs => bootRecState (flashPut s a bs false)
  | .journal j => { s with install := { s.install with journal := some j, stage := j.stage } }
  | .check => s
  | .full => s

/-- An operation whose end the flash decides: it can fail, and is numbered. -/
def FlashOp.numbered : FlashOp → Bool
  | .erase .. | .line .. | .record .. => true
  | _ => false

/-- What an operation that fails, or that a reset cuts, leaves in its line or sector. It never leaves what it should have: part of a line
that would read back right is blank, and so is the start of a slot or of a settings sector of which an erase has left anything else than it
held, and a copy area that would hold a record (R281, R287, R289, R296; log entry 56). -/
def FlashOp.left (s : State) (l : FlashLeft) : FlashOp → State
  | .erase a n =>
    let t := flashLeft s a n l
    if a < 0x200000 then (if a % flashBank s.variant = 0 then t.wipe a (a + 4) else t)
    else if a < 0x201000 then (if (recOfCopy t (decide (0x200800 ≤ a))).isSome then t.wipe a (a + n) else t)
    else if decide (memBytes t.mem a n = memBytes s.mem a n) && !l.poison then s
    else t.wipe a (a + 16)
  | .line a bs | .record a bs =>
    let t := flashLeft s a bs.length l
    if decide (memBytes t.mem a bs.length = bs) && flashReads t a (a + bs.length) then t.wipe a (a + bs.length) else t
  | _ => s

/-- An operation starts: it counts (R271). -/
def flashBegin (s : State) : List FlashOp → State
  | op :: _ => if op.addr.isSome then flashStart s else s
  | [] => s

/-- The operation numbered `i` ends, and whether it succeeded. -/
def flashPerform (s : State) (fail : Option FlashFail) (i : Nat) (op : FlashOp) : State × Bool :=
  match op, fail with
  | .check, _ => (s, true)
  | .full, _ => (s, false)
  | op, some f => if op.numbered && decide (f.index = i) then (flashServed (op.left s f.left), false) else (flashServed (op.done s), true)
  | op, none => (flashServed (op.done s), true)

/-- At most `n` operations end, numbered from `i`, each of which begins as the one before it ends (R235): what is left of them, none when
they are over, and whether all have succeeded. `check` is what a read-back finds. -/
def flashRow (check : State → State × Bool) (fail : Option FlashFail) : Nat → Nat → State → List FlashOp → State × Option (List FlashOp) × Bool
  | _, _, s, [] => (s, none, true)
  | _, 0, s, ops => (s, some ops, true)
  | i, n + 1, s, op :: r =>
    let p := if op = .check then check s else flashPerform s fail i op
    if p.2 then flashRow check fail (if op.numbered then i + 1 else i) n (flashBegin p.1 r) r else (p.1, none, false)

/-- Operations made one after another, none of which fails. -/
def flashAll (s : State) (ops : List FlashOp) : State := (flashRow (fun s => (s, true)) none 0 ops.length (flashBegin s ops) ops).1

/-- What a reset leaves of an operation that it cuts (R289, R364, log entry 11). -/
def FlashOp.cut (s : State) (op : FlashOp) : State :=
  match op.addr with
  | some a =>
    let k := s.flc.wcount.toNat
    op.left s ⟨(List.range 4096).map fun i => Config.cutByte k (a + i), Config.cutPoison k⟩
  | none => s

/-- The controller's operation ends (R278): as intended, or with what it left. The erase of a copy area returns its leave (R281). -/
def flcDone (s : State) (fail : Option FlashLeft) : State :=
  match s.flc.busy with
  | none => s
  | some o =>
    let s := match fail with | none => o.op.done s | some l => o.op.left s l
    let s := { s with flc := { s.flc with busy := none, result := if fail.isSome then 2 else 0
                                          status := s.flc.status.raise (if fail.isSome then 1 else 0) } }
    let s := flashServed s
    match s.elv.clean with
    | some t => leaveRelease { s with elv := { s.elv with clean := none } } t
    | none => s

/-! ### Writing a record (R281) -/

/-- A copy area that went out of use is full: it is to be erased before another record is written. -/
def recFull (s : State) : Option Bool :=
  match recCopy s with
  | some (used, _) => if (recBlank s (!used)).isNone then some (!used) else none
  | none => none

/-- The operations that write a new record, whose SEQ follows that of the record in use, which must exist. -/
def recPlan (s : State) (r : BootRec) : Option (List FlashOp) :=
  match recCopy s with
  | none => none
  | some (used, old) =>
    let k := recBlank s (!used)
    some ((if k.isNone then [.erase (recAddr (!used) 0) 2048] else []) ++ [.record (recAddr (!used) (k.getD 0)) { r with seq := old.seq + 1 }.bytes])

/-- The record in use is a trial of a slot, not rejected (14, "Trial and confirmation"). -/
def recTrialOf (s : State) (slot : Bool) : Bool :=
  match recInUse s with
  | some r => r.state = 1 && r.reject = 0 && r.trial = (if slot then 1 else 0)
  | none => false

/-- Whether the running image is TRIAL. -/
def runsTrial (s : State) : Bool := match s.boot.slot with | some b => recTrialOf s b | none => false

/-- The slot that an install targets (R285). -/
def installTarget (s : State) : Bool :=
  match s.boot.slot with
  | some b => !b
  | none => match recInUse s with | some r => r.active ≠ 1 | none => false

def slotBase (slot : Bool) : Nat := if slot then 0x100000 else 0

end Sys2Proof.Machine
end

