-- ==== Sys2Proof/Machine/OtpOps.lean ====
section
/-!
DEFINITION. OTP words, their margins, programming, reinforcement and scanning (16_keys_crypto_otp.md, R332-R339), the OTP
configuration that other rules read (R314, R363), and the registers of the OTP and KEY blocks.
-/

namespace Sys2Proof.Machine

/-- The number of 1 bits. -/
def weight (v : BitVec 7) : Nat := ((List.range 7).filter fun i => v.getLsbD i).length

/-- Columns of a SEC-DED code for 32 data bits: pairwise different, each of odd weight and none with a single bit, so that no error of one
bit looks like one of two (R332). -/
def secDed (l : List (BitVec 7)) : Bool := l.length = 32 && l.all (fun v => weight v % 2 = 1 && weight v ≠ 1) && decide l.Nodup

/-- One such list: the first 32 columns of weight 3. -/
def plainColumns : List (BitVec 7) := (((List.range 128).map (BitVec.ofNat 7)).filter fun v => weight v = 3).take 32

/-- The columns of the part's code (log entry 4). -/
def otpColumns : List (BitVec 7) :=
  let l := (List.range 32).map Config.otpColumn
  if secDed l then l else plainColumns

/-- The 7 check bits of a data word. -/
def otpCheck (d : Word) : BitVec 7 := otpColumns.zipIdx.foldl (fun v p => if d.getLsbD p.2 then v ^^^ p.1 else v) 0

/-- The codeword of a data word (R332); blank is the codeword of 0. -/
def otpCode (d : Word) : BitVec 39 := if d = 0 then 0 else otpCheck d ++ d

/-- The outcome of SEC-DED decoding: no correction, one bit corrected, or a double error. -/
inductive OtpRead where
  | clean (d : Word)
  | fixed (d : Word)
  | bad
deriving DecidableEq, Repr

def otpDecode (v : BitVec 39) : OtpRead :=
  let isCode (x : BitVec 39) : Bool := x = otpCode (x.setWidth 32)
  if isCode v then .clean (v.setWidth 32)
  else
    match (List.range 39).find? fun i => isCode (v ^^^ BitVec.ofNat 39 (2 ^ i)) with
    | some i => .fixed ((v ^^^ BitVec.ofNat 39 (2 ^ i)).setWidth 32)
    | none => .bad

/-- The marker word of a lifecycle state 1-3 (R297): word 0x000 + state - 1. -/
def lifeMarker (t : Nat) : Word := if t = 1 then 0x4C564544 else if t = 2 then 0x444C4946 else 0x4E525452

/-- The cells of a word. -/
def otpWordOf (o : Otp) (w : Nat) : OtpWord := (o.cells.find? fun x => x.w = w).getD ⟨w, 0, 0, 0⟩

/-- The cell list with one word put in, in rising order. -/
def otpIns : List OtpWord → OtpWord → List OtpWord
  | [], x => [x]
  | y :: r, x => if y.w = x.w then x :: r else if x.w < y.w then x :: y :: r else y :: otpIns r x

/-- One pulse over the cells of `mask` (R334, R335, R337): they carry charge from then on, and only they can begin to read 1; what read 1
stays so. None when the outcome is impossible. -/
def otpPulse (x : OtpWord) (mask : BitVec 39) (p : Pulse) : Option OtpWord :=
  if p.normal &&& ~~~(x.normal ||| mask) = 0 ∧ p.strict &&& ~~~(x.strict ||| mask) = 0 ∧ x.normal &&& ~~~p.normal = 0 ∧
      x.strict &&& ~~~p.strict = 0 ∧ p.strict &&& ~~~p.normal = 0 then
    some { x with normal := p.normal, strict := p.strict, charge := x.charge ||| mask }
  else none

/-- The cells that the try after `made` ones pulses: the first try of a program every 1-bit of its codeword, a later one those that do not
yet read 1 at STRICT (R334); a reinforcement those that read 1 at NORMAL (R335). -/
def progMask (d : Word) (made : Nat) (x : OtpWord) : BitVec 39 := if made = 0 then otpCode d else otpCode d &&& ~~~x.strict
def reinMask (_ : Nat) (x : OtpWord) : BitVec 39 := x.normal

/-- What the verify after the `made`-th try finds: the RESULT code, none when another try follows (R334, R335): 0 PASS, 1 FAIL, 2 MARGINAL. -/
def progVerify (d : Word) (made : Nat) (y : OtpWord) : Option Nat :=
  let c := otpCode d
  if y.strict &&& c = c && y.normal &&& ~~~c = 0 then some 0 else if 8 ≤ made then some (if y.normal = c then 2 else 1) else none
def reinVerify (made : Nat) (y : OtpWord) : Option Nat :=
  if y.strict = y.normal && (match otpDecode y.normal with | .clean _ => true | _ => false) then some 0 else if 8 ≤ made then some 2 else none

/-- Tries made one after another, `made` before them, until the verify ends them: the word, the tries made in all and the RESULT code, none
while more are to come. None when the pulses are not an outcome that the tries can have. -/
def otpTries (mask : Nat → OtpWord → BitVec 39) (verify : Nat → OtpWord → Option Nat) : Nat → OtpWord → List Pulse → Option (OtpWord × Nat × Option Nat)
  | made, x, [] => some (x, made, none)
  | made, x, p :: r =>
    match otpPulse x (mask made x) p with
    | none => none
    | some y =>
      match verify (made + 1) y with
      | some code => some (y, made + 1, some code)
      | none => otpTries mask verify (made + 1) y r

/-- The tries of PROGRAM and of REINFORCE. -/
def progTries (d : Word) (made : Nat) (x : OtpWord) (pulses : List Pulse) : Option (OtpWord × Nat × Option Nat) :=
  otpTries (progMask d) (progVerify d) made x pulses
def reinTries (made : Nat) (x : OtpWord) (pulses : List Pulse) : Option (OtpWord × Nat × Option Nat) :=
  otpTries reinMask reinVerify made x pulses

/-- What an operation ends with: the word, the RESULT code, the tries. None when the pulses do not bring it to its end. -/
abbrev OtpEnd := Option (OtpWord × Nat × Nat)

def otpEnded : Option (OtpWord × Nat × Option Nat) → OtpEnd
  | some (y, made, some code) => some (y, code, made)
  | _ => none

/-- PROGRAM (R334): 0 PASS, 1 FAIL, 2 MARGINAL, 3 WORD_USED. -/
def otpProgram (x : OtpWord) (d : Word) (pulses : List Pulse) : OtpEnd :=
  if x.normal ≠ 0 then some (x, 3, 0) else otpEnded (progTries d 0 x pulses)

/-- Why a REINFORCE gives no pulse (R335): 4 BLANK, 1 FAIL for a word that is uncorrectable. -/
def reinBarred (x : OtpWord) : Option Nat := if x.normal = 0 then some 4 else if otpDecode x.normal = .bad then some 1 else none

/-- REINFORCE (R335): 4 BLANK, 1 FAIL, 0 PASS, 2 MARGINAL. -/
def otpReinforce (x : OtpWord) (pulses : List Pulse) : OtpEnd :=
  match reinBarred x with
  | some code => some (x, code, 0)
  | none => otpEnded (reinTries 0 x pulses)

/-- SCAN_WORD (R336, R337). -/
def otpClass (x : OtpWord) : Nat :=
  if x.charge = 0 then 0
  else match otpDecode x.normal with
    | .bad => 4
    | .fixed _ => 3
    | .clean _ => if x.strict = x.charge then 1 else 2

def otpPut (s : State) (x : OtpWord) : State := { s with otp := { s.otp with cells := otpIns s.otp.cells x } }

/-- The words that go to the key store only (R316). -/
def otpSecret (w : Nat) : Bool := 0x10 ≤ w && w ≤ 0x17

/-- The value of a word 0x000-0x0FF as Elvuk has it: as read at order 2 of R253, or as it reads now when it was programmed since
(R339). -/
def otpVal (s : State) (w : Nat) : Word :=
  if s.otp.fresh.contains w then
    (match otpDecode (otpWordOf s.otp w).normal with | .clean d => d | .fixed d => d | .bad => 0)
  else ((s.otp.loaded.find? fun p => p.1 = w).map (·.2)).getD 0

def otpVals (s : State) (w k : Nat) : List Word := (List.range k).map fun i => otpVal s (w + i)

/-- Whether a group of words holds anything (R259, R245). -/
def otpProgrammed (s : State) (w k : Nat) : Bool := (otpVals s w k).any (· ≠ 0)

/-- The supply set points that OTP gives (R363), with their defaults. -/
def otpHalf (s : State) (w : Nat) (hi : Bool) (dflt : Nat) : Nat :=
  let n := bitsOf (otpVal s w) (if hi then 16 else 0) 16
  if n = 0 then dflt else n

/-- The supply of NAP (R363). -/
def napMv (s : State) : Nat := max 620 (otpHalf s 0x4D false 620)

/-- VDDC is below the 0.90 V that programming needs (R338): the set point, when one has been set, or the supply of NAP. -/
def vddLow (s : State) : Bool :=
  (s.pwr.mode = .nap && s.pwr.vset ≠ s.pwr.napVset && napMv s < 900) || (s.pwr.setPoint ≠ 0 && s.pwr.setPoint.toNat < 900)

/-- A record of a weak word (R254, R336). -/
def otpWeakRec (s : State) (w cls : Nat) : State :=
  ecBuild s 0x0A (if cls = 4 then 1 else 0) 15 true 0 (natW w) (natW cls)

/-! ### The controller -/

/-- OTP_CMD with an operation and its other bits (R59, R338, R339). -/
def otpCommand (s : State) (op : Nat) (rest : BitVec 28) : State :=
  let fail (r : BitVec 4) : State := { s with otp := { s.otp with result := r } }
  if op = 0 || 6 ≤ op || rest.extractLsb' 10 18 ≠ 0 then fail 6
  else if s.otp.busy.isSome then fail 7
  else if (op = 3 || op = 4) && vddLow s then fail 10
  else { s with otp := { s.otp with busy := some (BitVec.ofNat 4 op, (rest.extractLsb' 0 10).toNat) } }

/-- The result of a READ at one margin: RESULT and data. -/
def otpReadOut (w : Nat) (v : BitVec 39) : Nat × Word :=
  if otpSecret w then (5, 0)
  else match otpDecode v with
    | .clean d => (0, d)
    | .fixed d => (9, d)
    | .bad => (8, 0)

/-- An operation of the controller ends (R333-R336). -/
def otpDone (s : State) (pulses : List Pulse) : State :=
  match s.otp.busy with
  | none => s
  | some (op, w) =>
    let x := otpWordOf s.otp w
    let fin (s : State) (r : Nat) (tries : Nat) : State :=
      { s with otp := { s.otp with busy := none, result := BitVec.ofNat 4 r, tries := BitVec.ofNat 4 tries
                                   status := s.otp.status.raise (if r = 0 ∨ r = 9 then 0 else 1) } }
    match op.toNat with
    | 1 => let r := otpReadOut w x.normal
           fin { s with otp := { s.otp with rdata := r.2 } } r.1 0
    | 2 => let r := otpReadOut w x.strict
           fin { s with otp := { s.otp with rdata := r.2 } } r.1 0
    | 5 => fin { s with otp := { s.otp with cls := BitVec.ofNat 4 (otpClass x) } } 0 0
    | o =>
      match (if o = 3 then otpProgram x s.otp.wdata pulses else otpReinforce x pulses) with
      | none => s
      | some (y, r, t) =>
        fin { otpPut s y with otp := { (otpPut s y).otp with fresh := w :: s.otp.fresh.filter (· ≠ w) } } r t

def otpRegRead (s : State) (w : Who) (off : Nat) : RegRead :=
  let k := s.otp
  match off with
  | 0x000 => .ok s 0
  | 0x004 => .ok s k.wdata
  | 0x008 => .ok s k.rdata
  | 0x00C => .ok s (natW (boolN k.busy.isSome 31 + k.result.toNat * 2 ^ 24 + k.tries.toNat * 65536 + k.cls.toNat * 256))
  | 0x010 => .ok { s with otp := { k with status := k.status.read w.p.m } } k.status.val
  | _ => .bad 1

def otpRegWrite (s : State) (w : Who) (off : Nat) (v : Word) : RegWrite :=
  let k := s.otp
  match off with
  | 0x000 =>
    let op := bitsOf v 24 4
    let t := otpCommand s op (cmdRest v)
    if op = 0 || 6 ≤ op || (cmdRest v).extractLsb' 10 18 ≠ 0 then .field t else .ok t
  | 0x004 => .ok { s with otp := { k with wdata := v } }
  | 0x010 => .ok { s with otp := { k with status := k.status.clear w.p.m v } }
  | 0x008 | 0x00C => .ok s
  | _ => .bad 1

/-! ### Keys -/

/-- K_ROOT as its eight OTP words give it (R315). -/
def otpRoot (o : Otp) : List Byte :=
  (List.range 8).flatMap fun i =>
    let d : Word := match otpDecode (otpWordOf o (0x10 + i)).normal with | .clean d => d | .fixed d => d | .bad => 0
    leBytes 4 d.toNat

/-- The diversifier of R317. -/
def keyDiv (life : BitVec 2) : Nat := if life = 3 then 0x5254524E else 0

def asciiBytes (s : String) : List Byte := s.toList.map fun c => natB c.toNat

/-- The internal keys (R318), and the lock (R319). In BLANK there are none (R298). -/
def keyDeriveAll (s : State) : State :=
  let k := s.key
  let d := keyDiv s.boot.life
  let mk (l : String) (bits : Nat) : List Byte := kdf k.root (asciiBytes l) d 3 bits
  let k := if s.boot.life = 0 then { k with setEnc := [], setMac := [], sealKey := [], drv := [] }
    else { k with setEnc := mk "BL24/SETTINGS/EN" 128, setMac := mk "BL24/SETTINGS/MA" 256, sealKey := mk "BL24/QUICK-SEAL/" 256
                  drv := mk "BL24/FW-HANDLES/" 256 }
  { s with key := { k with root := [], lock := true } }

/-- A slot's next issue count (R320). -/
def keyGenNext (g : Nat) : Nat := if 4095 ≤ g then 1 else g + 1

/-- The handle that KEY_DERIVE issues (R320), none when all slots are held. -/
def keyIssue (s : State) (c : Core) (purpose : BitVec 2) (label : List Byte) : State × Option Nat :=
  match (List.finRange 16).find? fun i => !s.key.slots[i].held with
  | none => (s, none)
  | some i =>
    let g := keyGenNext s.key.slots[i].gen
    let bits := if purpose = 0 then 128 else 256
    let key := kdf s.key.drv label (keyDiv s.boot.life) (natB purpose.toNat) bits
    ({ s with key := { s.key with slots := putV s.key.slots i ⟨true, g, purpose, c, key⟩ } }, some (g * 16 + i.val))

def keyRead (s : State) (off : Nat) : RegRead :=
  let k := s.key
  if off = 0x000 then .ok s (natW (boolN k.lock 0))
  else if off = 0x004 then .ok s (natW ((List.finRange 16).map fun i => boolN k.slots[i].held i.val).sum)
  else match inst off 0x100 4 16 with
    | some i =>
      let x := k.slots[i]
      .ok s (if x.held then natW (x.gen * 2 ^ 20 + x.purpose.toNat * 65536 + x.owner.val) else 0)
    | none => .bad 1

def keyWrite (s : State) (off : Nat) (v : Word) : RegWrite :=
  if off = 0x000 then .ok (if v.getLsbD 0 then { s with key := { s.key with lock := true, root := [] } } else s)
  else if off = 0x004 ∨ (inst off 0x100 4 16).isSome then .ok s
  else .bad 1

end Sys2Proof.Machine
end

