-- ==== Sys2Proof/Machine/LinkOps.lean ====
section
/-!
DEFINITION. The host link (11_host_link_mailboxes.md): transactions, Perup frames and their checks, the channels with their
sequences and credits, replies and events, and the registers of the HLINK block.
-/

namespace Sys2Proof.Machine

/-! ### Frames (R207-R209) -/

/-- The bytes of a frame. -/
def Perup.bytes (p : Perup) : List Byte :=
  let b := leBytes 2 p.payload.length ++ [p.chseq] ++ leBytes 2 p.command.toNat ++ p.payload
  0xA7 :: b ++ leBytes 2 (crc16 b).toNat

/-- The errors of R209 by their numbers. -/
inductive FrameErr where
  | sync | length | short | long | crc | rxfull | sequence | noCredit | notLive
deriving DecidableEq, Repr

def FrameErr.code : FrameErr → BitVec 4
  | .sync => 1 | .length => 2 | .short => 3 | .long => 4 | .crc => 5 | .rxfull => 6 | .sequence => 7 | .noCredit => 8 | .notLive => 9

/-- The first of the checks 1 to 5 of R209 that a received frame fails; a transaction without any byte is SHORT. -/
def frameErr (bs : List Byte) : Option FrameErr :=
  let n := argN bs 1 2
  if bs = [] then some .short
  else if bs.headD 0 ≠ 0xA7 then some .sync
  else if 3 ≤ bs.length ∧ 1024 < n then some .length
  else if bs.length < 3 ∨ bs.length < 8 + n then some .short
  else if 8 + n < bs.length then some .long
  else if (crc16 ((bs.drop 1).take (5 + n))).toNat ≠ argN bs (6 + n) 2 then some .crc
  else none

/-- The fields of a frame whose checks have passed. -/
def frameOf (bs : List Byte) : Perup :=
  { chseq := bs.getD 3 0, command := BitVec.ofNat 16 (argN bs 4 2), payload := (bs.drop 6).take (argN bs 1 2) }

def Perup.chan (p : Perup) : Fin 4 := Fin.ofNat 4 (p.chseq.toNat / 64)
def Perup.seq (p : Perup) : BitVec 6 := p.chseq.setWidth 6

def chSeq (ch : Fin 4) (seq : BitVec 6) : Byte := BitVec.ofNat 2 ch.val ++ seq

/-! ### State of the link -/

def updLink (s : State) (f : Link → Link) : State := { s with link := f s.link }
def updChan (s : State) (c : Fin 4) (f : LinkChan → LinkChan) : State := updLink s fun k => { k with chan := updV k.chan c f }

/-- The link is in NAP, or has stopped serving for it (R223, R349). -/
def linkAsleep (s : State) : Bool := s.pwr.mode = .nap || s.pwr.entering = some .nap

/-- The link answers transactions (R221, R223). -/
def linkServes (s : State) : Bool := s.pwr.mode = .run && s.pwr.entering.isNone && s.link.up

/-- R222 applies. -/
def linkBooting (s : State) : Bool := s.link.up && !curtainOpen s

/-- nHATN is driven low (R218). -/
def linkAttn (s : State) : Bool := linkServes s && !s.link.tx.isEmpty

/-- What the BL24 drives while the host clocks `n` bytes after the opcode of an operation that reads `bs`: under SPI a turnaround byte comes
first; past the last data byte it sends 0x00 (R205). -/
def linkDrive (s : State) (n : Nat) (bs : List Byte) : State :=
  updLink s fun k => { k with out := (if k.mode then [] else [0]) ++ (bs ++ List.replicate n 0).take n, bus := .driven }

/-- What it drives while the host sends `n` bytes: 0x00 under SPI, nothing under I2C (R204, R205), with the acknowledge `nack` left out
under I2C. -/
def linkZeros (s : State) (n : Nat) (nack : LinkBus) : State :=
  updLink s fun k => { k with out := if k.mode then [] else List.replicate n 0, bus := if k.mode then nack else .driven }

/-- A transaction of `n` bytes that the link does not serve: it wakes the device from NAP, and reads 0x00 under SPI (R223, R350); with the
link down, or in STANDBY, nothing is driven; an I2C address is not acknowledged (R221, R223). -/
def linkUnserved (s : State) (n : Nat) : State :=
  if linkAsleep s then wakeBy (linkZeros s n .nackAddress) 9
  else updLink s fun k => { k with out := [], bus := if k.mode then .nackAddress else .highZ }

/-- A frame is rejected (R209). -/
def frameReject (s : State) (e : FrameErr) : State :=
  updLink s fun k =>
    let k := { k with lastErr := e.code, err := true, errEver := true, evt := k.evt.raise 1 }
    match e with
    | .crc => { k with errCrc := k.errCrc + 1 }
    | .sync | .length | .short | .long | .rxfull => { k with errFrame := k.errFrame + 1 }
    | .sequence | .noCredit => { k with errSeq := k.errSeq + 1 }
    | .notLive => k

/-! ### Transactions (R204-R206, R216-R219) -/

/-- How a frame is rejected that arrives while the link is down: its sequence and its credit are judged first (R209). -/
def downErr (s : State) (p : Perup) : FrameErr :=
  let c := s.link.chan[p.chan]
  let d := (c.e - p.seq).toNat
  if 3 < d then .sequence else if d = 0 ∧ c.credits = 0 then .noCredit else .notLive

/-- WRITE_FRAME. With the link down a frame still comes in over SPI, where the part selects itself; under I2C its address is not
acknowledged, and nothing is received (R209, R221). -/
def linkWrite (s : State) (bytes : List Byte) : State :=
  if linkAsleep s || s.pwr.mode ≠ .run || (!linkServes s && s.link.mode) then linkUnserved s bytes.length
  else
    let full := decide (2 ≤ s.link.rx.length)
    let t := if linkServes s then linkZeros s bytes.length (if full then .nackFrame else .driven) else linkUnserved s bytes.length
    match frameErr bytes with
    | some e => frameReject t e
    | none =>
      if full then frameReject t .rxfull
      else if !linkServes s then frameReject t (downErr s (frameOf bytes))
      else updLink t fun k => { k with rx := k.rx ++ [frameOf bytes] }

/-- The credit of a reply comes back when it has been read for the first time (R212). -/
def linkRead1 (s : State) (p : Perup) : State :=
  if s.link.chan[p.chan].unread.contains p.seq then
    updChan s p.chan fun c => { c with unread := c.unread.erase p.seq, credits := c.credits + 1 }
  else s

/-- READ_FRAME with `n` data bytes clocked. -/
def linkRead (s : State) (n : Nat) : State :=
  if !linkServes s then linkUnserved s n
  else
    match s.link.tx with
    | [] => linkDrive s n []
    | f :: rest =>
      let b := f.frame.bytes
      let s := linkDrive s n b
      if n < b.length then s
      else
        let s := updLink s fun k => { k with tx := rest }
        if f.event then s else linkRead1 s f.frame

/-- FLAGS of R219; with `ever`, before the host's clearing. -/
def linkFlags (s : State) (ever : Bool) : Nat :=
  let k := s.link
  boolN (!k.tx.isEmpty) 0 + boolN (linkBooting s) 1 + boolN (if ever then k.evtLostEver else k.evtLost) 2 +
    boolN (if ever then k.errEver else k.err) 3 + boolN (decide (2 ≤ k.rx.length)) 4

/-- The 8 bytes of READ_STATUS (R219). -/
def linkStatus (s : State) : List Byte :=
  let k := s.link
  [natB (linkFlags s false), natB ((List.finRange 4).map fun c => k.chan[c].credits * 4 ^ c.val).sum] ++
    (k.chan.toList.map fun c => c.e.setWidth 8) ++ [natB (min k.tx.length 255), k.lastErr.setWidth 8]

/-- READ_STATUS with `n` data bytes clocked. The two flags clear once the byte that holds them has been sent (log entry 55). -/
def linkReadStatus (s : State) (n : Nat) : State :=
  if !linkServes s then linkUnserved s n
  else
    let t := linkDrive s n (linkStatus s)
    if n = 0 then t else updLink t fun k => { k with evtLost := false, err := false }

/-- An opcode without action, with `n` bytes clocked after it, is counted (R204). -/
def linkBadOp (s : State) (n : Nat) : State :=
  if !linkServes s then linkUnserved s n
  else updLink (linkZeros s n .nackOpcode) fun k => { k with errFrame := k.errFrame + 1 }

/-- LINK_RESET (R204, R216). -/
def linkReset (s : State) (confirm : List Byte) : State :=
  if !linkServes s then linkUnserved s confirm.length
  else if confirm.take 2 ≠ [0x4C, 0x52] then linkBadOp s confirm.length
  else
    updLink (linkZeros s confirm.length .driven) fun k => { k with
      tx := [], lastErr := 0, evt := k.evt.raise 0
      chan := k.chan.map fun c => { c with
        e := 0, kept := [], unread := [], credits := 3 - c.reqs.length
        reqs := c.reqs.map fun q => { q with drop := true } } }

/-! ### Acceptance, replies and events (R210-R215, R220, R222) -/

/-- A frame is placed for transmission (R217). -/
def linkPlace (s : State) (f : TxFrame) : State := updLink s fun k => { k with tx := k.tx ++ [f] }

/-- The Prompter takes a received frame (R211, R212). -/
def linkAccept (s : State) : State :=
  match s.link.rx with
  | [] => s
  | p :: rest =>
    if !linkServes s then s
    else
      let s := updLink s fun k => { k with rx := rest }
      let c := s.link.chan[p.chan]
      let d := (c.e - p.seq).toNat
      if d = 0 then
        if c.credits = 0 then frameReject s .noCredit
        else updChan s p.chan fun c => { c with
          e := c.e + 1, credits := c.credits - 1, reqs := c.reqs ++ [{ seq := p.seq, command := p.command, args := p.payload }] }
      else if d ≤ 3 then
        let s := updLink s fun k => { k with errDup := k.errDup + 1 }
        match c.kept.find? fun r => r.seq = p.seq with
        | some r => linkPlace s ⟨r, false⟩
        | none => s
      else frameReject s .sequence

/-- The oldest request of a channel is answered: its reply is kept and placed, or discarded after a LINK_RESET (R210, R214-R216). -/
def linkReply (s : State) (ch : Fin 4) (status : Nat) (results : List Byte) : State :=
  match s.link.chan[ch].reqs with
  | [] => s
  | q :: rest =>
    let s := updChan s ch fun c => { c with reqs := rest }
    if q.drop then updChan s ch fun c => { c with credits := c.credits + 1 }
    else
      let p : Perup := { chseq := chSeq ch q.seq, command := q.command, payload := leBytes 2 status ++ results }
      let s := updChan s ch fun c => { c with kept := (p :: c.kept).take 3, unread := c.unread ++ [q.seq] }
      linkPlace s ⟨p, false⟩

/-- An event frame is placed, or dropped when 16 wait (R220). With the link down none is placed. -/
def linkEventNow (s : State) (code : BitVec 16) (data : List Byte) : State :=
  let k := s.link
  if !k.up then s
  else if 16 ≤ (k.tx.filter (·.event)).length then
    updLink s fun k => { k with evtLost := true, evtLostEver := true, evtDropped := k.evtDropped + 1 }
  else
    let p : Perup := { chseq := chSeq k.evtch.toFin k.evtSeq, command := code, payload := data }
    linkPlace (updLink s fun k => { k with evtSeq := k.evtSeq + 1 }) ⟨p, true⟩

/-- An event of the device: CURTAIN_OPEN comes first, so that one due earlier waits for it (R222). -/
def linkEvent (s : State) (code : BitVec 16) (data : List Byte) : State :=
  if linkBooting s then updLink s fun k => { k with early := k.early ++ [(code, data)] } else linkEventNow s code data

/-- CURTAIN_OPEN, and the events that waited for it (R222, R266). -/
def linkOpened (s : State) (slot : Byte) : State :=
  let s := linkEventNow s 0x8001 [slot]
  let l := s.link.early
  l.foldl (fun s e => linkEventNow s e.1 e.2) (updLink s fun k => { k with early := [] })

/-! ### Registers -/

def hlinkRead (s : State) (w : Who) (off : Nat) : RegRead :=
  let k := s.link
  match off with
  | 0x000 => .ok s (natW (k.userto * 2 ^ 24 + k.evtch.toNat * 256 + boolN k.mode 0))
  | 0x004 => .ok s (natW (boolN k.up 31 + boolN (linkBooting s) 30 + k.lastErr.toNat * 65536 + min k.tx.length 255 * 256 + linkFlags s true))
  | 0x020 => .ok s k.errCrc
  | 0x024 => .ok s k.errFrame
  | 0x028 => .ok s k.errSeq
  | 0x02C => .ok s k.errDup
  | 0x030 => .ok s k.errStray
  | 0x034 => .ok s k.evtDropped
  | 0x040 => .ok { s with link := { k with evt := k.evt.read w.p.m } } k.evt.val
  | _ => match inst off 0x010 4 4 with
    | some c =>
      let x := k.chan[c]
      .ok s (natW (x.e.toNat * 65536 + x.credits * 256 + boolN (x.reqs.any fun q => q.user.isSome) 0))
    | none => .bad 1

def hlinkWrite (s : State) (w : Who) (off : Nat) (v : Word) : RegWrite :=
  let k := s.link
  match off with
  | 0x000 =>
    let n := bitsOf v 24 8
    let s := if n = 0 then rsvdEnc s w.p.m 0x40180000 else { s with link := { s.link with userto := n } }
    .ok { s with link := { s.link with evtch := v.extractLsb' 8 2 } }
  | 0x040 => .ok { s with link := { k with evt := k.evt.clear w.p.m v } }
  | 0x004 | 0x020 | 0x024 | 0x028 | 0x02C | 0x030 | 0x034 => .ok s
  | _ => if (inst off 0x010 4 4).isSome then .ok s else .bad 1

end Sys2Proof.Machine
end

