-- ==== Sys2Proof/Machine/CueRegs.lean ====
section
/-!
DEFINITION. The commands and registers of the Cue engine (R167, R180, R535, CUE registers), the allocation, the free and the
registers of the buffer pool (R183-R198, POOL registers), and the registers of the error collector (EC registers).
-/

namespace Sys2Proof.Machine

/-! ### Cue engine commands -/

/-- A user queue that is closed. -/
def queueClosed (x : Queue) : Bool := !isDevice x.num && !x.isOpen

/-- The Changeable column of R168: LIMIT, WAKE, consumer. -/
def queueChangeable (q : Nat) : Bool × Bool × Bool :=
  if q = 0x01 then (false, false, true)
  else if (0x10 ≤ q ∧ q ≤ 0x27) ∨ (0x30 ≤ q ∧ q ≤ 0x33) ∨ (0x40 ≤ q ∧ q ≤ 0x43) ∨ q = 0x50 ∨ q = 0x51 ∨ (0x70 ≤ q ∧ q ≤ 0x77) ∨
      q = 0x80 ∨ (0x90 ≤ q ∧ q ≤ 0x93) then (true, true, true)
  else if q = 0x60 then (false, true, true)
  else if 0xA0 ≤ q ∧ q ≤ 0xA7 then (false, true, false)
  else (false, false, false)

/-- CUE_RDATA0 of a queue. -/
def queueWord (x : Queue) : Word :=
  natW (boolN x.wake 31 + boolN x.secure 30 + x.pmode.toNat * 2 ^ 28 + x.producer.toNat * 2 ^ 24 + x.consumer.toNat * 2 ^ 20 +
    boolN x.bound.isSome 5 + boolN x.isOpen 4 + x.limit.toNat)

/-- Whether the reserved-field check of R59 rejects a command (R535). -/
def cueBadField (op : Nat) (rsv : BitVec 12) (q : BitVec 16) (a0 a1 : Word) : Bool :=
  rsv ≠ 0 || op = 0 || 8 ≤ op ||
    ((op = 1 || op = 3 || op = 4) && decide (bitsOf a0 6 14 ≠ 0)) ||
    ((op = 1 || (op = 4 && !isDevice q)) && (bitsOf a0 28 2 = 3 || bitsOf a0 24 4 = 15)) ||
    (op = 7 && (q ≠ 0 || decide (bitsOf a1 5 27 ≠ 0) || decide (bitsOf a1 0 5 < 8) || decide (16 < bitsOf a1 0 5)))

/-- Every buffer of a queue's messages returns to FREE and the queue is empty (R180 FLUSH). -/
def queueFlush (s : State) (q : BitVec 16) : State :=
  let x := queueOf s q
  let s := x.msgs.foldl (fun s g => match poolIndex s.pool g.handle with | some i => poolDrop s i | none => s) s
  poolSettle (setQueue s { x with msgs := [] })

/-- The banks that [a, a + n) touches are all present and ON; false outside SRAM. -/
def sramOn (s : State) (a n : Nat) : Bool :=
  decide (0x10000000 ≤ a) && decide (a + n ≤ 0x10000000 + sramSize s.variant) && decide (0 < n) &&
    (List.finRange 16).all fun b =>
      let lo := 0x10000000 + b.val * 0x20000
      decide (a + n ≤ lo) || decide (lo + 0x20000 ≤ a) || bankOn s b

/-- Whether [a, a + n) and [b, b + m) overlap. -/
def overlaps (a n b m : Nat) : Bool := decide (a < b + m) && decide (b < a + n)

/-- Whether [a, a + n) meets the extent that a TABLE in progress copies to (R162, R167). -/
def tableMeets (s : State) (a n : Nat) : Bool :=
  match s.cue.table with
  | some t => overlaps a n t.base.toNat (8 * 2 ^ t.k)
  | none => false

/-- The TABLE command after its field check (R162, R167, R535): the status. -/
def cueTable (s : State) (m : Master) (base : Word) (k : Nat) : State × Nat :=
  let n := 8 * 2 ^ k
  if base.toNat % n ≠ 0 || !sramOn s base.toNat n || overlaps base.toNat n s.pool.base.toNat (64 * poolCount s.pool) then (s, 9)
  else if s.cue.queues.any fun x => !isDevice x.num && (x.isOpen || !x.msgs.isEmpty || x.bound.isSome) then (s, 4)
  else ({ s with cue := { s.cue with table := some ⟨m, base, k⟩ } }, 1)

/-- RETARGET reaches the trace (R470). -/
def trcOwner (s : State) (m : Master) (x : Queue) : State :=
  if !s.trc.en || (x.secure && s.dbg.level ≠ 2) then s
  else
    let src : Option Core := if h : m.val < 8 then some ⟨m.val, h⟩ else none
    let st := match src with | some c => ctxState s.cores[c] | none => 3
    let task := match src with | some c => s.trc.task[c].toNat | none => 0
    let s := match src with | some c => trcStamp (trcFlush s c) c | none => s
    trcPeriodic (trcPush s src ([trcHdr 6 (min m.val 8), 4, natB st] ++ leBytes 2 task ++ leBytes 2 x.num.toNat ++
      [x.producer ++ x.consumer]))

/-- A command whose field check, BUSY and NO_QUEUE have passed (R180, R535): the status. -/
def cueDo (s : State) (m : Master) (secure : Bool) (op : Nat) (q : BitVec 16) (a0 : Word) : State × Nat :=
  let x := queueOf s q
  let dev := isDevice q
  let ch := queueChangeable q.toNat
  let wake := a0.getLsbD 31
  let limit : BitVec 4 := a0.extractLsb' 0 4
  let cons : BitVec 4 := a0.extractLsb' 20 4
  let fixed : Bool := dev && (op = 1 || op = 2 ||
    (op = 3 && ((limit ≠ x.limit && !ch.1) || (wake ≠ x.wake && !ch.2.1))) || (op = 4 && cons ≠ x.consumer && !ch.2.2))
  let closed := queueClosed x
  let empty := closed && x.msgs.isEmpty
  let reads : Bool := op ≠ 1 && (!closed || ((op = 5 || op = 6) && !x.msgs.isEmpty))
  if fixed then (s, 5)
  else if x.secure && !secure && !empty then (s, 6)
  else if reads && descBad s q then (cueFatal s, 0)
  else
  let s := if reads then descRead s q else s
  match op with
  | 1 =>
    if !closed then (s, 8)
    else (setQueue (if empty then descFresh s q else s) ⟨q, true, wake, a0.getLsbD 30, a0.extractLsb' 28 2, a0.extractLsb' 24 4, cons, limit, none, false, x.msgs⟩, 0)
  | 2 => if closed then (s, 8) else if x.bound.isSome then (s, 4) else (setQueue s { x with isOpen := false }, 0)
  | 3 => if closed then (s, 8) else (setQueue s { x with wake := wake, limit := limit }, 0)
  | 4 =>
    if closed then (s, 8)
    else if x.bound.isSome then (s, 4)
    else
      let y : Queue := if dev then { x with consumer := cons }
        else { x with pmode := a0.extractLsb' 28 2, producer := a0.extractLsb' 24 4, consumer := cons }
      (trcOwner (setQueue s y) m y, 0)
  | 5 => (queueFlush s q, 0)
  | _ =>
    let d0 := if empty then 0 else queueWord x
    let d1 := if empty then 0 else natW x.msgs.length
    ({ s with cue := { s.cue with rdata0 := putV s.cue.rdata0 m d0, rdata1 := putV s.cue.rdata1 m d1 } }, 0)

/-- A write of CUE_CMD (R59, R180, R535). The second part says whether the field check rejected it. -/
def cueCommand (s : State) (w : Who) (op : Nat) (rsv : BitVec 12) (q : BitVec 16) : State × Bool :=
  let m := w.p.m
  let a0 := s.cue.arg0[m]
  let a1 := s.cue.arg1[m]
  let fin (p : State × Nat) : State :=
    { p.1 with cue := { p.1.cue with cstat := putV p.1.cue.cstat m (q, BitVec.ofNat 4 p.2) } }
  if cueBadField op rsv q a0 a1 then (fin (s, 2), true)
  else if s.cue.table.isSome then (fin (s, 7), false)
  else if op = 7 then (fin (cueTable s m a0 (bitsOf a1 0 5)), false)
  else if q = 0 || !queueExists s q then (fin (s, 3), false)
  else (fin (cueDo s m w.secure op q a0), false)

/-- The descriptors of the device queues. -/
def deviceQueues : List (BitVec 16) := (List.range 256).map (BitVec.ofNat 16)

/-- The copy ends: the 256 descriptors have been read, one that cannot be read being FATAL (R501), and written at the new base; the table
switches, user queues are closed, DONE is reported, and what waited goes on (R167). -/
def cueTableDone (s : State) : State :=
  match s.cue.table with
  | none => s
  | some t =>
    if deviceQueues.any (descBad s) then cueFatal s else
    let s := (deviceQueues.foldl descRead s).heal t.base.toNat (t.base.toNat + 2048)
    let old := s.cue.tbase.toNat
    let n := s.cue.moves
    let s := s.put old ((List.range (8 * 2 ^ s.cue.k)).map fun i => Config.tableByte n (old + i))
    cueSettle { s with cue := { s.cue with
      table := none, tbase := t.base, k := t.k, moves := n + 1, queues := s.cue.queues.filter fun x => isDevice x.num
      cstat := putV s.cue.cstat t.m (0, 0), evt := s.cue.evt.raise 1 } }

def cueRead (s : State) (w : Who) (off : Nat) : RegRead :=
  let m := w.p.m
  let k := s.cue
  match off with
  | 0x000 => .ok s 0
  | 0x004 => .ok s k.arg0[m]
  | 0x008 => .ok s k.arg1[m]
  | 0x00C => .ok s (natW (k.cstat[m].1.toNat * 65536 + k.cstat[m].2.toNat))
  | 0x010 => .ok s k.rdata0[m]
  | 0x014 => .ok s k.rdata1[m]
  | 0x020 => .ok s k.tbase
  | 0x024 => .ok s (natW k.k)
  | 0x028 => .ok { s with cue := { k with evt := k.evt.read m } } k.evt.val
  | 0x02C => .ok s k.refused
  | 0x030 => .ok s k.commits
  | _ => .bad 1

def cueWrite (s : State) (w : Who) (off : Nat) (v : Word) : RegWrite :=
  let m := w.p.m
  let k := s.cue
  match off with
  | 0x000 =>
    let p := cueCommand s w (bitsOf v 24 4) (v.extractLsb' 28 4 ++ v.extractLsb' 16 8) (v.setWidth 16)
    if p.2 then .field p.1 else .ok p.1
  | 0x004 => .ok { s with cue := { k with arg0 := putV k.arg0 m v } }
  | 0x008 => .ok { s with cue := { k with arg1 := putV k.arg1 m v } }
  | 0x028 => .ok { s with cue := { k with evt := k.evt.clear m v } }
  | 0x00C | 0x010 | 0x014 | 0x020 | 0x024 | 0x02C | 0x030 => .ok s
  | _ => .bad 1

/-! ### Buffer pool -/

/-- The class that a reader of POOL_ALLOC draws on, none when it may not allocate (R187). -/
def allocClass (s : State) (m : Master) : Option (Fin 16) :=
  if m.val < 8 then some (masterClass s.pool m) else if m.val = 8 then some 1 else none

/-- A read of POOL_ALLOC (R190-R192). -/
def poolAllocRead (s : State) (m : Master) : RegRead :=
  match allocClass s m with
  | none => .ok (setAstat s m 0 2) 2
  | some c =>
    if poolCan s.pool c then
      let p := poolTake s c (BitVec.ofNat 4 m.val) false
      .ok (setAstat p.1 m 0 0) (allocWord p.2 false)
    else if s.pool.cls[c].waitlim = 0 then .ok (setAstat (poolRefused s c) m 0 2) 2
    else .wait { s with pool := { s.pool with waits := s.pool.waits ++ [⟨.read m, c, s.now⟩] } } .poolAlloc

/-- The tag word of R199 with a KIND. -/
def tagWord (t : Option Tag) (kind : Nat) : Word :=
  match t with
  | none => natW kind
  | some t => natW ((if t.st = 2 then t.queue.toNat else 0) * 65536 + t.owner.toNat * 4096 + t.cls.val * 256 + t.st.toNat * 64 + kind)

/-- A write of POOL_FREE (R198, R199). -/
def poolFreeWrite (s : State) (w : Who) (h : Word) : State :=
  let m := w.p.m
  let fin (s : State) (r : BitVec 2) : State := { s with pool := { s.pool with fstat := putV s.pool.fstat m r } }
  let rec_ (d : Word) : State := ecBuild s 0x08 1 (BitVec.ofNat 4 m.val) w.secure 0 h d
  match poolIndex s.pool h with
  | none => fin (rec_ (tagWord none 3)) 3
  | some i =>
    match poolTag s.pool i with
    | none => fin (rec_ (tagWord none 1)) 1
    | some t =>
      if t.st = 1 ∧ t.owner.toNat = m.val then poolSettle (fin (poolDrop s i) 0)
      else fin (rec_ (tagWord (some t) 2)) 2

/-- A write of POOL_CFG (R58, R183). While a TABLE runs, the extent it copies to is the table's too (R162). -/
def poolCfgWrite (s : State) (m : Master) (v : Word) : State :=
  let n := bitsOf v 0 7
  let bad : Bool := n = 0 || decide (poolMax s.variant < n)
  let s := if bad then rsvdEnc s m 0x40070000 else s
  let n := if bad then s.pool.n256 else n
  let base : Word := natW (bitsOf v 14 18 * 2 ^ 14)
  let size := n * 16384
  let okPlace := sramOn s base.toNat size && !overlaps base.toNat size s.cue.tbase.toNat (8 * 2 ^ s.cue.k) &&
    !tableMeets s base.toNat size
  if okPlace && ((base = s.pool.base && decide (s.pool.n256 < n)) || s.pool.tags.isEmpty) then
    poolSettle { s with pool := { s.pool with base := base, n256 := n } }
  else { s with pool := { s.pool with evt := s.pool.evt.raise 0 } }

/-- A write of POOL_RES(c) (R189, R193). -/
def poolResWrite (s : State) (c : Fin 16) (v : Word) : State :=
  let p := { s.pool with cls := updV s.pool.cls c fun k => { k with res := bitsOf v 0 15 } }
  if poolCount p < poolSumRes p ∨ poolCount p - poolSumRes p < poolShared p then
    { s with pool := { s.pool with evt := s.pool.evt.raise 1 } }
  else poolSettle { s with pool := p }

/-- A write of POOL_CAP(c) (R193). -/
def poolCapWrite (s : State) (c : Fin 16) (v : Word) : State :=
  poolSettle { s with pool := { s.pool with cls := updV s.pool.cls c fun k => { k with cap := bitsOf v 0 15 } } }

/-- A write of POOL_CTRL (R196). -/
def poolCtrlWrite (s : State) (v : Word) : State :=
  if v.getLsbD 0 then
    { s with pool := { s.pool with cls := s.pool.cls.map fun k =>
        { k with grants := 0, delays := 0, refusals := 0, hwdrop := 0, peak := 0 } } }
  else s

/-- A write of POOL_MCLASS, nibble by nibble (R58, R187). -/
def poolMclassWrite (s : State) (m : Master) (v : Word) : State :=
  let old := s.pool.mclass
  let bad := (List.range 8).any fun i => bitsOf v (4 * i) 4 < 8
  let new := ((List.range 8).map fun i => (if bitsOf v (4 * i) 4 < 8 then bitsOf old (4 * i) 4 else bitsOf v (4 * i) 4) * 16 ^ i).sum
  let s := if bad then rsvdEnc s m 0x40070014 else s
  { s with pool := { s.pool with mclass := natW new } }

/-- The class and offset of a class register. -/
def poolWhere (off : Nat) : Option (Fin 16 × Nat) := (inst (off - off % 0x20) 0x100 0x20 16).map fun c => (c, off % 0x20)

def poolRead (s : State) (w : Who) (off : Nat) : RegRead :=
  let m := w.p.m
  let p := s.pool
  match off with
  | 0x000 => .ok s (p.base + natW p.n256)
  | 0x004 => poolAllocRead s m
  | 0x008 | 0x020 => .ok s 0
  | 0x00C => .ok s (natW (p.astat[m].1.toNat * 65536 + p.astat[m].2.toNat))
  | 0x010 => .ok s (p.fstat[m].setWidth 32)
  | 0x014 => .ok s p.mclass
  | 0x018 => .ok { s with pool := { p with evt := p.evt.read m } } p.evt.val
  | 0x01C => .ok s (natW (poolSharedFree p * 65536 + poolFree p))
  | 0x024 => .ok s (p.probe.setWidth 32)
  | 0x028 => .ok s (tagWord (poolTag p p.probe.toNat) 0)
  | _ => match poolWhere off with
    | none => .bad 1
    | some (c, o) =>
      let k := p.cls[c]
      match o with
      | 0x00 => .ok s (natW k.res)
      | 0x04 => .ok s (natW k.cap)
      | 0x08 => .ok s (natW k.waitlim)
      | 0x0C => .ok s (natW (k.peak * 65536 + poolUse p c))
      | 0x10 => .ok s k.grants
      | 0x14 => .ok s k.delays
      | 0x18 => .ok s k.refusals
      | 0x1C => .ok s k.hwdrop
      | _ => .bad 1

/-- The configuration of classes 0 and 1 is the Prompter's (R189). -/
def poolClassWrite (s : State) (w : Who) (c : Fin 16) (o : Nat) (v : Word) : RegWrite :=
  let own (t : State) : RegWrite := if c.val < 2 ∧ w.p.m.val ≠ 8 then .bad 3 else .ok t
  match o with
  | 0x00 => own (poolResWrite s c v)
  | 0x04 => own (poolCapWrite s c v)
  | 0x08 => own { s with pool := { s.pool with cls := updV s.pool.cls c fun k => { k with waitlim := bitsOf v 0 12 } } }
  | 0x0C | 0x10 | 0x14 | 0x18 | 0x1C => .ok s
  | _ => .bad 1

def poolWrite (s : State) (w : Who) (off : Nat) (v : Word) : RegWrite :=
  let m := w.p.m
  let p := s.pool
  match off with
  | 0x000 => .ok (poolCfgWrite s m v)
  | 0x008 => .ok (poolFreeWrite s w v)
  | 0x014 => .ok (poolMclassWrite s m v)
  | 0x018 => .ok { s with pool := { p with evt := p.evt.clear m v } }
  | 0x020 => .ok (poolCtrlWrite s v)
  | 0x024 => .ok { s with pool := { p with probe := v.setWidth 14 } }
  | 0x004 | 0x00C | 0x010 | 0x01C | 0x028 => .ok s
  | _ => match poolWhere off with
    | none => .bad 1
    | some (c, o) => poolClassWrite s w c o v

/-! ### Error collector -/

/-- Whether a stage core has been lost and not restarted (R503, R506). -/
def coreLost (s : State) (c : Core) : Bool := s.cores[c].run = .check || s.cores[c].run = .quarantined

/-- EC_CORE state: 0 RUNNING, 1 QUARANTINED, 2 OFF, 3 ABSENT. -/
def coreState (s : State) (c : Core) : Nat :=
  if coreCount s.variant ≤ c.val then 3
  else if coreLost s c then 1
  else if s.cores[c].run = .off then 2 else 0

def ecRead (s : State) (w : Who) (off : Nat) : RegRead :=
  let k := s.ec
  match off with
  | 0x000 =>
    let q := ((List.finRange 8).map fun c => boolN (coreLost s c) c.val).sum
    .ok s (natW (boolN (s.cue.held.any fun x => ecDue s x.master) 31 + k.fifo.length * 65536 + q))
  | 0x004 => .ok { s with ec := { k with evt := k.evt.read w.p.m } } k.evt.val
  | 0x008 => .ok s k.count[(0 : Fin 3)]
  | 0x00C => .ok s k.count[(1 : Fin 3)]
  | 0x010 => .ok s k.count[(2 : Fin 3)]
  | 0x014 => .ok s k.lost
  | 0x018 => .ok s (k.lastLost.setWidth 32)
  | _ => match inst off 0x040 4 8 with
    | some c =>
      let x := s.cores[c]
      .ok s (natW (coreState s c * 2 ^ 24 + x.losses.toNat * 65536 + x.reason.toNat))
    | none => .bad 1

def ecWrite (s : State) (w : Who) (off : Nat) (v : Word) : RegWrite :=
  let ro : RegWrite := if w.p.m.val = 8 then .ok s else .bad 3
  match off with
  | 0x004 => .ok { s with ec := { s.ec with evt := s.ec.evt.clear w.p.m v } }
  | 0x000 | 0x008 | 0x00C | 0x010 | 0x014 | 0x018 => ro
  | _ => if (inst off 0x040 4 8).isSome then ro else .bad 1

end Sys2Proof.Machine
end

