-- ==== Sys2Proof/Machine/BlockRegs.lean ====
section
/-!
DEFINITION. The registers of the SYS, PWR, LV, DMA, TRC and DBG blocks (02, 03, 07, 13, 17, 23) and of core-private space (05, 06,
23), with the commands that their writes give.
-/

namespace Sys2Proof.Machine

/-! ### SYS (R25, R54-R60, R101, R274) -/

/-- SYS_CURTAIN (R274). -/
def curtainWord (k : Sys) : Word :=
  natW (k.kibDone.toNat * 65536 + boolN k.sw 5 + boolN k.quick 4 + boolN k.fallback 3 + boolN k.slot 2 + k.phase.toNat)

/-- A write of SYS_PACE_CTRL (R25, R58). -/
def paceWrite (s : State) (m : Master) (v : Word) : State :=
  let n := bitsOf v 4 5
  let s := if 6 ≤ n ∧ n ≤ 16 then { s with sys := { s.sys with winlog2 := BitVec.ofNat 5 n } } else rsvdEnc s m 0x40000020
  if v.getLsbD 0 && s.sys.paceRun.isNone then
    { s with sys := { s.sys with paceRun := some (s.sys.winlog2.toNat, s.now) } }
  else s

/-- The window of a pace measurement is over: the results, then DONE (R25, R26). One tick is 125,000 / 3 ps. -/
def paceDone (s : State) (steps : BitVec 24) : State :=
  match s.sys.paceRun with
  | none => s
  | some (k, t) =>
    if s.now < t + 2 ^ k then s
    else
      let n := steps.toNat
      let ps := if n = 0 then 0xFFFF else min 0xFFFF ((2 * 125000 * 2 ^ k + 3 * n) / (6 * n))
      { s with sys := { s.sys with
          paceRun := none, paceCount := steps, paceStep := BitVec.ofNat 16 ps, paceStat := s.sys.paceStat.raise 0 } }

/-- A clear of SYS_ERR: one that clears RSVD_ENC also empties SYS_ERR_SRC (R55, R60). -/
def sysErrClear (s : State) (m : Master) (v : Word) : State :=
  let ok := s.sys.err.clearOk m v && v.getLsbD 0
  { s with sys := { s.sys with err := s.sys.err.clear m v, errSrc := if ok then 0 else s.sys.errSrc } }

def sysRead (s : State) (w : Who) (off : Nat) : RegRead :=
  let k := s.sys
  match off with
  | 0x000 => .ok s 0x4E420B24
  | 0x004 => .ok s 0x00000010
  | 0x008 => .ok s (sysFeat0 s.variant)
  | 0x00C => .ok s (sysFeat1 s.variant)
  | 0x010 => .ok s (natW w.p.m.val)
  | 0x014 => .ok s (sysMasters s.variant)
  | 0x018 => .ok { s with sys := { k with err := k.err.read w.p.m } } k.err.val
  | 0x01C => .ok s k.errSrc
  | 0x020 => .ok s (natW (16 * k.winlog2.toNat))
  | 0x024 => .ok { s with sys := { k with paceStat := k.paceStat.read w.p.m } } k.paceStat.val
  | 0x028 => .ok s (k.paceCount.setWidth 32)
  | 0x02C => .ok s (k.paceStep.setWidth 32)
  | 0x030 => .ok s (curtainWord k)
  | _ => .bad 1

def sysWrite (s : State) (w : Who) (off : Nat) (v : Word) : RegWrite :=
  let m := w.p.m
  match off with
  | 0x018 => .ok (sysErrClear s m v)
  | 0x020 => .ok (paceWrite s m v)
  | 0x024 => .ok { s with sys := { s.sys with paceStat := s.sys.paceStat.clear m v } }
  | 0x000 | 0x004 | 0x008 | 0x00C | 0x010 | 0x014 | 0x01C | 0x028 | 0x02C | 0x030 => if m.val = 8 then .ok s else .bad 3
  | _ => .bad 1

/-! ### PWR (R340, R341, R351, R352, R360) -/

def vsetI2c (s : State) : Bool := (otpVal s 0x4A).getLsbD 0

/-- Division rounded to nearest, halves up. -/
def divRound (a b : Nat) : Nat := if b = 0 then 0 else (2 * a + b) / (2 * b)

/-- The code that requests a level in mV (R360). -/
def vsetCode (s : State) (mv : Nat) : Nat :=
  let v0 := otpHalf s 0x4B false 500
  if vsetI2c s then divRound ((mv - v0) * 1000) (otpHalf s 0x4C false 5000)
  else min 1023 (divRound ((mv - v0) * 1023) (otpHalf s 0x4B true 1200 - v0))

/-- The level that a code requests, rounded to the nearest mV (R361). -/
def vsetLevel (s : State) (code : Nat) : Nat :=
  let v0 := otpHalf s 0x4B false 500
  if vsetI2c s then v0 + divRound (code * otpHalf s 0x4C false 5000) 1000
  else v0 + divRound ((otpHalf s 0x4B true 1200 - v0) * code) 1023

/-- VSET takes the code of a set point, and BUSY stands until the level has settled (R361). -/
def vsetDrive (s : State) (mv : Nat) : State :=
  { s with pwr := { s.pwr with vset := some (BitVec.ofNat 16 (vsetCode s mv)), setPoint := BitVec.ofNat 16 mv, vsetBusy := true, mvBefore := s.pwr.setPoint } }

/-- The RTC alarm set by POWER_SET_WAKE (R351). -/
def alarmSet (s : State) (v : Word) : State :=
  { s with pwr := { s.pwr with alarm := v, alarmArmed := v ≠ 0, alarmPending := false } }

/-- PWR_DOM: bit = code of R340, the banks that are ON among them. -/
def domWord (s : State) : Word :=
  natW (s.pwr.dom.toNat + ((List.finRange 16).map fun b => boolN (decide (b.val < bankCount s.variant) && decide (s.pwr.sram[b] = 2)) (16 + b.val)).sum)

/-- PWR_SRAM (R341). -/
def sramWord (s : State) : Word := natW ((List.finRange 16).map fun b => s.pwr.sram[b].toNat * 4 ^ b.val).sum

def pwrRead (s : State) (w : Who) (off : Nat) : RegRead :=
  let k := s.pwr
  match off with
  | 0x000 => .ok s (natW (boolN k.entering.isSome 8 + if k.mode = .nap then 1 else 0))
  | 0x004 => .ok s (domWord s)
  | 0x008 => .ok s (sramWord s)
  | 0x00C => .ok s (k.drain.setWidth 32)
  | 0x010 => .ok s k.wakeMask
  | 0x014 => .ok s (natW (boolN k.early 16 + k.reason.toNat))
  | 0x018 => .ok s k.alarm
  | 0x01C => .ok s (natW (boolN k.vsetBusy 31 + k.setPoint.toNat))
  | 0x020 => .ok { s with pwr := { k with evt := k.evt.read w.p.m } } k.evt.val
  | _ => .bad 1

def pwrWrite (s : State) (w : Who) (off : Nat) (v : Word) : RegWrite :=
  let k := s.pwr
  match off with
  | 0x010 => .ok { s with pwr := { k with wakeMask := v &&& 0x7F } }
  | 0x018 => .ok (alarmSet s v)
  | 0x01C => .ok (vsetDrive s (bitsOf v 0 16))
  | 0x020 => .ok { s with pwr := { k with evt := k.evt.clear w.p.m v } }
  | 0x000 | 0x004 | 0x008 | 0x00C | 0x014 => .ok s
  | _ => .bad 1

/-! ### LV (R354, R359) -/

/-- The budget is set (R354). -/
def lvSetBudget (s : State) (n : Nat) : State :=
  let s := { s with lv := { s.lv with budget := n } }
  let s := if n < lvGranted s.lv then { s with lv := { s.lv with evt := s.lv.evt.raise 1 } } else s
  leaveServe s

/-- LV_REQ with an operation and its other bits; the second part says whether the field check rejected it (R59, R359). -/
def lvCommand (s : State) (op : Nat) (rest : BitVec 28) : State × Bool :=
  let fin (s : State) (n : Nat) : State := { s with lv := { s.lv with cstat := BitVec.ofNat 4 n } }
  let units := bitsOf (rest.setWidth 32) 0 9
  let ticket : Fin 41 := ⟨bitsOf (rest.setWidth 32) 12 3, Nat.lt_trans (Nat.mod_lt _ (by decide)) (by decide)⟩
  let cls : BitVec 2 := rest.extractLsb' 20 2
  let rsv : Bool := rest.extractLsb' 24 4 ≠ 0 || rest.extractLsb' 22 2 ≠ 0 || rest.extractLsb' 15 5 ≠ 0 || rest.extractLsb' 9 3 ≠ 0
  if rsv || op = 0 || 3 ≤ op || units = 0 || 400 < units then (fin s 1, true)
  else if op = 1 then
    if lvHolds s ticket || lvWaits s ticket then (fin s 2, false) else (fin (lvRequest s ticket units cls).1 0, false)
  else if !lvHolds s ticket then (fin s 3, false)
  else (fin (leaveRelease s ticket) 0, false)

def lvStatOf (off : Nat) : Option (Fin 4 × Nat) :=
  if 0x40 ≤ off then (inst (off - off % 0x10) 0x40 0x10 4).map fun c => (c, off % 0x10) else none

/-- LV_RSTAT of a requester. -/
def rstatWord (s : State) (r : Fin 41) : Word :=
  natW (min s.lv.rwait[r] 0xFFFFFF * 256 + boolN (lvHolds s r) 4 + s.lv.rstat[r].toNat)

def lvRead (s : State) (w : Who) (off : Nat) : RegRead :=
  let k := s.lv
  let held (lo n : Nat) : Word := natW ((List.range n).map fun i => boolN (k.held.toList.getD (lo + i) 0 ≠ 0) i).sum
  match off with
  | 0x000 => .ok s 0
  | 0x004 => .ok s (natW k.budget)
  | 0x008 => .ok s (natW (k.peak * 65536 + lvGranted k))
  | 0x00C => .ok s (k.cstat.setWidth 32)
  | 0x010 => .ok { s with lv := { k with evt := k.evt.read w.p.m } } k.evt.val
  | 0x014 => .ok s (held 0 32)
  | 0x018 => .ok s (held 32 9)
  | _ =>
    match inst off 0x020 4 4 with
    | some c => .ok s (natW k.waitlim[c])
    | none => match lvStatOf off with
      | some (c, 0x0) => .ok s k.grants[c]
      | some (c, 0x4) => .ok s k.delays[c]
      | some (c, 0x8) => .ok s k.refusals[c]
      | _ => match inst off 0x100 4 41 with
        | some r => .ok s (rstatWord s r)
        | none => .bad 1

def lvWrite (s : State) (w : Who) (off : Nat) (v : Word) : RegWrite :=
  let k := s.lv
  match off with
  | 0x000 =>
    let p := lvCommand s (bitsOf v 24 4) (cmdRest v)
    if p.2 then .field p.1 else .ok p.1
  | 0x004 =>
    let n := bitsOf v 0 9
    .ok (if 40 ≤ n ∧ n ≤ 400 then lvSetBudget s n else rsvdEnc s w.p.m 0x40020004)
  | 0x010 => .ok { s with lv := { k with evt := k.evt.clear w.p.m v } }
  | 0x008 | 0x00C | 0x014 | 0x018 => .ok s
  | _ =>
    match inst off 0x020 4 4 with
    | some c => .ok { s with lv := { k with waitlim := putV k.waitlim c (bitsOf v 0 24) } }
    | none => match lvStatOf off with
      | some (_, 0x0) | some (_, 0x4) | some (_, 0x8) => .ok s
      | _ => if (inst off 0x100 4 41).isSome then .ok s else .bad 1

/-! ### DMA (R139, R140) -/

def updDma (s : State) (ch : Fin 16) (f : DmaCh → DmaCh) : State := { s with dma := updV s.dma ch f }

/-- A channel ends (R140): 0 DONE, 1 STOPPED, 2 ERROR with its bus answer. -/
def dmaEnd (s : State) (ch : Fin 16) (result : BitVec 2) (ans : BitVec 3) : State :=
  let s := updDma s ch fun k => { k with
    busy := false, stopReq := false, buf := [], put := 0, adm := 0, held := none, result := result, answer := ans, status := k.status.raise (if result = 2 then 1 else 0) }
  let k := s.dma[ch]
  if k.queue = 0 then s
  else
    cueSettle (hwEvent s ⟨.dma ch, 7, k.queue, 0, [natB ch.val, natB result.toNat, natB ans.toNat, 0] ++ leBytes 4 k.count.toNat, k.secure⟩)

/-- DMA_CTRL.START (R139, R300). -/
def dmaStartWrite (s : State) (w : Who) (ch : Fin 16) : State :=
  if s.dma[ch].busy then s
  else
    let s := updDma s ch fun k => { k with busy := true, count := 0, stopReq := false, secure := w.secure, by_ := some w.p.m
                                           buf := [], put := 0, adm := 0, held := none, result := 0, answer := 0 }
    if s.dma[ch].len = 0 then dmaEnd s ch 0 0 else s

/-- DMA_CTRL.STOP (R140). -/
def dmaStopWrite (s : State) (ch : Fin 16) : State :=
  if s.dma[ch].busy then updDma s ch fun k => { k with stopReq := true } else s

/-- A write of DMA_CTRL(c): the address modes, then STOP and START. The modes of a channel that is BUSY are written too, and act from its next
word; the list of what BUSY ignores does not name them (log entry 30). -/
def dmaCtrlWrite (s : State) (w : Who) (ch : Fin 16) (v : Word) : State :=
  let addr : Word := natW (0x4009000C + 0x40 * ch.val)
  let mode (s : State) (n : Nat) (f : Bool → DmaCh → DmaCh) : State := if 2 ≤ n then rsvdEnc s w.p.m addr else updDma s ch (f (n = 1))
  let s := mode s (bitsOf v 2 2) fun b k => { k with srcFix := b }
  let s := mode s (bitsOf v 4 2) fun b k => { k with dstFix := b }
  let s := if v.getLsbD 1 then dmaStopWrite s ch else s
  if v.getLsbD 0 then dmaStartWrite s w ch else s

def dmaRead (s : State) (w : Who) (off : Nat) : RegRead :=
  if off = 0x800 then .ok s (natW ((List.finRange 16).map fun c => boolN s.dma[c].busy c.val).sum)
  else match inst (off - off % 0x40) 0 0x40 16 with
    | none => .bad 1
    | some c =>
      let k := s.dma[c]
      match off % 0x40 with
      | 0x00 => .ok s k.src
      | 0x04 => .ok s k.dst
      | 0x08 => .ok s k.len
      | 0x0C => .ok s (natW (boolN k.dstFix 4 + boolN k.srcFix 2))
      | 0x10 => .ok s (k.queue.setWidth 32)
      | 0x14 => .ok (updDma s c fun k => { k with status := k.status.read w.p.m }) k.status.val
      | 0x18 => .ok s (natW (boolN k.busy 31 + k.result.toNat * 256 + k.answer.toNat))
      | 0x1C => .ok s k.count
      | _ => .bad 1

def dmaWrite (s : State) (w : Who) (off : Nat) (v : Word) : RegWrite :=
  if off = 0x800 then .ok s
  else match inst (off - off % 0x40) 0 0x40 16 with
    | none => .bad 1
    | some c =>
      let set (f : DmaCh → DmaCh) : RegWrite := .ok (if s.dma[c].busy then s else updDma s c f)
      match off % 0x40 with
      | 0x00 => set fun k => { k with src := v &&& 0xFFFFFFFC }
      | 0x04 => set fun k => { k with dst := v &&& 0xFFFFFFFC }
      | 0x08 => set fun k => { k with len := v &&& 0x1FFFFC }
      | 0x0C => .ok (dmaCtrlWrite s w c v)
      | 0x10 => set fun k => { k with queue := v.setWidth 16 }
      | 0x14 => .ok (updDma s c fun k => { k with status := k.status.clear w.p.m v })
      | 0x18 | 0x1C => .ok s
      | _ => .bad 1

/-! ### TRC (R468, R475-R478) -/

/-- EN goes from 0 to 1: the stream starts at a sync point, at the start of the ring (R477). -/
def trcStart (s : State) : State :=
  trcSync { s with trc := { s.trc with
    en := true, active := true, core := Vector.replicate 8 {}, lastTime := none, timeMark := s.tb.toNat / 2 ^ s.trc.timek.toNat
    discarded := 0, sinceSync := 0, wptr := 0, wrapped := false, full := false } }

/-- EN goes from 1 to 0: every core's outcomes are flushed and the buffer drains (R478). -/
def trcStopWrite (s : State) : State :=
  let s := (List.finRange 8).foldl (fun s c => if traced s c then trcFlush s c else s) s
  trcSettle { s with trc := { s.trc with en := false } }

/-- The fields of TRC_CFG other than EN (R58). -/
def trcFields (s : State) (m : Master) (v : Word) : State :=
  let addr : Word := 0x40210000
  let tk := bitsOf v 16 5
  let sy := bitsOf v 8 5
  let s := if v.getLsbD 30 && s.variant ≠ .x then rsvdEnc s m addr else { s with trc := { s.trc with sink := v.getLsbD 30 } }
  let s := if 10 ≤ tk ∧ tk ≤ 20 then { s with trc := { s.trc with timek := BitVec.ofNat 5 tk } } else rsvdEnc s m addr
  let s := if 10 ≤ sy ∧ sy ≤ 20 then { s with trc := { s.trc with synclog := BitVec.ofNat 5 sy } } else rsvdEnc s m addr
  { s with trc := { s.trc with wrap := v.getLsbD 29, cores := v.setWidth 8 } }

def trcCfgWord (t : Trc) : Word :=
  natW (boolN t.en 31 + boolN t.sink 30 + boolN t.wrap 29 + t.timek.toNat * 65536 + t.synclog.toNat * 256 + t.cores.toNat)

/-- A write of TRC_CFG (R477, R478). -/
def trcCfgWrite (s : State) (m : Master) (v : Word) : State :=
  let mask : Word := 0x7F1F1FFF
  let s := if s.trc.active then (if v &&& mask = trcCfgWord s.trc &&& mask then s else rsvdEnc s m 0x40210000) else trcFields s m v
  let on := v.getLsbD 31
  if on && !s.trc.en then trcStart s else if !on && s.trc.en then trcStopWrite s else s

/-- A write of TRC_TASK(n) (R469); while R471 excludes the core, it emits nothing. -/
def trcTaskWrite (s : State) (n : Core) (v : Word) : State :=
  let s := { s with trc := { s.trc with task := putV s.trc.task n (v.setWidth 16) } }
  if trcExcluded s s.cores[n].state then s else trcCtx s n 2

def trcRead (s : State) (w : Who) (off : Nat) : RegRead :=
  let t := s.trc
  match off with
  | 0x000 => .ok s (trcCfgWord t)
  | 0x004 => .ok s (t.mode.setWidth 32)
  | 0x010 => .ok s t.bufBase
  | 0x014 => .ok s (t.bufLog.setWidth 32)
  | 0x018 => .ok s (natW (t.wptr % 2 ^ 18))
  | 0x01C => .ok s (natW (boolN t.active 31 + boolN t.wrapped 30 + min 4095 (t.buf.length / 4)))
  | 0x020 => .ok { s with trc := { t with evt := t.evt.read w.p.m } } t.evt.val
  | 0x024 => .ok s t.lostBytes
  | 0x028 => if s.variant = .x then .ok s (t.div.setWidth 32) else .bad 2
  | _ => match inst off 0x040 4 8 with
    | some c => .ok s (t.task[c].setWidth 32)
    | none => .bad 1

def trcWrite (s : State) (w : Who) (off : Nat) (v : Word) : RegWrite :=
  let t := s.trc
  let m := w.p.m
  let idle (f : State) : RegWrite := .ok (if t.active then rsvdEnc s m (0x40210000 + natW off) else f)
  match off with
  | 0x000 => .ok (trcCfgWrite s m v)
  | 0x004 => .ok { s with trc := { t with mode := v.setWidth 8 } }
  | 0x010 => idle { s with trc := { t with bufBase := v &&& 0xFFFFF000 } }
  | 0x014 =>
    let n := bitsOf v 0 5
    idle (if 12 ≤ n ∧ n ≤ 18 then { s with trc := { t with bufLog := BitVec.ofNat 5 n } } else rsvdEnc s m 0x40210014)
  | 0x020 => .ok { s with trc := { t with evt := t.evt.clear m v } }
  | 0x028 =>
    let n := bitsOf v 0 4
    if s.variant = .x then idle (if n = 0 then rsvdEnc s m 0x40210028 else { s with trc := { t with div := BitVec.ofNat 4 n } })
    else .bad 2
  | 0x018 | 0x01C | 0x024 => .ok s
  | _ => match inst off 0x040 4 8 with
    | some c => .ok (trcTaskWrite s c v)
    | none => .bad 1

/-! ### DBG (R483, R487) -/

/-- Debug authorisation is locked out (R309). -/
def dbgLocked (s : State) : Bool := decide (8 ≤ s.dbg.failures)

/-- DBG_STATUS (R483). -/
def dbgStatusWord (s : State) : Word :=
  let per (f : Core → Bool) (sh : Nat) : Nat := ((List.finRange 8).map fun c => boolN (f c) (sh + c.val)).sum
  natW (s.dbg.level.toNat * 2 ^ 30 + s.dbg.source.toNat * 2 ^ 28 + boolN (dbgLocked s) 27 + boolN (!curtainOpen s) 26 +
    boolN (s.pwr.mode = .nap) 25 + per (fun c => s.cores[c].run = .halted) 16 + per (fun c => s.cores[c].haltReq) 8 +
    per (fun c => decide (c.val < coreCount s.variant)) 0)

def dbgRead (s : State) (off : Nat) : RegRead :=
  match off with
  | 0x000 => .ok s (dbgStatusWord s)
  | 0x004 => .ok s (natW ((List.finRange 8).map fun c => boolN s.cores[c].hctrl c.val).sum)
  | 0x008 => .ok s (natW (s.dbg.denied.toNat * 65536 + s.dbg.halts.toNat))
  | _ => .bad 1

def dbgWrite (s : State) (off : Nat) : RegWrite := if off = 0 ∨ off = 4 ∨ off = 8 then .ok s else .bad 1

/-! ### Core-private space (R44) -/

/-- The core, stage core or Prompter, whose private registers a master has (R44). -/
def State.coreOf (s : State) (m : Master) : CoreState := if h : m.val < 8 then s.cores[(⟨m.val, h⟩ : Core)] else s.prompter

/-- That core changed. -/
def State.updOf (s : State) (m : Master) (f : CoreState → CoreState) : State :=
  if h : m.val < 8 then s.updCore ⟨m.val, h⟩ f else { s with prompter := f s.prompter }

/-- One listen slot of a core changed. -/
def updListen (s : State) (m : Master) (n : Fin 8) (f : Listen → Listen) : State :=
  s.updOf m fun k => { k with listen := updV k.listen n f }

/-- A listen slot holds no queue any more (R95, R179). -/
def lsnUnbind (s : State) (m : Master) (n : Fin 8) : State :=
  let l := (s.coreOf m).listen[n]
  if !l.en then s
  else
    let x := queueOf s l.queue
    let s := if x.bound = some (m, n) then
        setQueue s { x with bound := none, claimed := false, consumer := if x.claimed then 15 else x.consumer }
      else s
    updListen s m n fun l => { l with en := false, active := false }

/-- Whether the Cue engine accepts a bind (R179). -/
def bindOk (s : State) (m : Master) (l : Listen) (q : BitVec 16) : Bool :=
  let x := queueOf s q
  q ≠ 0 && queueExists s q && x.isOpen && !(isDevice q && x.pmode = 3) && x.bound.isNone &&
    (x.consumer = 15 || x.consumer.toNat = m.val) && (l.world || !x.secure) && l.level ≠ 0

/-- A write of LSN_BIND(n) (R96, R179). A write of EN = 0 also clears REFUSED and takes the QUEUE written, of which R96 says nothing (log
entry 52). -/
def lsnBindWrite (s : State) (m : Master) (n : Fin 8) (secure : Bool) (v : Word) : RegWrite :=
  if !secure && (s.coreOf m).listen[n].world then .bad 3
  else
    let s := lsnUnbind s m n
    let q : BitVec 16 := v.setWidth 16
    if !v.getLsbD 31 then .ok (updListen s m n fun l => { l with queue := q, refused := false })
    else if bindOk s m (s.coreOf m).listen[n] q then
      let x := queueOf s q
      let s := setQueue s { x with bound := some (m, n), claimed := x.consumer = 15, consumer := BitVec.ofNat 4 m.val }
      .ok (updListen s m n fun l => { l with en := true, refused := false, queue := q })
    else .ok (updListen s m n fun l => { l with en := false, refused := true, queue := q })

/-- PENDING of a slot (R95). -/
def lsnPending (s : State) (m : Master) (n : Fin 8) : Bool :=
  let l := (s.coreOf m).listen[n]
  l.en && !(queueOf s l.queue).msgs.isEmpty

/-- A write of LSN_CFG(n) (R58, R95, R96). -/
def lsnCfgWrite (s : State) (m : Master) (n : Fin 8) (v : Word) : State :=
  let addr : Word := 0xE0000004 + natW (0x10 * n.val)
  if (s.coreOf m).listen[n].en then rsvdEnc s m addr
  else
    let lv : BitVec 3 := v.setWidth 3
    let s := if lv = 0 then rsvdEnc s m addr else s
    updListen s m n fun l => { l with world := v.getLsbD 8, level := if lv = 0 then l.level else lv }

/-- A write of MET_CTRL (R114, R469). LATE_TRAP takes the value written also by a write of EN = 1 while EN is 1, of which R114 says that it
"changes nothing else" (log entry 52). -/
def metCtrlWrite (s : State) (c : Core) (v : Word) : State :=
  let k := s.cores[c]
  let nm1 : BitVec 6 := v.setWidth 6
  let on := v.getLsbD 31
  let s := if k.metEn && nm1 ≠ k.metNm1 then rsvdEnc s (coreM c) 0xE0000100 else s
  let s := s.updCore c fun k => { k with metNm1 := if k.metEn then k.metNm1 else nm1, metTrap := v.getLsbD 8 }
  if on = k.metEn then s
  else
    let s := s.updCore c fun k =>
      if on then { k with metEn := true, metBeats := 0, metLate := 0, metSlip := 0, metPhase := 0 } else { k with metEn := false }
    if trcExcluded s s.cores[c].state then s else trcCtx s c 3

/-- The bits of a breakpoint's and a watchpoint's control word. -/
def bpMask : Word := 0xC0000003
def wpMask : Word := 0xC0000033

/-- A control word written: SEC only from the Secure world, HALT only by debug (R490). -/
def brkCtrl (old v mask : Word) (secure dbg : Bool) : Word :=
  let keep : Word := (if secure then 0 else 2) ||| (if dbg then 0 else 0x40000000)
  (old &&& keep) ||| (v &&& mask &&& ~~~keep)

/-- What a read of a control word shows: SEC only to the Secure world (R490). -/
def brkShow (v : Word) (secure : Bool) : Word := if secure then v else v &&& ~~~2

/-- A read of the private registers of core `o` (R44), by the core or by debug. The Prompter has no Metronome mode (R114). -/
def privRead (s : State) (o m : Master) (secure : Bool) (off : Nat) : RegRead :=
  let k := s.coreOf o
  if off < 0x80 then
    match inst (off - off % 0x10) 0 0x10 8 with
    | none => .bad 1
    | some n =>
      let l := k.listen[n]
      match off % 0x10 with
      | 0x0 => .ok s (natW (boolN l.en 31 + boolN l.refused 30 + l.queue.toNat))
      | 0x4 => if secure then .ok s (natW (boolN l.world 8 + l.level.toNat)) else .bad 3
      | 0x8 => .ok s (natW (boolN l.active 1 + boolN (lsnPending s o n) 0))
      | _ => .bad 1
  else
    match off with
    | 0x100 => .ok s (if o.val = 8 then 0 else natW (boolN k.metEn 31 + boolN k.metTrap 8 + k.metNm1.toNat))
    | 0x104 => .ok (s.updOf o fun k => { k with metStat := k.metStat.read m }) k.metStat.val
    | 0x108 => .ok s k.metBeats
    | 0x10C => .ok s k.metLate
    | 0x110 => .ok s k.metSlip
    | 0x270 => .ok s k.haltInfo
    | 0x27C => .ok s (natW (boolN k.hctrl 0))
    | 0x300 => .ok s k.dsl
    | 0x304 => .ok s k.tcause
    | 0x308 => .ok s k.tdetail
    | 0x30C => .ok s k.taddr
    | _ =>
      match inst (off - off % 0x10) 0x200 0x10 4, inst (off - off % 0x10) 0x240 0x10 2, off % 0x10 with
      | some i, _, 0x0 => .ok s k.ibrk[i].addr
      | some i, _, 0x4 => .ok s (brkShow k.ibrk[i].ctrl secure)
      | _, some i, 0x0 => .ok s k.watch[i].addr
      | _, some i, 0x4 => .ok s k.watch[i].mask
      | _, some i, 0x8 => .ok s (brkShow k.watch[i].ctrl secure)
      | _, _, _ => .bad 1

/-- A write of the private registers of core `o`, by the core or by debug. The Prompter's MET_CTRL ignores it (R114). -/
def privWrite (s : State) (o m : Master) (secure dbg : Bool) (off : Nat) (v : Word) : RegWrite :=
  let upd (f : CoreState → CoreState) : RegWrite := .ok (s.updOf o f)
  if off < 0x80 then
    match inst (off - off % 0x10) 0 0x10 8 with
    | none => .bad 1
    | some n =>
      match off % 0x10 with
      | 0x0 => lsnBindWrite s o n secure v
      | 0x4 => if secure then .ok (lsnCfgWrite s o n v) else .bad 3
      | 0x8 => .ok s
      | _ => .bad 1
  else
    match off with
    | 0x100 => .ok (if h : o.val < 8 then metCtrlWrite s ⟨o.val, h⟩ v else s)
    | 0x104 => upd fun k => { k with metStat := k.metStat.clear m v }
    | 0x27C => if dbg then upd fun k => { k with hctrl := v.getLsbD 0 } else .ok s
    | 0x300 => upd fun k => { k with dsl := v &&& 0xFFFFFFFC }
    | 0x108 | 0x10C | 0x110 | 0x270 | 0x304 | 0x308 | 0x30C => .ok s
    | _ =>
      match inst (off - off % 0x10) 0x200 0x10 4, inst (off - off % 0x10) 0x240 0x10 2, off % 0x10 with
      | some i, _, 0x0 => upd fun k => { k with ibrk := updV k.ibrk i fun b => { b with addr := v &&& 0xFFFFFFFC } }
      | some i, _, 0x4 => upd fun k => { k with ibrk := updV k.ibrk i fun b => { b with ctrl := brkCtrl b.ctrl v bpMask secure dbg } }
      | _, some i, 0x0 => upd fun k => { k with watch := updV k.watch i fun b => { b with addr := v } }
      | _, some i, 0x4 => upd fun k => { k with watch := updV k.watch i fun b => { b with mask := v } }
      | _, some i, 0x8 => upd fun k => { k with watch := updV k.watch i fun b => { b with ctrl := brkCtrl b.ctrl v wpMask secure dbg } }
      | _, _, _ => .bad 1

end Sys2Proof.Machine
end

