-- ==== Sys2Proof/Machine/Reset.lean ====
section
/-!
DEFINITION. The resets of the device (R249-R252), what the AO domain, the flash arrays, the OTP cells and the outside world keep
through one, the reset of a stage core and of the firmware-owned blocks (R267, R346), and the writes of the WD block, which can
order a reset (R370, R371).
-/

namespace Sys2Proof.Machine

/-- A flash operation that a reset cuts leaves its line or sector in no defined state (R289, R364, log entry 11). -/
def cutFlash (s : State) : State := match flashRunning s with | some op => op.cut s | none => s

/-- An OTP pulse on the cells of `mask` that a reset cuts leaves charge on every bit it was given, and some of them read 1; the cut may also
come before the pulse (R337, log entry 11). -/
def cutPulse (s : State) (w : Nat) (mask : BitVec 39) : State :=
  let x := otpWordOf s.otp w
  let p := Config.cutPulse w
  let normal := x.normal ||| (p.1 &&& mask)
  if Config.cutBegun w then
    otpPut s { x with normal := normal, strict := x.strict ||| (p.2 &&& mask &&& normal), charge := x.charge ||| mask }
  else s

/-- The pulse that a command of Elvuk was about to give or gave as the reset came. -/
def cutJob (s : State) (j : ElvJob) : State :=
  match j.stage with
  | .pulse n =>
    let w := argN j.req.args 0 2
    let x := otpWordOf s.otp w
    if j.code = 0x0402 then cutPulse s w (progMask (natW (argN j.req.args 2 4)) n x)
    else if j.code = 0x0403 then cutPulse s w (reinMask n x)
    else
      let t := argN j.req.args 0 1
      cutPulse s (t - 1) (progMask (lifeMarker t) n (otpWordOf s.otp (t - 1)))
  | _ => s

/-- The pulses of the controller and of Elvuk's commands that a reset cuts. -/
def cutOtp (s : State) : State :=
  let s := s.elv.jobs.foldl cutJob s
  match s.otp.busy with
  | some (op, w) =>
    let x := otpWordOf s.otp w
    if op = 3 then (if x.normal = 0 then cutPulse s w (progMask s.otp.wdata 0 x) else s)
    else if op = 4 then (if (reinBarred x).isNone then cutPulse s w (reinMask 0 x) else s)
    else s
  | none => s

/-- The watchdog reset count rises, saturating (R377). -/
def wdCountUp (s : State) : State := s.put 0x1C000000 (leBytes 2 (min 0xFFFF (argN (memBytes s.mem 0x1C000000 2) 0 2 + 1)))

/-- One entry of the reset-cause history, which moves the others down (R47), and the watchdog count after a watchdog reset. A power-on
entry comes after the Green Room has been zeroed, with NUMBER 0 (R48). -/
def histWrite (s : State) : State :=
  let b := s.boot
  let por : Bool := b.cause.cause = 1
  let s := if por then s.wipe 0x1C000000 0x1C008000 else s
  let number := if por then 0 else (argN (memBytes s.mem 0x1C000012 2) 0 2 + 1) % 65536
  let old := memBytes s.mem 0x1C000010 56
  let s := (s.put 0x1C000018 old).put 0x1C000010 ([b.cause.cause, b.cause.detail] ++ leBytes 2 number ++ leBytes 4 b.secs)
  if b.cause.cause = 3 then wdCountUp s else s

/-- An address whose contents outlive PR: the flash arrays and the Green Room. -/
def kept (a : Nat) : Bool := decide (a < 0x210000) || (decide (0x1C000000 ≤ a) && decide (a < 0x1C008000))

/-- The registers of the CEC engine and of the keypad, which AO keeps with the frames not yet posted (R14, R431): a frame or a poll that it
sends ends, as does a row of equal decodes. -/
def cecKeep (c : Cec) : Cec := { c with tx := none, poll := none }
def kpdKeep (k : Kpd) : Kpd := { k with cand := .none, runs := 0 }

/-- An event of the CEC or the IR inputs, whose blocks lie in AO (R14). -/
def aoEvent (e : HwEvent) : Option HwEvent := match e.src with | .cec => some e | .ir _ => some e | _ => none

/-- The messages of the CEC and IR inputs that wait for the Cue engine or for a buffer (R431). -/
def aoEvents (s : State) : List HwEvent :=
  s.boot.repost ++ (s.cue.held.filterMap fun x => match x with | .event e _ => aoEvent e | _ => none) ++
    s.pool.waits.filterMap fun w => match w.who with | .event e => aoEvent e | _ => none

/-- Every unit outside AO at its reset value; AO with its registers, the flash arrays, the OTP cells and the levels that the outside gives the
pins as they are (R250). Messages of the CEC and IR inputs that wait for a buffer are kept for posting (R431). -/
def aoKeep (s : State) : State :=
  let b := State.base s.variant
  { b with
    pending := s.pending
    mem := s.mem.filter fun c => kept c.1
    sec := s.sec.filter kept
    ded := s.ded.filter kept
    poison := s.poison.filter kept
    wd := { s.wd with meas := 0 }
    time := { rtc := s.time.rtc, rtcPhase := s.time.rtcPhase }
    flc := { wcount := s.flc.wcount }
    pwr := { b.pwr with wakeMask := s.pwr.wakeMask, alarm := s.pwr.alarm, alarmArmed := s.pwr.alarmArmed
                        alarmPending := s.pwr.alarmPending, evt := s.pwr.evt }
    cec := cecKeep s.cec
    ir := s.ir
    irWake := s.irWake
    irWakeN := s.irWakeN
    kpd := kpdKeep s.kpd
    uart := b.uart
    dbg := { failures := s.dbg.failures }
    otp := { cells := s.otp.cells }
    install := { journal := s.install.journal }
    gpio := { pads := s.gpio.pads }
    link := { mode := s.link.mode }
    boot := { repost := aoEvents s } }

/-- The watchdog at a reset release other than power-on (R376). -/
def wdRelease (w : Wd) : Wd := if w.en then { w with count := 0, grace := true, gwake := false, openHeld := w.warn } else w

/-- The place of a cause in the order of R252: POWER_ON, PIN, WATCHDOG, ESCALATION, ELVUK. -/
def causeRank (cause : Byte) : Nat := [1, 2, 3, 5].idxOf cause.toNat

/-- A reset that arrives together with the one before: no time has passed since (R252, log entry 58). -/
def resetTogether (s : State) : Bool := s.boot.stage = .reset && s.tb = 0

/-- The cause that a reset records: of causes that arrive together, the first in their order (R252). -/
def resetCause (s : State) (cause detail : Byte) : ResetCause :=
  if resetTogether s && decide (causeRank s.boot.cause.cause ≤ causeRank cause) then s.boot.cause else ⟨cause, detail⟩

/-- A reset of the device (R249-R252). One that cuts the first stage finds its predecessor unrecorded, and that is recorded first. -/
def deviceReset (s : State) (cause detail : Byte) : State :=
  let c := resetCause s cause detail
  let s := cutOtp (cutFlash s)
  let s := if s.boot.stage = .reset && !resetTogether s && c.cause ≠ 1 then histWrite s else s
  let t := aoKeep s
  if c.cause = 1 then
    let b := State.base s.variant
    { t with wd := b.wd, time := b.time, flc := b.flc, pwr := b.pwr, cec := b.cec, ir := b.ir, irWake := b.irWake, irWakeN := b.irWakeN
             kpd := b.kpd, dbg := b.dbg, boot := { cause := ⟨1, 0⟩ } }
  else
    { t with wd := wdRelease t.wd
             kpd := { t.kpd with repAt := t.kpd.repAt - s.now }
             boot := { t.boot with cause := c, secs := s.time.rtc / 32768 } }

/-- A stage core at its reset values, with its CLS written with 0 (R346). The counts of EC_CORE are the error collector's. -/
def resetCore (s : State) (c : Core) : State :=
  let s := s.updCore c fun k => { losses := k.losses, reason := k.reason, hctrl := k.hctrl }
  s.wipe (clsBase c) (clsBase c + 0x4000)

def resetCores (s : State) : State := (List.finRange 8).foldl resetCore s

/-- Every stage core and every firmware-owned block at its reset value, the Cue engine and the pool among them, with SRAM and the
firmware part of the Green Room at 0 (R267). The domains but the stage cores' are up (log entry 58). Leave that those units and Elvuk's commands
held is free; every message on its way is gone, but those that AO keeps (R431). -/
def firmwareReset (s : State) : State :=
  let b := State.base s.variant
  let s := resetCores s
  let s := s.wipe 0x10000000 0x10200000
  let s := s.wipe 0x1C000100 0x1C008000
  let mine (r : Fin 41) : Bool :=
    decide (r.val < 16) && (s.elv.jobs.all fun j => j.ticket ≠ some r && j.stage ≠ .leave r) && decide (s.elv.clean ≠ some r)
  let held := Vector.ofFn fun r : Fin 41 => if mine r then s.lv.held[r] else 0
  { s with
    sys := { s.sys with err := {}, errSrc := 0, winlog2 := 10, paceRun := none, paceStat := {}, paceCount := 0, paceStep := 0 }
    ec := { s.ec with posting := false }
    lv := { s.lv with held := held, waiting := s.lv.waiting.filter fun w => mine w.r }
    pwr := { s.pwr with dom := s.pwr.dom ||| dom0 s.variant, coming := [], retry := Vector.replicate 8 none, heldUp := []
                        sram := b.pwr.sram, drain := 0, toRetain := [] }
    pool := b.pool, cue := b.cue, fab := b.fab, bwr := b.bwr, dma := b.dma, trc := b.trc
    time := { s.time with tbShadow := b.time.tbShadow, rtcShadow := b.time.rtcShadow, tmr := b.time.tmr }
    adc := b.adc, spd := b.spd, lane := b.lane, laneBlk := b.laneBlk, stat := b.stat, uart := b.uart, i2c := b.i2c
    gpio := { pads := s.gpio.pads }
    cry := b.cry
    key := { s.key with slots := b.key.slots }
    elv := {}
    install := { s.install with session := none }
    sets := {}
    last := b.last
    boot := { s.boot with repost := aoEvents s }
    fatal := none }

/-! ### WD (R366-R373) -/

/-- WD_SVC written: a service in the closed window resets the device (R371). -/
def wdServiceWrite (s : State) (v : Word) : State :=
  let p := wdService s v
  if p.2 then deviceReset p.1 3 2 else p.1

def wdWrite (s : State) (w : Who) (off : Nat) (v : Word) : RegWrite :=
  match off with
  | 0x000 => .ok (wdCtrlWrite s w.p.m v)
  | 0x004 => .ok (wdServiceWrite s v)
  | 0x00C => .ok { s with wd := { s.wd with evt := s.wd.evt.clear w.p.m v } }
  | 0x008 | 0x010 | 0x014 => .ok s
  | _ => .bad 1

/-- The watchdog's count reaches its end (R374, R375). -/
def wdEnd (s : State) : State :=
  let p := wdExpire s
  match p.2 with
  | some d => deviceReset p.1 3 (natB d)
  | none => p.1

end Sys2Proof.Machine
end

