-- ==== Sys2Proof/Machine/Bus.lean ====
section
/-!
DEFINITION. Accesses by address: the peripheral blocks (R43), who may reach them (R15, R16, R301), the order of the answers (R50),
the answers given from the address alone (R533), and reads, writes and atomics of any region with their charge, their records and
what the requester learns (R49-R53, R132).
-/

namespace Sys2Proof.Machine

/-- Blocks that only the Prompter reaches (R15). -/
def Block.prompterOnly : Block → Bool
  | .flc | .otp | .key => true
  | _ => false

/-- Blocks that only the Prompter writes (R15). -/
def Block.prompterWrites : Block → Bool
  | .pwr | .lv | .hlink | .dbg | .cec | .ir | .kpd | .flc | .otp | .key => true
  | _ => false

/-- The PERIPH_OPEN bit of a block that has one (R314). -/
def Block.openBit : Block → Option Nat
  | .tb => some 0 | .dma => some 1 | .lane => some 2 | .adc => some 3 | .spd => some 4 | .stat => some 5 | .uart => some 6
  | .i2c => some 7 | .gpio => some 8 | .cry => some 9 | .trc => some 10
  | _ => none

/-- Whether a block is Open (R301). -/
def blockOpen (s : State) (b : Block) : Bool :=
  match b with
  | .cue | .pool | .fab | .sys => true
  | _ => match b.openBit with | some k => s.part.periph.getLsbD k | none => false

/-- The power domain of a block, by its code (R340). -/
def Block.domain : Block → Fin 16
  | .lane => 11 | .adc => 12 | .spd => 12 | .stat => 13 | .flc => 10
  | _ => 1

/-- The register of a block, read. -/
def blockRead (s : State) (b : Block) (w : Who) (off : Nat) : RegRead :=
  match b with
  | .sys => sysRead s w off | .pwr => pwrRead s w off | .lv => lvRead s w off | .tb => timeRead s w off | .wd => wdRead s w off
  | .fab => fabRead s w off | .cue => cueRead s w off | .pool => poolRead s w off | .ec => ecRead s w off | .dma => dmaRead s w off
  | .lane => laneRead s w off | .adc => adcRead s w off | .spd => spdRead s w off | .stat => statRead s w off
  | .hlink => hlinkRead s w off | .cec => cecRead s w off | .ir => irRead s w off | .kpd => kpdRead s w off
  | .uart => uartRead s w off | .i2c => i2cRead s w off | .gpio => gpioRead s w off | .cry => cryRead s w off
  | .trc => trcRead s w off | .dbg => dbgRead s off | .flc => flcRead s w off | .otp => otpRegRead s w off | .key => keyRead s off

/-- The register of a block, written. -/
def blockWrite (s : State) (b : Block) (w : Who) (off : Nat) (v : Word) : RegWrite :=
  match b with
  | .sys => sysWrite s w off v | .pwr => pwrWrite s w off v | .lv => lvWrite s w off v | .tb => timeWrite s w off v
  | .wd => wdWrite s w off v | .fab => fabWrite s w off v | .cue => cueWrite s w off v | .pool => poolWrite s w off v
  | .ec => ecWrite s w off v | .dma => dmaWrite s w off v | .lane => laneWrite s w off v | .adc => adcWrite s w off v
  | .spd => spdWrite s w off v | .stat => statRegWrite s w off v | .hlink => hlinkWrite s w off v | .cec => cecWrite s w off v
  | .ir => irWrite s w off v | .kpd => kpdWrite s w off v | .uart => uartWrite s w off v | .i2c => i2cWrite s w off v
  | .gpio => gpioWrite s w off v | .cry => cryWrite s w off v | .trc => trcWrite s w off v | .dbg => dbgWrite s off
  | .flc => flcWrite s w off v | .otp => otpRegWrite s w off v | .key => keyWrite s off v

/-- Whether world and ownership let a master reach a listed register of a block (R15, R16, R263, R301). -/
def blockMay (s : State) (b : Block) (w : Who) (write : Bool) : Bool :=
  (w.secure || blockOpen s b) && !(write && b.prompterWrites && w.p.m.val ≠ 8) && !(b = .cry && cryClosed s w)

/-- Whether an offset is a register of an absent instance in a present block (R7): ABSENT comes before every other answer (R50). -/
def instAbsent (s : State) (b : Block) (w : Who) (off : Nat) : Bool :=
  match blockRead s b w (off / 4 * 4) with
  | .bad ans => ans = 2
  | _ => false

/-- A read of a peripheral register (R42, R50). -/
def periphRead (s : State) (w : Who) (blk off bytes : Nat) : RegRead :=
  match blockAt blk with
  | none => .bad 1
  | some b =>
    if b.absent s.variant || instAbsent s b w off then .bad 2
    else if bytes ≠ 4 || (b.prompterOnly && w.p.m.val ≠ 8) then .bad 1
    else match blockRead s b w off with
      | .bad ans => .bad (if ans = 1 ∨ ans = 2 then ans else 3)
      | r => if !blockMay s b w false then .bad 3 else if !domUp s b.domain then .bad 6 else r

/-- A write of a peripheral register (R42, R50). -/
def periphWrite (s : State) (w : Who) (blk off bytes : Nat) (v : Word) : RegWrite :=
  match blockAt blk with
  | none => .bad 1
  | some b =>
    if b.absent s.variant || instAbsent s b w off then .bad 2
    else if bytes ≠ 4 || (b.prompterOnly && w.p.m.val ≠ 8) then .bad 1
    else match blockWrite s b w off v with
      | .bad ans => .bad (if ans = 1 ∨ ans = 2 then ans else 3)
      | r => if !blockMay s b w true then .bad 3 else if !domUp s b.domain then .bad 6 else r

/-- How an access ends: with an answer and, for a read, its data; held at its target; or not admitted yet (R154). -/
inductive BusRes where
  | done (s : State) (ans : Nat) (v : Word)
  | wait (s : State) (k : BlockKind)
  | later (s : State)

/-- The answer that an access gets from its address alone, 0 when it goes to its target (R533). -/
def staticAns (s : State) (w : Who) (acc : Acc) (a bytes : Nat) : Nat :=
  match regionOf a with
  | .periph blk _ =>
    match blockAt blk with
    | none => 1
    | some b =>
      if b.absent s.variant then 2
      else if acc = .atomic ∨ acc = .fetch ∨ bytes ≠ 4 then (if instAbsent s b w (a % 0x10000) then 0 else 1) else 0
  | .priv _ =>
    if 8 < w.p.m.val ∨ acc = .atomic ∨ acc = .fetch ∨ bytes ≠ 4 then 1 else if w.priv then 0 else 3
  | _ => memStatic s w acc a

/-- The answer at acceptance of an access other than the read or write of a register (R149). -/
def accept (s : State) (w : Who) (acc : Acc) (a bytes : Nat) : Nat :=
  let st := staticAns s w acc a bytes
  if st ≠ 0 then st
  else match regionOf a with
    | .periph .. => 2
    | _ => memAccept s w acc a

/-- Whether an access that is not answered from its address is one of the fabric (R39, R44): neither the own CLS nor a private
register. -/
def onFabric (a : Nat) : Bool :=
  match regionOf a with
  | .ownCls | .priv _ => false
  | _ => true

/-- The stage core that a port names. -/
def portCore (m : Master) : Option Core := if h : m.val < 8 then some ⟨m.val, h⟩ else none

/-- An access answered other than OK: its record and, for the master, the answer (R49-R53). -/
def busFail (s : State) (w : Who) (ans : Nat) (a : Nat) (detail : Nat) : State :=
  setLast (memFail s w ans a detail) w.p.m (BitVec.ofNat 3 ans) 0

/-- A read of 1, 2 or 4 aligned bytes at any address, its charge apart. -/
def busReadAt (s : State) (w : Who) (a bytes : Nat) : BusRes :=
  let st := staticAns s w .read a bytes
  if st ≠ 0 then .done (busFail s w st a 0) st 0
  else
    let fin (s : State) (v : Word) : BusRes := .done (setLast s w.p.m 0 v) 0 v
    let reg (r : RegRead) : BusRes := match r with
      | .bad ans => .done (busFail s w ans.toNat a 0) ans.toNat 0
      | .ok s v => fin s v
      | .wait s k => .wait s k
    match regionOf a with
    | .periph blk off => reg (periphRead s w blk off bytes)
    | .priv off => reg (privRead s w.p.m w.p.m w.secure off)
    | _ =>
      let ok : Bool := memAccept s w .read a = 0
      if ok && flashHeld s a then .wait s (.flashRead (natW a))
      else
        let r := memRead (if ok then flashTouch s a else s) w a bytes
        .done (setLast r.1 w.p.m (BitVec.ofNat 3 r.2.1) r.2.2) r.2.1 r.2.2

/-- A write of 1, 2 or 4 aligned bytes at any address, its charge apart. -/
def busWriteAt (s : State) (w : Who) (a bytes : Nat) (v : Word) (detail : Nat) : BusRes :=
  let st := staticAns s w .write a bytes
  if st ≠ 0 then .done (busFail s w st a detail) st 0
  else
    let reg (r : RegWrite) : BusRes := match r with
      | .bad ans => .done (busFail s w ans.toNat a detail) ans.toNat 0
      | .field t => .done (busFail t w 7 a detail) 7 0
      | .ok t => .done (setLast t w.p.m 0 0) 0 0
      | .wait t k => .wait t k
    match regionOf a with
    | .periph blk off => reg (periphWrite s w blk off bytes v)
    | .priv off => reg (privWrite s w.p.m w.p.m w.secure false off v)
    | _ =>
      let r := memWrite s w a bytes v detail
      .done (setLast r.1 w.p.m (BitVec.ofNat 3 r.2) 0) r.2 0

/-- Whether an access of a master is charged as a transaction of the fabric (R39, R152). -/
def busCharged (s : State) (w : Who) (acc : Acc) (a bytes : Nat) : Bool := staticAns s w acc a bytes = 0 && onFabric a

/-- A single access: it is admitted and charged where the fabric carries it (R152-R155), and then `f`. -/
def busTake (s : State) (w : Who) (acc : Acc) (a bytes : Nat) (f : State → BusRes) : BusRes :=
  if busCharged s w acc a bytes then
    let r := bwrTake s w.p.m 4
    if r.2 then f r.1 else .later r.1
  else f s

/-- A read with its charge (R152). -/
def busRead (s : State) (w : Who) (a bytes : Nat) : BusRes := busTake s w .read a bytes fun s => busReadAt s w a bytes

/-- A write with its charge (R152). -/
def busWrite (s : State) (w : Who) (a bytes : Nat) (v : Word) (detail : Nat) : BusRes :=
  busTake s w .write a bytes fun s => busWriteAt s w a bytes v detail

/-- An atomic on an aligned word: `f` gives the new value of the old one, none to store nothing (R132). -/
def busAtomicAt (s : State) (w : Who) (a : Nat) (f : Word → Option Word) : BusRes :=
  let early := accept s w .atomic a 4
  let ans := if early ≠ 0 then early else memAnswer s w .atomic a 4
  if ans ≠ 0 then .done (busFail s w ans a 0) ans 0
  else
    let q := physAddr w.p.m a
    let s := if s.sec.contains q then ecCorrect s w q true else s
    let old := natW (ofLe (memBytes s.mem q 4))
    let s := match f old with | some v => s.put q (leBytes 4 v.toNat) | none => s
    .done (setLast s w.p.m 0 old) 0 old

/-- An atomic with its charge (R152). -/
def busAtomic (s : State) (w : Who) (a : Nat) (f : Word → Option Word) : BusRes :=
  busTake s w .atomic a 4 fun s => busAtomicAt s w a f

end Sys2Proof.Machine
end

