-- ==== Sys2Proof/Machine/StoreBuf.lean ====
section
/-!
DEFINITION. The data accesses of a stage core (06, 07): their targets and counts, the store buffer, loads and stores by a word, and the
accesses of a port that a command names.
-/

namespace Sys2Proof.Machine

/-! ### Who, where and how long -/

/-- A stage core as the maker of an access. -/
def coreWho (s : State) (c : Core) : Who := ⟨⟨coreM c, 0⟩, s.cores[c].world, s.cores[c].priv⟩

/-- The kinds of target that R109, R118 and the store buffer tell apart. -/
inductive Target where
  | cls | sramNear | sramFar | green | flash | periph | priv | static
deriving DecidableEq, Repr

/-- The target of an access that is not answered from its address alone. -/
def targetOf (a : Nat) : Target :=
  match regionOf a with
  | .ownCls => .cls
  | .sram b => if b.val < 8 then .sramNear else .sramFar
  | .green _ => .green
  | .flash .. => .flash
  | .periph .. => .periph
  | .clsAlias _ => .periph
  | .priv _ => .priv
  | _ => .static

/-- Whether stores to a target go through the store buffer (R125), whether an access to it waits for the buffer to drain (R111, R135), and
whether the fabric carries it. -/
def Target.buffered : Target → Bool | .sramNear | .sramFar | .green => true | _ => false
def Target.drains : Target → Bool | .periph => true | _ => false
def Target.fabric : Target → Bool | .cls | .priv | .static => false | _ => true

/-- Steps and beats of an instruction (R109, R118). -/
structure Cost where
  st : Nat
  bt : Nat
deriving DecidableEq, Repr

def Cost.max (a b : Cost) : Cost := ⟨Nat.max a.st b.st, Nat.max a.bt b.bt⟩

def loadCost (t : Target) (hit : Bool) : Cost :=
  match t with
  | .cls | .priv => ⟨2, 2⟩ | .sramNear => ⟨9, 5⟩ | .sramFar => ⟨12, 6⟩ | .green => ⟨14, 7⟩
  | .flash => ⟨if hit then 8 else 30, 14⟩ | .periph => ⟨14, 7⟩ | .static => ⟨1, 1⟩

def storeCost (t : Target) : Cost := match t with | .periph => ⟨14, 7⟩ | _ => ⟨1, 1⟩

def atomicCost (t : Target) : Cost :=
  match t with | .sramNear => ⟨20, 10⟩ | .sramFar => ⟨23, 11⟩ | .green => ⟨25, 12⟩ | .periph => ⟨14, 7⟩ | _ => ⟨1, 1⟩

/-- Whether a flash read of an address hits a read buffer (R103). -/
def flashHit (s : State) (a : Nat) : Bool := s.flc.rbuf.contains (a / 32)

/-- The cost of an access with its answer from the address alone taken into account (R533), and the time of a bind (R96). -/
def accCost (s : State) (c : Core) (acc : Acc) (a bytes : Nat) : Cost :=
  let st := staticAns s (coreWho s c) acc a bytes
  if st ≠ 0 then ⟨1, 1⟩
  else match acc with
    | .write => (match regionOf a with
        | .priv off => if off < 0x80 ∧ off % 16 = 0 then ⟨16, 8⟩ else ⟨1, 1⟩
        | _ => storeCost (targetOf a))
    | .atomic => atomicCost (targetOf a)
    | _ => loadCost (targetOf a) (flashHit s a)

/-! ### Store buffer (R125-R128) -/

/-- Entries leave for the fabric in their order, as long as they are admitted (R125, R146, R154). -/
def sbIssue : Nat → State → Core → State
  | 0, s, _ => s
  | n + 1, s, c =>
    match s.cores[c].sb.findIdx? (!·.out) with
    | none => s
    | some i =>
      let r := bwrTry s (coreM c) 4
      if r.2 then sbIssue n (r.1.updCore c fun k => { k with sb := k.sb.modify i fun e => { e with out := true } }) c else r.1

/-- The oldest entry of a buffer completes, with TIMEOUT when its target did not answer within the limit. A failing entry takes the younger
ones with it and is held for the BUS trap (R128). -/
def sbComplete (s : State) (c : Core) (timeout : Bool) : State :=
  match s.cores[c].sb with
  | [] => s
  | e :: rest =>
    let w : Who := ⟨⟨coreM c, 0⟩, e.secure, true⟩
    let held := s.cores[c].held
    let detail := 2 + boolN held.isSome 3 + rest.length * 256
    let r : State × Nat := if timeout then (ecBus s w 5 e.addr 0, 5) else memWrite s w e.addr.toNat e.bytes e.data detail
    let s := setLast r.1 (coreM c) (BitVec.ofNat 3 r.2) 0
    if r.2 = 0 then s.updCore c fun k => { k with sb := rest, sbDue := if rest.isEmpty then 0 else 3 }
    else s.updCore c fun k => { k with
      sb := []
      sbDue := 0
      held := match k.held with
        | none => some { addr := e.addr, answer := BitVec.ofNat 3 r.2, dropped := BitVec.ofNat 3 rest.length }
        | some h => some { h with more := true } }

/-- The oldest entry completes once it has left for the fabric. -/
def sbStep (s : State) (c : Core) (timeout : Bool) : State :=
  let s := sbIssue s.cores[c].sb.length s c
  match s.cores[c].sb with
  | e :: _ => if e.out then sbComplete s c timeout else s
  | [] => s

def sbSteps : Nat → State → Core → State
  | 0, s, _ => s
  | n + 1, s, c => sbSteps n (sbStep s c false) c

/-- The buffer drains (R111), as far as its entries are admitted. -/
def sbDrain (s : State) (c : Core) : State := sbSteps s.cores[c].sb.length s c

/-- The buffer is performed to its end, with the core stopped and nothing else to come (R345, R349, R503). -/
def sbFlush : Nat → State → Core → State
  | 0, s, _ => s
  | n + 1, s, c =>
    match s.cores[c].sb with
    | [] => s
    | e :: _ => sbFlush n (sbComplete (if e.out then s else bwrCharge (bwrNow s) (coreM c) 4) c false) c

/-- Steps until the buffer has drained, with no other traffic (R110). -/
def sbWait (k : CoreState) : Nat := if k.sb.isEmpty then 0 else k.sbDue + 3 * (k.sb.length - 1)

/-- The held failure raises its BUS trap (R128). -/
def heldTrap (s : State) (c : Core) : State :=
  match s.cores[c].held with
  | none => s
  | some h =>
    let s := s.updCore c fun k => { k with held := none }
    trapEnter s c 0x05 (natW (h.answer.toNat + 16 + boolN h.more 5 + h.dropped.toNat * 256)) h.addr s.cores[c].pc false none

/-- An instruction that must not follow a failed store finds one held: BUS at this instruction, or a double trap (R128). -/
def heldStop (s : State) (c : Core) : State :=
  match s.cores[c].held with
  | none => s
  | some h =>
    let d := natW (h.answer.toNat + 16 + boolN h.more 5 + h.dropped.toNat * 256)
    let s := if s.cores[c].tl then s else s.updCore c fun k => { k with held := none }
    wordTrap s c 0x05 d h.addr

/-- Whether an entry overlaps bytes [a, a + n), and whether it holds them all. -/
def SbEntry.overlaps (e : SbEntry) (a n : Nat) : Bool := decide (e.addr.toNat < a + n) && decide (a < e.addr.toNat + e.bytes)
def SbEntry.covers (e : SbEntry) (a n : Nat) : Bool := decide (e.addr.toNat ≤ a) && decide (a + n ≤ e.addr.toNat + e.bytes)

/-- What a load finds in the store buffer (R126). -/
inductive SbFind where
  | miss
  | forward (v : Word)
  | drain
deriving DecidableEq, Repr

def sbFind (sb : List SbEntry) (a n : Nat) : SbFind :=
  match (sb.reverse).find? fun e => e.overlaps a n with
  | none => .miss
  | some e =>
    if e.covers a n then .forward (natW ((e.data.toNat / 256 ^ (a - e.addr.toNat)) % 256 ^ n)) else .drain

/-! ### Data accesses of a core -/

/-- How a data access ends: done with its data, held at its target, answered other than OK, stopped by a failed store, or not admitted
yet. -/
inductive AccRes where
  | done (s : State) (v : Word)
  | wait (s : State) (k : BlockKind)
  | fail (s : State) (ans : Nat)
  | stop (s : State)
  | later (s : State)

def accOf : BusRes → AccRes
  | .done s 0 v => .done s v
  | .done s ans _ => .fail s ans
  | .wait s k => .wait s k
  | .later s => .later s

/-- A core waits for admission. -/
def coreAsks (s : State) (c : Core) : State := { s with fab := { s.fab with asking := putV s.fab.asking (coreM c) true } }

/-- The buffer drains before an access that must wait for it; a failed store stops the access (R111, R128). -/
def drained (s : State) (c : Core) (f : State → AccRes) : AccRes :=
  let s := sbDrain s c
  if s.cores[c].held.isSome then .stop (heldStop s c)
  else if s.cores[c].sb.isEmpty then f s
  else .later (coreAsks s c)

/-- A load that overlaps buffered bytes without finding them all waits for the buffer to drain, and then goes to its target (R126). -/
def loadDrained (s : State) (c : Core) (f : State → AccRes) : AccRes :=
  let s := sbDrain s c
  if s.cores[c].sb.isEmpty then f s else .later (coreAsks s c)

/-- A load of 1, 2 or 4 bytes (R126). -/
def coreLoad (s : State) (c : Core) (a n : Nat) : AccRes :=
  let t := targetOf a
  let go (s : State) : AccRes := accOf (busRead s (coreWho s c) a n)
  if t.drains then drained s c go
  else if t.buffered && staticAns s (coreWho s c) .read a n = 0 then
    match sbFind s.cores[c].sb a n with
    | .miss => go s
    | .forward v => .done (setLast s (coreM c) 0 v) v
    | .drain => loadDrained s c go
  else go s

/-- The answer of a store to a buffered region before it takes an entry (R127). -/
def sbCheck (s : State) (w : Who) (a n : Nat) : Nat :=
  let st := staticAns s w .write a n
  if st ≠ 0 then st else if memTarget s w .write a ≠ 0 then memTarget s w .write a else if inTable s a then 3 else 0

/-- A store takes an entry of the buffer, which leaves for the fabric as soon as it is admitted (R125, R146). -/
def sbPush (s : State) (c : Core) (e : SbEntry) : State :=
  let s := s.updCore c fun k => { k with
    sb := k.sb ++ [e], sbDue := if k.sb.isEmpty then (loadCost (targetOf e.addr.toNat) false).st else k.sbDue }
  sbIssue s.cores[c].sb.length s c

/-- A store of 1, 2 or 4 bytes (R125, R127, R135). One that finds the buffer full waits until the oldest entry completes (R111). -/
def coreStore (s : State) (c : Core) (a n : Nat) (v : Word) : AccRes :=
  let t := targetOf a
  let w := coreWho s c
  let go (s : State) : AccRes := accOf (busWrite s (coreWho s c) a n v 0)
  if t.drains then drained s c go
  else if t.buffered then
    let st := sbCheck s w a n
    if st ≠ 0 then .fail (busFail s w st a 0) st
    else
      let s := if 8 ≤ s.cores[c].sb.length then sbStep s c false else s
      if 8 ≤ s.cores[c].sb.length then .later (coreAsks s c)
      else .done (sbPush s c ⟨natW a, n, natW (v.toNat % 256 ^ n), w.secure, false⟩) 0
  else go s

/-! ### Accesses of a port that is named in a command -/

/-- Whether the master of a port can make an access now: it is present, and a stage core runs with no access of it held and no word half
done, DMA and debug only as R303 lets them. -/
def portMay (s : State) (p : Port) : Bool :=
  masterPresent s.variant p.m && s.pwr.mode ≠ .standby &&
    (match portCore p.m with
      | some c => coreUp s c && s.cores[c].run = .running && !coreInWord s c
      | none => !(p.m.val = 14 && s.dbg.level = 0) && !(s.fab.blocked.any fun b => b.port = p))

/-- The access is held at its target. -/
def portWait (s : State) (p : Port) (w : Who) (addr : Word) (k : BlockKind) : State :=
  let b : Blocked := { port := p, kind := k, arrival := s.now, addr := addr, secure := w.secure, core := portCore p.m }
  { s with fab := { s.fab with blocked := s.fab.blocked ++ [b] } }

/-- What the access of a stage core by its port leaves: a failed one traps as that of a word does (R52, R128). -/
def portDone (s : State) (c : Core) (p : Port) (addr : Word) : AccRes → State
  | .done t _ => t
  | .wait t k => portWait t p (coreWho s c) addr k
  | .fail t ans => wordTrap t c 0x05 (natW ans) addr
  | .stop t => t
  | .later t => t

/-- What an access of another master by its port leaves. -/
def portLeft (s : State) (p : Port) (addr : Word) : BusRes → State
  | .done t _ _ => t
  | .wait t k => portWait t p (portWho s p) addr k
  | .later t => t

/-- A 32-bit write by a port. The accesses of a stage core are ordered against its buffered stores (R129, R133). -/
def portWrite (s : State) (p : Port) (addr v : Word) : State :=
  if !portMay s p || addr.toNat % 4 ≠ 0 then s
  else match portCore p.m with
    | some c => portDone s c p addr (coreStore s c addr.toNat 4 v)
    | none => portLeft s p addr (busWrite s (portWho s p) addr.toNat 4 v 0)

/-- A 32-bit read by a port. -/
def portRead (s : State) (p : Port) (addr : Word) : State :=
  if !portMay s p || addr.toNat % 4 ≠ 0 then s
  else match portCore p.m with
    | some c => portDone s c p addr (coreLoad s c addr.toNat 4)
    | none => portLeft s p addr (busRead s (portWho s p) addr.toNat 4)

/-- A write whose effect the arbiter orders against an event of the same tick: `f` in place of the register's own effect, when the access
is answered OK. -/
def busWriteAs (s : State) (w : Who) (a : Nat) (v : Word) (f : State → State) : BusRes :=
  busTake s w .write a 4 fun s =>
    match busWriteAt s w a 4 v 0 with
    | .done t ans _ => if ans = 0 then .done (setLast (f s) w.p.m 0 0) 0 0 else .done t ans 0
    | r => r

/-- Such a write by a port, to a peripheral register. -/
def portWriteAs (s : State) (p : Port) (addr v : Word) (f : State → State) : State :=
  if !portMay s p || addr.toNat % 4 ≠ 0 then s
  else match portCore p.m with
    | some c => portDone s c p addr (drained s c fun s => accOf (busWriteAs s (coreWho s c) addr.toNat v f))
    | none => portLeft s p addr (busWriteAs s (portWho s p) addr.toNat v f)

end Sys2Proof.Machine
end

