-- ==== Sys2Proof/Machine/Twiard.lean ====
section
/-!
DEFINITION. The Twiard engine (04, 05, 06): the fetch path, the pace of a core, breakpoints, the causes of one word in the order
of R89, and the effect of every word. The commands of Instr that are Twiard words, and the STEP of debug access, run it.
-/

namespace Sys2Proof.Machine

/-! ### Fetch (R102-R107) -/

/-- Whether an address lies in a region that R301 marks Secure. -/
def secureAddr (s : State) (a : Nat) : Bool :=
  match regionOf a with
  | .flash _ off => decide (off < flashBank s.variant) && !openAddr s a
  | .sram b => decide (b.val < bankCount s.variant) && !openAddr s a
  | .clsAlias n => decide (n.val < coreCount s.variant)
  | .green _ => !openAddr s a
  | .periph blk _ => match blockAt blk with | some b => !b.absent s.variant && !blockOpen s b | none => false
  | _ => false

/-- Regions from which the fetch unit requests lines, present or not (R102). -/
def linesFrom (a : Nat) : Bool :=
  match regionOf a with
  | .flash .. | .sram _ => true
  | _ => false

/-- The answer to the fetch of a word as memory stands, a hold apart: at acceptance, then the word's own error. -/
def fetchAns (s : State) (c : Core) (a : Nat) : Nat :=
  let w : Who := { coreWho s c with secure := true }
  let early := accept s w .fetch a 4
  if early ≠ 0 then early
  else if wordBad s (eccWord (physAddr w.p.m a)) then 4
  else 0

/-- A word as memory stands: the answer that travels with it (R52), and whether it is corrected (R534). -/
def wordNow (s : State) (c : Core) (a : Nat) : BitVec 3 × Bool :=
  (BitVec.ofNat 3 (fetchAns s c a), s.sec.contains (eccWord (physAddr (coreM c) a)))

/-- A line as memory stands when its answer is given. Writes after that are not seen (R107). -/
def lineNow (s : State) (c : Core) (l : Nat) : Line := ⟨l, (List.range 8).map fun i => wordNow s c (32 * l + 4 * i)⟩

/-- Whether a flash operation holds the answer to a line request (R278). -/
def lineHeld (s : State) (c : Core) (l : Nat) : Bool :=
  flashHeld s (32 * l) && decide (accept s { coreWho s c with secure := true } .fetch (32 * l) 4 = 0)

/-- The line that the core holds of those with number `l`: in its line buffer, or arrived after it. -/
def lineIn (k : CoreState) (l : Nat) : Option Line :=
  match k.line with
  | some x => if x.num = l then some x else k.lineNext.filter (·.num = l)
  | none => k.lineNext.filter (·.num = l)

/-- The word at the pc as the core sees it: from a line that it holds, or as memory stands. -/
def wordSeen (s : State) (c : Core) : BitVec 3 × Bool :=
  let a := s.cores[c].pc.toNat
  if linesFrom a then
    match lineIn s.cores[c] (a / 32) with
    | some x => x.words.getD (a % 32 / 4) (0, false)
    | none => wordNow s c a
  else wordNow s c a

/-- The outstanding line request is answered, unless its target holds it: a flash line fills a read buffer (R103, R105), and the line is
kept unless it is wrong-path. -/
def lineArrive (s : State) (c : Core) : State :=
  match s.cores[c].lineReq with
  | none => s
  | some r =>
    if lineHeld s c r.num then s
    else
      let x := lineNow s c r.num
      let s := if accept s { coreWho s c with secure := true } .fetch (32 * r.num) 4 = 0 then flashTouch s (32 * r.num) else s
      s.updCore c fun k => { k with lineReq := none, lineNext := if r.wrong then none else some x }

/-- A line request reaches the fabric: 32 bytes charged (R105, R152). -/
def lineAsk (s : State) (c : Core) (l : Nat) : State :=
  s.updCore c fun k => { k with lineReq := some ⟨l, false, s.now⟩, ahead := (loadCost (targetOf (32 * l)) (flashHit s (32 * l))).st, hid := 0 }

/-- The line of the word at the pc is there, or is got: the outstanding request comes first, since there is at most one (R102). None while
a target holds a line, or the regulator does not admit the request. -/
def lineGet (s : State) (c : Core) (l : Nat) : State × Bool :=
  if (lineIn s.cores[c] l).isSome then (s, true)
  else
    let s := lineArrive s c
    if s.cores[c].lineReq.isSome then (s, false)
    else if (lineIn s.cores[c] l).isSome then (s, true)
    else
      let r := bwrTake s (coreM c) 32
      if !r.2 then (r.1, false)
      else
        let s := lineArrive (lineAsk r.1 c l) c
        (s, s.cores[c].lineReq.isNone)

/-- The next line is requested when the first word of this one enters decode, and later if the regulator does not admit it then (R102, R106;
log entry 52). In the delay slot of a taken transfer too: the line is then wrong-path when it comes (R105). -/
def lineAhead (s : State) (c : Core) (l : Nat) : State :=
  let k := s.cores[c]
  let next := 32 * (l + 1)
  if k.lineReq.isSome || k.lineNext.isSome || !linesFrom next || (secureAddr s next && !k.world) then s
  else
    let r := bwrTry s (coreM c) 32
    if r.2 then lineAsk r.1 c (l + 1) else r.1

/-- The fetch penalty of the word at the pc (R112): a target waits for its line, a word that is the first of a new line for what is left of a
request made ahead. `delay`: steps beyond it, when the fabric delayed a line that is awaited. -/
def fetchPenalty (s : State) (c : Core) (delay : Nat) : Nat :=
  let k := s.cores[c]
  let a := k.pc.toNat
  let l := a / 32
  if regionOf a = .ownCls then (if k.reached = .target || k.reached = .handler then 1 else 0)
  else if !linesFrom a || k.line.any (·.num = l) then 0
  else if k.lineReq.any (fun r => r.num = l && !r.wrong) || k.lineNext.any (·.num = l) then
    k.ahead - k.hid + (if k.lineNext.isSome then 0 else delay)
  else (loadCost (targetOf a) (flashHit s a)).st + delay

/-- The penalty passes before the word enters execute: that of a delay slot whose transfer is taken passes before the target (R108). In
Metronome mode there is none but the beat before the first handler word (R118, R122). -/
def payFetch (s : State) (c : Core) (pen : Nat) : State :=
  let k := s.cores[c]
  let beat := if k.reached = .handler then 1 else 0
  let taken : Bool := match k.flow with | some f => f.kind ≠ .branch none false | none => false
  if taken && !k.metEn then s.updCore c fun k => { k with owed := k.owed + pen, reached := .seq }
  else
    let s := spend s c (pen + k.owed) beat
    s.updCore c fun k => { k with owed := 0, reached := .seq }

/-- The word at the pc is delivered to decode, with the line requests that this takes (R102), or is not there yet. -/
def fetchLine (s : State) (c : Core) (delay : Nat) : State × Bool :=
  let a := s.cores[c].pc.toNat
  let l := a / 32
  let pen := fetchPenalty s c delay
  if !linesFrom a then
    let s := s.updCore c fun k => { k with line := none, lineNext := none, lineReq := k.lineReq.map fun r => { r with wrong := true } }
    (payFetch s c pen, true)
  else if s.cores[c].line.any (·.num = l) then (lineAhead (payFetch s c pen) c l, true)
  else
    let g := lineGet s c l
    if !g.2 then g
    else
      let s := payFetch g.1 c pen
      let s := s.updCore c fun k => { k with line := lineIn k l, lineNext := if k.lineNext.any (·.num = l) then none else k.lineNext }
      (lineAhead s c l, true)

/-- How the fetch of a word ends: delivered, trapped, or awaited. -/
inductive Fetched where
  | word (s : State)
  | trap (s : State)
  | later (s : State)

/-- Causes 1 to 3 of R89 on the word at the pc. METRO_FETCH and WORLD make no access (R106, R115). -/
def fetchWord (s : State) (c : Core) (delay : Nat) : Fetched :=
  let k := s.cores[c]
  let a := k.pc.toNat
  if k.metEn && regionOf a ≠ .ownCls then .trap (wordTrap s c 0x09 0 k.pc)
  else if !k.world && secureAddr s a then .trap (wordTrap s c 0x03 0 k.pc)
  else
    let f := fetchLine s c delay
    if !f.2 then .later f.1
    else
      let x := wordSeen f.1 c
      let w := coreWho s c
      if x.1 ≠ 0 then .trap (wordTrap (memFail f.1 w x.1.toNat a 1) c 0x05 (natW (x.1.toNat + 8)) k.pc)
      else .word (if x.2 then ecCorrect f.1 w (eccWord (physAddr w.p.m a)) false else f.1)

/-! ### Registers with errors (R495) -/

/-- The registers and entries of a core by the numbers of this model: general register r, system register 16 + n, entry i of the
return stack, oldest first, 32 + i. -/
def eccRecord (s : State) (c : Core) (i : Nat) : State :=
  let d := if i < 32 then 1 + (if i < 16 then i else i - 16) * 256 else 2 + (i - 32) % 256 * 256
  let s := s.updCore c fun k => { k with sec := k.sec.filter (· ≠ i) }
  ecBuild s 0x0C 0 (BitVec.ofNat 4 c.val) s.cores[c].world 0 0 (natW d)

/-- The registers that a word reads are checked: corrected ones are recorded; one that cannot be corrected stops the core. -/
def eccRead (s : State) (c : Core) (l : List Nat) : State × Bool :=
  let k := s.cores[c]
  match l.find? fun i => k.ded.contains i with
  | some i => (machineCheck s c (if i < 32 then 2 else 3) 0 k.pc, false)
  | none => ((l.eraseDups.filter fun i => k.sec.contains i).foldl (fun s i => eccRecord s c i) s, true)

/-- General registers that a slot reads. -/
def slotReads (t : Slot) : List Reg :=
  let op := t.op.toNat
  if slotAlu t then (if op = 1 then [] else [t.d]) ++ (if t.m.getLsbD 1 then [] else [t.s])
  else if op = 0x0F ∨ op = 0x10 then [t.d] ++ (if t.m.getLsbD 1 then [] else [t.s])
  else if op = 0x12 ∨ op = 0x13 ∨ op = 0x14 ∨ op = 0x15 then [t.s]
  else if op = 0x16 then [t.d, t.s]
  else if op = 0x17 then [15, t.s]
  else if op = 0x18 then [15]
  else if op = 0x19 then (if t.m = 1 then [t.s] else [])
  else if op = 0x1A ∨ op = 0x1B then [t.d, t.s]
  else []

/-- What a word reads, by the numbers of `eccRecord`. -/
def TWord.reads (w : TWord) (depth : Nat) : List Nat :=
  let g (l : List Reg) : List Nat := (l.filter (· ≠ 0)).map fun r => r.toNat
  match w with
  | .imm _ _ a _ | .cmpi a _ | .shifti _ a _ _ _ | .ext _ a _ _ _ | .load _ _ a _ | .qget _ a | .jr a | .callr a | .mtsr a _
  | .rsload a => g [a]
  | .ins d a _ _ | .store _ d a _ => g [d, a]
  | .alu _ _ a e _ | .shift _ a e _ _ | .div _ _ a e _ _ | .qput _ a e => g [a, e]
  | .atomic k d a e => g (if k = .cas then [d, a, e] else [a, e])
  | .mfsr _ n => [16 + n.toNat]
  | .ret => [32 + (depth - 1)]
  | .rett => [17, 18, 19]
  | .rssave a => g [a] ++ (List.range depth).map (32 + ·)
  | .pair x y => g (slotReads x ++ slotReads y)
  | _ => []

/-! ### Plain words: arithmetic, loads and stores, pairs -/

/-- A memory access of a word. -/
inductive MemAct where
  | load (op : LdOp) (d : Reg) (a : Word)
  | store (a : Word) (bytes : Nat) (v : Word)
deriving DecidableEq, Repr

def LdOp.bytes : LdOp → Nat | .w => 4 | .h | .hu => 2 | .b | .bu => 1
def StOp.bytes : StOp → Nat | .w => 4 | .h => 2 | .b => 1

def MemAct.addr : MemAct → Word | .load _ _ a => a | .store a .. => a
def MemAct.bytes : MemAct → Nat | .load op .. => op.bytes | .store _ n _ => n

/-- What a plain word, or one slot of a pair, does: register results computed by the core, flags, an access, and its cost without the
access. `wrap`: a PUSH whose decrement wraps (R83). -/
structure Plan where
  regs : List (Reg × Word) := []
  fl   : Option Fl := none
  mem  : Option MemAct := none
  cost : Cost := ⟨1, 1⟩
  wrap : Bool := false
deriving DecidableEq, Repr

/-- A slot (R71), with the registers and flags from before the pair (R72). -/
def slotPlan (k : CoreState) (t : Slot) : Plan :=
  let op := t.op.toNat
  let d := k.reg t.d
  let src : Word := if t.m.getLsbD 1 then t.s.setWidth 32 else k.reg t.s
  let r := k.reg t.s
  let g15 := k.reg 15
  let mem (a : Word) : Word := a + 4 * t.m.setWidth 32
  if op = 0 then {}
  else if op = 0x0F ∨ op = 0x10 then { fl := some (aluShort op d src k.fl).2 }
  else if slotAlu t then
    let p := aluShort op d src k.fl
    { regs := [(t.d, p.1)], fl := if t.m.getLsbD 0 then some p.2 else none, cost := if op = 0x11 then ⟨3, 2⟩ else ⟨1, 1⟩ }
  else if op = 0x15 then { mem := some (.load .w t.d (mem r)) }
  else if op = 0x16 then { mem := some (.store (mem r) 4 d) }
  else if op = 0x17 then { regs := [(15, g15 - 4)], mem := some (.store (g15 - 4) 4 r), wrap := decide (g15.toNat < 4) }
  else if op = 0x18 then { regs := [(15, g15 + 4)], mem := some (.load .w t.d g15) }
  else if op = 0x19 then
    (if t.m = 0 then { regs := [(t.d, k.fl.setWidth 32)] }
     else if t.m = 1 then { fl := some (r.setWidth 4) }
     else { regs := [(t.d, natW k.rs.length)] })
  else { regs := [(t.d, fnShort op t.m.toNat d r)] }

/-- A system register read by MFSR (R81). -/
def srRead (k : CoreState) (c : Core) (n : Nat) : Word :=
  match n with
  | 0 => k.state | 1 => k.tpc | 2 => k.tfl | 3 => k.tstate | 4 => k.tcause | 5 => k.tdetail | 6 => k.taddr
  | 8 => k.tvecS | 9 => k.tvecO | 10 => k.dsl | 11 => natW k.rs.length | 12 => natW c.val
  | _ => 0

/-- The plans of a plain word, slot by slot; none for a word with a meaning of its own. -/
def plans (k : CoreState) (c : Core) (w : TWord) : Option (List Plan) :=
  let one (p : Plan) : Option (List Plan) := some [p]
  match w with
  | .imm op d a i => one { regs := [(d, immOp op (k.reg a) i)] }
  | .cmpi a i => one { fl := some (subFl (k.reg a) (i.signExtend 32) true).2 }
  | .lui d i => one { regs := [(d, i.setWidth 32 <<< 11)] }
  | .alu op d a b f =>
    let r := aluLong op (k.reg a) (k.reg b) k.fl
    let m : Bool := op = .mul || op = .mulh || op = .mulhu
    one { regs := [(d, r.1)], fl := if f then some r.2 else none, cost := if m then ⟨3, 2⟩ else ⟨1, 1⟩ }
  | .shifti d a f kind n =>
    let r := shiftBy kind (k.reg a) n.toNat
    one { regs := [(d, r.1)], fl := if f then some (shiftFl k.fl r.1 r.2) else none }
  | .shift d a b f kind =>
    let r := shiftBy kind (k.reg a) ((k.reg b).toNat % 32)
    one { regs := [(d, r.1)], fl := if f then some (shiftFl k.fl r.1 r.2) else none }
  | .ext d a sign wd pos => one { regs := [(d, extField (k.reg a) sign wd pos)] }
  | .ins d a wd pos => one { regs := [(d, insField (k.reg d) (k.reg a) wd pos)] }
  | .div sg d a b r f =>
    let q := divide sg (k.reg a) (k.reg b)
    one { regs := [(d, q.1), (r, q.2.1)], fl := if f then some (divFl k.fl q.1 q.2.2) else none, cost := ⟨18, 7⟩ }
  | .load op d a i => one { mem := some (.load op d (k.reg a + i.signExtend 32)) }
  | .store op d a i => one { mem := some (.store (k.reg a + i.signExtend 32) op.bytes (k.reg d)) }
  | .mfsr d n => one { regs := [(d, srRead k c n.toNat)] }
  | .pair x y => some [slotPlan k x, slotPlan k y]
  | _ => none

/-- The value that a plan would put into g15 below the stack limit (R83). -/
def Plan.limit (p : Plan) (dsl : Word) : Option Word :=
  (p.regs.find? fun r => r.1 = 15 && (p.wrap || decide (r.2.toNat < dsl.toNat))).map (·.2)

/-- The misaligned access of a plan. -/
def Plan.misaligned (p : Plan) : Option Word :=
  p.mem.bind fun m => if m.addr.toNat % m.bytes ≠ 0 then some m.addr else none

/-! ### The end of a word -/

/-- The supply in mV, as far as the device sets it: the set point, the lower of the old and the new one until the level has settled (R361), or
the board's own, at least 900 (R360). -/
def vddcMv (s : State) : Nat :=
  let mv (sp : BitVec 16) : Nat := if sp = 0 then max 900 Config.boardMv else sp.toNat
  if s.pwr.vsetBusy then min (mv s.pwr.mvBefore) (mv s.pwr.setPoint) else mv s.pwr.setPoint

/-- The smallest safe beat length (R116). -/
def safeBeat (mv : Nat) : Nat := if 900 ≤ mv then 2 else if 750 ≤ mv then 4 else 9

/-- Whether no beat of a core is held open (R117). -/
def beatSafe (s : State) (c : Core) : Bool := decide (safeBeat (vddcMv s) ≤ s.cores[c].metNm1.toNat + 1)

/-- Whether another master may be sending traffic (R119): another core that runs, a transaction under way or waiting, DMA, Elvuk at work, debug
access, the trace writer, the lane engine or the stat-port ingest. -/
def contended (s : State) (c : Core) : Bool :=
  ((List.finRange 8).any fun d => d ≠ c && coreUp s d && (s.cores[d].run = .running || !s.cores[d].sb.isEmpty || s.cores[d].lineReq.isSome)) ||
    (s.fab.waiting.any fun q => q.t.m ≠ coreM c) || (s.fab.accepted.any fun q => q.1.t.m ≠ coreM c) ||
    (s.fab.blocked.any fun b => b.port.m ≠ coreM c) || (s.dma.toList.any (·.busy)) || !s.elv.jobs.isEmpty || s.dbg.level ≠ 0 ||
    (s.trc.active && !s.trc.sink) || (s.lane.toList.any fun l => l.st ≠ 0) || s.stat.active || !s.cue.held.isEmpty || !s.pool.waits.isEmpty

/-- Whether the counts of R109 and R118 hold exactly: nothing else uses the fabric and, in Metronome mode, the beat is safe and the store buffer
is empty (R109, R119). -/
def paceExact (s : State) (c : Core) : Bool :=
  !contended s c && (!s.cores[c].metEn || (beatSafe s c && s.cores[c].sb.isEmpty))

/-- The overrun of an access: only one that the fabric carries, or that waits for the store buffer, has any, and none where the counts are
exact (R108, R118-R120). -/
def overrun (s : State) (c : Core) (p : Pace) (can : Bool) : Nat := if can && !paceExact s c then p.late else 0

/-- Beats held open over a command (R117): none at a safe beat, and at most those that have passed in Metronome mode. -/
def slipAct (s t : State) (c : Core) (slip : Nat) : State :=
  let n := min slip (t.cores[c].metBeats - s.cores[c].metBeats).toNat
  if !s.cores[c].metEn || beatSafe s c || n = 0 then t
  else t.updCore c fun k => { k with
    metStat := { (k.metStat.raise 1) with count := k.metStat.count + n }, metSlip := satAdd k.metSlip n }

/-- What a word spends (R108, R111, R118, R120): its count, the steps until the buffer has drained, and an overrun. -/
def payWord (s : State) (c : Core) (k : Cost) (wait ovr : Nat) : State := spend s c (k.st + wait + ovr) (k.bt + ovr)

/-- A word has completed, with its watchpoints and its overrun (R120, R489). `late` is the KIND and the address of R121, and the overrun;
`trap` LATE_TRAP as the word found it. -/
def endWord (s : State) (c : Core) (trap : Bool) (world : Bool) (accs : List (Word × Bool × Bool)) (late : Option (Nat × Word × Nat)) : State :=
  let s := watchAct (finishWord s c) c world accs
  match late with
  | some (kind, a, n) => lateAct s c trap kind a n
  | none => s

/-- Whether a data access counts for the watchpoints: core-private ones do not (R489). -/
def watched (a : Word) : Bool := targetOf a.toNat ≠ .priv

/-- Whether LATE is recorded and trapped for the word that begins now (R114, R120): the overrun counts in Metronome mode alone. -/
def lateOf (s : State) (c : Core) (kind : Nat) (a : Word) (ovr : Nat) : Option (Nat × Word × Nat) :=
  if s.cores[c].metEn then some (kind, a, ovr) else none

/-- A failed access: its overrun is recorded, and BUS is taken in place of LATE (R89, R120). -/
def failWord (s : State) (c : Core) (met : Bool) (ovr : Nat) (ans : Nat) (a : Word) : State :=
  wordTrap (if met then lateMark s c ovr else s) c 0x05 (natW ans) a

/-- How a load or a store meets the store buffer: whether it waits for the drain, for a free entry, or is served from it, and whether the
fabric carries it. -/
structure Meets where
  drain : Bool
  full  : Bool
  fwd   : Bool
  bus   : Bool
deriving DecidableEq, Repr

def accMeets (s : State) (c : Core) (store : Bool) (a n : Nat) : Meets :=
  let k := s.cores[c]
  let t := targetOf a
  let go : Bool := staticAns s (coreWho s c) (if store then .write else .read) a n = 0
  let f := if !store && t.buffered && go then sbFind k.sb a n else .miss
  let fwd : Bool := match f with | .forward _ => true | _ => false
  { drain := !k.sb.isEmpty && (t.drains || f = .drain)
    full := store && t.buffered && decide (8 ≤ k.sb.length)
    fwd := fwd
    bus := go && t.fabric && !fwd && !(store && t.buffered) }

/-- The count of a load or store with what it finds in the store buffer (R126), the steps that it waits for the buffer (R111), and its
KIND in R121. -/
def accPace (s : State) (c : Core) (store : Bool) (a n : Nat) : Cost × Nat × Nat :=
  let m := accMeets s c store a n
  let cost := accCost s c (if store then .write else .read) a n
  let k := s.cores[c]
  (if m.fwd then ⟨2, cost.bt⟩ else cost, if m.drain then sbWait k else if m.full then k.sbDue else 0, if m.drain then 4 else if store then 1 else 0)

/-- A plain word, once its causes up to DSTACK_LIMIT have passed (R74, R89). -/
def runPlans (s : State) (c : Core) (p : Pace) (ps : List Plan) : State :=
  let k := s.cores[c]
  let regs := ps.flatMap (·.regs)
  let fl := ps.findSome? (·.fl)
  let own := ps.foldl (fun a q => a.max q.cost) ⟨1, 1⟩
  let commit (s : State) : State := s.updCore c fun k => match fl with | some f => { writeRegs k regs with fl := f } | none => writeRegs k regs
  match ps.findSome? (·.mem) with
  | none => endWord (commit (payWord s c own 0 0)) c k.metTrap k.world [] none
  | some m =>
    let a := m.addr
    let st : Bool := match m with | .store .. => true | _ => false
    let meets := accMeets s c st a.toNat m.bytes
    let pace := accPace s c st a.toNat m.bytes
    let ovr := overrun s c p (meets.drain || meets.full || meets.bus)
    let t := payWord s c (own.max pace.1) pace.2.1 ovr
    let res : AccRes := match m with
      | .load op _ a => coreLoad t c a.toNat op.bytes
      | .store a n v => coreStore t c a.toNat n v
    match res with
    | .done t v =>
      let t := commit t
      let t := match m with | .load op d _ => t.updCore c fun k => k.setReg d (loadVal op v) | _ => t
      endWord t c k.metTrap k.world (if watched a then [(a, st, !st)] else []) (lateOf s c pace.2.2 a ovr)
    | .wait t kind =>
      let dst := match m with | .load op d _ => some (d, op) | _ => none
      let b : Blocked := { port := ⟨coreM c, 0⟩, kind := kind, arrival := t.now, addr := a, secure := k.world, core := some c, what := .word
                           dst := dst, regs := regs, fl := fl, bt := (own.max pace.1).bt + ovr, drained := meets.drain }
      { t with fab := { t.fab with blocked := t.fab.blocked ++ [b] } }
    | .fail t ans => failWord t c k.metEn ovr ans a
    | .stop t => t
    | .later t => t

/-! ### Listening (R97-R99) -/

/-- The slot whose LISTEN trap the core can take now (R97). -/
def listenNext (s : State) (c : Core) : Option (Fin 8) :=
  let k := s.cores[c]
  if k.tl then none
  else
    ((List.finRange 8).filter fun n => lsnPending s (coreM c) n && decide (k.level < (k.listen[n]).level.toNat) && ((k.listen[n]).world || !k.world)).foldl
      (fun acc n => match acc with
        | none => some n
        | some m => if (k.listen[m]).level.toNat < (k.listen[n]).level.toNat then some n else some m) none

/-- The LISTEN trap of a slot is taken (R90, R95, R99). -/
def listenEnter (s : State) (c : Core) (n : Fin 8) : State :=
  let k := s.cores[c]
  let l := k.listen[n]
  let tpc := if k.run = .waiting then k.pc + 4 else k.pc
  let s := trapEnter s c (BitVec.ofNat 8 (0x10 + n.val)) (l.queue.setWidth 32) 0 tpc false (some (l.level.toNat, l.world))
  s.updCore c fun k => { k with listen := updV k.listen n fun l => { l with active := true } }

/-! ### Words with a meaning of their own -/

/-- STATE as a write or a restore leaves it: reserved bits 0 (R81). -/
def stateMask : Word := 0x173

/-- MTSR (R81, R82). -/
def runMtsr (s : State) (c : Core) (v : Word) (n : Nat) : State :=
  let k := s.cores[c]
  let s := payWord s c (if n = 0 then ⟨2, 1⟩ else ⟨1, 1⟩) 0 0
  let upd (f : CoreState → CoreState) : State := finishWord (s.updCore c f) c
  match n with
  | 0 =>
    let s := s.updCore c fun k =>
      let k' := ({ k with state := v &&& stateMask } : CoreState).clearActive
      if k.world && !k'.world then k'.flushFetch else k'
    let s := finishWord s c
    trcState s c k.state s.cores[c].pc
  | 1 => upd fun k => { k with tpc := v &&& 0xFFFFFFFC }
  | 2 => upd fun k => { k with tfl := v &&& 0xF }
  | 3 => upd fun k => { k with tstate := v &&& stateMask }
  | 8 => upd fun k => { k with tvecS := v &&& 0xFFFFF800 }
  | 9 => upd fun k => { k with tvecO := v &&& 0xFFFFF800 }
  | _ => upd fun k => { k with dsl := v &&& 0xFFFFFFFC }

/-- The buffer drains before a word that waits for it (R111): the state when it has, else what the word leaves. -/
def afterDrain (s : State) (c : Core) (f : State → State) : State :=
  let s := sbDrain s c
  if s.cores[c].held.isSome then heldStop s c
  else if s.cores[c].sb.isEmpty then f s
  else coreAsks s c

/-- SWAP, CAS and FADD on an aligned word (R132). -/
def runAtomic (s : State) (c : Core) (p : Pace) (k : AtOp) (d a b : Reg) : State :=
  let q := s.cores[c]
  let addr := q.reg a
  let vb := q.reg b
  let vd := q.reg d
  let ovr := overrun s c p (!q.sb.isEmpty || staticAns s (coreWho s c) .atomic addr.toNat 4 = 0)
  let t := payWord s c (accCost s c .atomic addr.toNat 4) (sbWait q) ovr
  afterDrain t c fun t =>
    match busAtomic t (coreWho t c) addr.toNat (fun old => match k with
      | .swap => some vb
      | .cas => if old = vd then some vb else none
      | .fadd => some (old + vb)) with
    | .done t 0 old =>
      let t := t.updCore c fun q =>
        let q' := q.setReg d old
        if k = .cas then { q' with fl := setZ q.fl (old = vd) } else q'
      endWord t c q.metTrap q.world [(addr, true, true)] (lateOf s c (if q.sb.isEmpty then 2 else 4) addr ovr)
    | .done t ans _ => failWord t c q.metEn ovr ans addr
    | .wait t _ => t
    | .later t => t

/-- FENCE (R107, R131). The address of its LATE is 0 (log entry 52). -/
def runFence (s : State) (c : Core) (p : Pace) : State :=
  let q := s.cores[c]
  let ovr := overrun s c p (!q.sb.isEmpty)
  afterDrain (payWord s c ⟨2, 2⟩ (sbWait q) ovr) c fun t =>
    endWord (t.updCore c fun k => k.flushFetch) c q.metTrap false [] (lateOf s c 4 0 ovr)

/-- QPUT (R111, R136, R171): it waits at the Cue engine when it must (R167, R500). The address of its LATE is the queue number (log
entry 52). -/
def runQput (s : State) (c : Core) (p : Pace) (d a b : Reg) : State :=
  let k := s.cores[c]
  let q : BitVec 16 := (k.reg a).setWidth 16
  let h := k.reg b
  let ovr := overrun s c p true
  afterDrain (payWord s c ⟨16, 8⟩ (sbWait k) ovr) c fun t =>
    if cueWaits t (BitVec.ofNat 4 c.val) then
      { t with cue := { t.cue with held := t.cue.held ++ [.qput c d q h t.now (!k.sb.isEmpty)] } }
    else
      let t := qputNow t c d q h
      if k.metEn then lateAct t c k.metTrap (if k.sb.isEmpty then 3 else 4) (q.setWidth 32) ovr else t

/-- QGET (R137, R177, R178). -/
def runQget (s : State) (c : Core) (p : Pace) (d a : Reg) : State :=
  let k := s.cores[c]
  let q : BitVec 16 := (k.reg a).setWidth 16
  let ovr := overrun s c p true
  let s := payWord s c ⟨16, 8⟩ 0 ovr
  if cueWaits s 15 then { s with cue := { s.cue with held := s.cue.held ++ [.qget c d q s.now] } }
  else
    let t := qgetNow s c d q
    if !k.metEn then t
    else if t.cores[c].tl && !k.tl then lateMark t c ovr
    else if t.cores[c].run = k.run then lateAct t c k.metTrap 3 (q.setWidth 32) ovr
    else t

/-- The words of RSSAVE's block (R86): the depth, then the entries, oldest first, 0 above the depth. -/
def rsBlock (rs : List Word) : List Word := natW rs.length :: (rs.reverse ++ List.replicate (256 - rs.length) 0)

/-- The count that core c has paid since s is not paid: its access waits for the regulator. Stores of its buffer that have completed
meanwhile stay so. -/
def unpaid (s t : State) (c : Core) : State :=
  let k := s.cores[c]
  { t with trc := s.trc, cores := putV t.cores c { t.cores[c] with stepTb := k.stepTb, hid := k.hid, metBeats := k.metBeats } }

/-- The accesses of RSSAVE and RSLOAD for the watchpoints. -/
def blockAccs (a : Word) (write : Bool) : List (Word × Bool × Bool) :=
  ((List.range 257).map fun i => (a + natW (4 * i), write, !write)).filter fun x => watched x.1

/-- The accesses of an RSSAVE or RSLOAD from block `blk` on (R86): `put` gives the word that access i stores, none for a load. Each access pays
its own count as it comes; the one numbered `p.at_` has the overrun. A word that its target holds, or that is not admitted, leaves the
instruction where it is. -/
def runBlock (s : State) (c : Core) (p : Pace) (met : Bool) (a : Word) (put : Nat → Option Word) (fin : State → BlockRun → State) :
    Nat → BlockRun → State
  | 0, r => fin s r
  | n + 1, r =>
    let addr := a + natW (4 * r.i)
    let st := (put r.i).isSome
    let meets := accMeets s c st addr.toNat 4
    let pace := accPace s c st addr.toNat 4
    let ovr := if r.i = p.at_ then overrun s c p (meets.drain || meets.full || meets.bus) else 0
    let late := if met && r.late.isNone && decide (0 < ovr) then some (pace.2.2, addr, ovr) else r.late
    let t := payWord s c pace.1 pace.2.1 ovr
    let res := match put r.i with
      | some v => coreStore t c addr.toNat 4 v
      | none => coreLoad t c addr.toNat 4
    match res with
    | .done t v => runBlock t c p met a put fin n { i := r.i + 1, words := if st then r.words else v :: r.words, late := late }
    | .wait t kind =>
      let b : Blocked := { port := ⟨coreM c, 0⟩, kind := kind, arrival := t.now, addr := addr, secure := t.cores[c].world, core := some c
                           what := .block, bt := pace.1.bt + ovr, drained := meets.drain }
      { t with fab := { t.fab with blocked := t.fab.blocked ++ [b] }, cores := putV t.cores c { t.cores[c] with blk := some { r with late := late } } }
    | .fail t ans => failWord t c met ovr ans addr
    | .stop t => t
    -- not admitted: nothing of this access has passed
    | .later t => (unpaid s t c).updCore c fun k => { k with blk := if r.i = 0 then none else some r }

/-- The end of an RSSAVE or RSLOAD (R120, R121, R489). -/
def endBlock (s : State) (c : Core) (a : Word) (write : Bool) (r : BlockRun) : State :=
  let k := s.cores[c]
  let s := s.updCore c fun k => { k with blk := none }
  let s := watchAct (finishWord s c) c k.world (blockAccs a write)
  match r.late with
  | some (kind, addr, n) => lateAct s c k.metTrap kind addr n
  | none => s

/-- Where an RSSAVE or RSLOAD goes on, its first step paid. -/
def blockStart (s : State) (c : Core) : State × BlockRun :=
  match s.cores[c].blk with
  | some r => (s, r)
  | none => (payWord s c ⟨1, 1⟩ 0 0, { i := 0, words := [], late := none })

/-- RSSAVE (R86). -/
def runRssave (s : State) (c : Core) (p : Pace) (a : Word) : State :=
  let b := blockStart s c
  let ws := rsBlock s.cores[c].rs
  runBlock b.1 c p s.cores[c].metEn a (fun i => some (ws.getD i 0)) (fun t r => endBlock t c a true r) (257 - b.2.i) b.2

/-- What the words of a block make of the return stack (R86). -/
def rsloadEnd (c : Core) (a : Word) (t : State) (r : BlockRun) : State :=
  let ws := r.words.reverse
  let depth := (ws.headD 0).toNat
  if 256 < depth then wordTrap t c 0x06 (natW depth) 0
  else
    let es := ((ws.drop 1).take depth).map fun v => v &&& 0xFFFFFFFC
    let t := t.updCore c fun k => { k with rs := es.reverse, sec := k.sec.filter (· < 32), ded := k.ded.filter (· < 32) }
    endBlock t c a false r

/-- RSLOAD (R86). -/
def runRsload (s : State) (c : Core) (p : Pace) (a : Word) : State :=
  let b := blockStart s c
  runBlock b.1 c p s.cores[c].metEn a (fun _ => none) (rsloadEnd c a) (257 - b.2.i) b.2

/-- A flow instruction has executed; its delay slot comes next (R75). -/
def runFlow (s : State) (c : Core) (kind : FlowKind) (cost : Cost) : State :=
  let s := payWord s c cost 0 0
  s.updCore c fun k => { k.next with flow := some ⟨k.pc, kind⟩ }

/-- WAIT (R99). -/
def runWait (s : State) (c : Core) : State :=
  if s.cores[c].tl || (listenNext s c).isSome then finishWord (payWord s c ⟨1, 1⟩ 0 0) c
  else s.updCore c fun k => { k with run := .waiting }

/-- A target `n` words away. -/
def relTarget (pc : Word) (n : Word) : Word := pc + 4 * n

/-- The word itself, once the causes before its execution have passed. -/
def runPlain (s : State) (c : Core) (p : Pace) (w : TWord) : State :=
  let k := s.cores[c]
  let pc := k.pc
  match w with
  | .b cond off =>
    let taken := condHolds cond k.fl
    let s := if cond = 0 then s else trcOutcome s c taken
    runFlow s c (.branch (if taken then some (relTarget pc (off.signExtend 32)) else none) false) (if taken then ⟨1, 2⟩ else ⟨1, 1⟩)
  | .jmp off => runFlow s c (.branch (some (relTarget pc (off.signExtend 32))) false) ⟨1, 2⟩
  | .call off => runFlow s c (.call (pc + 8) (relTarget pc (off.signExtend 32)) false) ⟨1, 2⟩
  | .jr a => runFlow s c (.branch (some (k.reg a)) true) ⟨1, 2⟩
  | .callr a => runFlow s c (.call (pc + 8) (k.reg a) true) ⟨1, 2⟩
  | .ret => runFlow s c (.ret (k.rs.headD 0)) ⟨1, 2⟩
  | .rett => runFlow s c (.rett k.tpc k.tfl k.tstate) ⟨2, 3⟩
  | .syscall code =>
    let secure : Bool := code.getLsbD 15 && !k.world
    runFlow s c (if secure then .trap 0x03 (natW (3 + code.toNat * 65536)) else .trap 0x0C (code.setWidth 32)) ⟨1, 1⟩
  | .brk code => runFlow s c (.trap 0x0B (code.setWidth 32)) ⟨1, 1⟩
  | .wait => runWait s c
  | .mtsr a n => runMtsr s c (k.reg a) n.toNat
  | .atomic op d a b => runAtomic s c p op d a b
  | .fence => runFence s c p
  | .qput d a b => runQput s c p d a b
  | .qget d a => runQget s c p d a
  | .rssave a => runRssave s c p (k.reg a)
  | .rsload a => runRsload s c p (k.reg a)
  | w => match plans k c w with
    | some ps => runPlans s c p ps
    | none => s

/-- Whether a word is privileged (R87). -/
def TWord.privileged : TWord → Bool
  | .rett | .mfsr .. | .mtsr .. | .rssave _ | .rsload _ => true
  | _ => false

/-- Causes 6 to 9 of R89, in their order, with TDETAIL and TADDR (R92); none when the word may execute. -/
def wordCause (k : CoreState) (c : Core) (w : TWord) : Option (BitVec 8 × Word × Word) :=
  let open' := !k.world
  let world : Option Word := match w with
    | .mtsr a n => if open' && n = 0 && (k.reg a).getLsbD 1 then some 1 else if open' && n = 8 then some 2 else none
    | .mfsr _ n => if open' && n = 8 then some 2 else none
    | .rett => if open' && k.tstate.getLsbD 1 then some 1 else none
    | _ => none
  match world with
  | some r => some (0x03, r, 0)
  | none =>
    let ps := (plans k c w).getD []
    let align : Option (Word × Word) := match w with
      | .jr a | .callr a => if (k.reg a).toNat % 4 ≠ 0 then some (1, k.reg a) else none
      | .atomic _ _ a _ | .rssave a | .rsload a => if (k.reg a).toNat % 4 ≠ 0 then some (0, k.reg a) else none
      | _ => (ps.findSome? (·.misaligned)).map fun a => (0, a)
    match align with
    | some (d, a) => some (0x04, d, a)
    | none =>
      match ps.findSome? fun p => p.limit k.dsl with
      | some v => some (0x08, 0, v)
      | none =>
        match w with
        | .call _ | .callr _ => if 256 ≤ k.rs.length then some (0x06, natW k.rs.length, 0) else none
        | .ret => if k.rs.isEmpty then some (0x07, 0, 0) else none
        | _ => none

/-- A word that has been delivered to decode (R76, R89): ILLEGAL, PRIV, the register errors, the causes of its operands, the
effect. -/
def decodeRun (s : State) (c : Core) (p : Pace) (w : TWord) : State :=
  let k := s.cores[c]
  let bad := match w.illegal with
    | some b => some b
    | none => if w.isFlow && k.flow.isSome then some (0, 2) else none
  match bad with
  | some (wher, sub) => wordTrap s c 0x01 (natW (boolN k.flow.isSome 4 + wher.toNat * 4 + sub.toNat)) 0
  | none =>
    if w.privileged && !k.priv then wordTrap s c 0x02 0 0
    else
      let e := eccRead s c (w.reads k.rs.length)
      if !e.2 then e.1
      else match wordCause k c w with
        | some (cause, detail, addr) => wordTrap e.1 c cause detail addr
        | none => runPlain e.1 c p w

/-! ### Breakpoints (R486, R488) -/

/-- The breakpoints that match the word at the pc. -/
def brkHits (k : CoreState) : List (Fin 4) :=
  (List.finRange 4).filter fun i =>
    let b := k.ibrk[i]
    b.ctrl.getLsbD 31 && (b.addr >>> 2) = (k.pc >>> 2) && brkWorld b.ctrl k.world

/-- What the matching breakpoints do: the new state and whether the word still runs. A halt at a delay slot restarts at the flow
instruction (R488). -/
def brkAct (s : State) (c : Core) : List (Fin 4) → State × Bool
  | [] => (s, true)
  | i :: r =>
    let k := s.cores[c]
    if k.ibrk[i].ctrl.getLsbD 30 then
      if !haltPermitted s c then brkAct { s with dbg := { s.dbg with denied := s.dbg.denied + 1 } } c r
      else
        let s := match k.flow with | some f => s.updCore c fun k => { k with pc := f.addr, flow := none } | none => s
        (haltCore s c 3 i.val, false)
    else (wordTrap s c 0x0B (natW (0xFFF0 + i.val + 0x10000)) 0, false)

/-- Whether an access of a core waits for the regulator (R154). -/
def coreAsking (s : State) (c : Core) : Bool := s.fab.asking[coreM c]

/-- No access of a core waits for the regulator: the word begins anew. -/
def askNone (s : State) (c : Core) : State := { s with fab := { s.fab with asking := putV s.fab.asking (coreM c) false } }

/-- The word at the pc of a core is fetched, matched and run. -/
def coreWord (s : State) (c : Core) (p : Pace) (w : TWord) : State :=
  match fetchWord s c p.fetch with
  | .trap t => t
  | .later t => t
  | .word s =>
    let hits := if s.cores[c].skipBrk then [] else brkHits s.cores[c]
    let s := s.updCore c fun k => { k with skipBrk := false }
    let b := brkAct s c hits
    if !b.2 then b.1
    else
      let t := decodeRun b.1 c p w
      if coreAsking t c && t.cores[c].blk.isNone then unpaid b.1 t c else t

/-- An RSSAVE or RSLOAD that is under way goes on; no other word enters execute meanwhile (R86). -/
def blockWord (s : State) (c : Core) (p : Pace) (w : TWord) : State :=
  match w with
  | .rssave a => runRssave s c p (s.cores[c].reg a)
  | .rsload a => runRsload s c p (s.cores[c].reg a)
  | _ => s

/-- Whether a stage core can execute a word now: running in its domain, with no access held at a target, not stopped by NAP (R344,
R349). -/
def coreReady (s : State) (c : Core) : Bool :=
  let k := s.cores[c]
  coreUp s c && k.run = .running && !k.stopped && !coreBlocked s c && s.pwr.mode ≠ .standby

/-- One word of a stage core (R89). At a boundary a failed store that is held comes first (R128), then a LISTEN trap that the core can take
(R97): the word is not executed then. -/
def runWord (s : State) (c : Core) (p : Pace) (w : TWord) : State :=
  if !coreReady s c then s
  else
    let k := s.cores[c]
    if k.blk.isSome then slipAct s (cueSettle (blockWord s c p w)) c p.slip
    else if k.held.isSome && !k.tl && k.flow.isNone then slipAct s (heldTrap s c) c p.slip
    else
      match (if k.flow.isNone then listenNext s c else none) with
      | some n => slipAct s (listenEnter s c n) c p.slip
      | none =>
        let t := coreWord (askNone s c) c p w
        slipAct s (cueSettle t) c p.slip

end Sys2Proof.Machine
end

