-- ==== Sys2Proof/Machine/RowsPorts.lean ====
section
/-!
DEFINITION. The commands that are a write or a read of one register by a fabric master, with every check of R50 (02, 03, 07, 08, 09,
10, 14, 16, 17, 18, 19, 20, 22, 23), and the core events that are a write of a core's own registers (05, 06).
-/

namespace Sys2Proof.Machine

/-- A register write by a port, and what waiters can do after it. -/
def regStore (s : State) (p : Port) (addr v : Word) : State := cueSettle (portWrite s p addr v)

/-- A register read by a port. -/
def regLoad (s : State) (p : Port) (addr : Word) : State := cueSettle (portRead s p addr)

/-- A register write whose effect the arbiter orders against an event of the same tick, and what waiters can do after it. -/
def regStoreAs (s : State) (p : Port) (addr v : Word) (f : State → State) : State := cueSettle (portWriteAs s p addr v f)

/-- A command word of the Prompter: OP in [27:24] and every other bit. -/
def cmdWord (op : Nat) (rsv : BitVec 28) : Word := natW (bitsOf (rsv.setWidth 32) 24 4 * 2 ^ 28 + op * 2 ^ 24 + bitsOf (rsv.setWidth 32) 0 24)

/-- The Prompter's port. -/
def elvPort : Port := ⟨8, 0⟩

/-- A word of CUE_CMD (R180). -/
def cueWord (op : Nat) (rsv : BitVec 12) (q : BitVec 16) : Word :=
  natW (bitsOf (rsv.setWidth 32) 8 4 * 2 ^ 28 + op * 2 ^ 24 + bitsOf (rsv.setWidth 32) 0 8 * 65536 + q.toNat)

/-! ### Core-private registers -/

/-- LSN_BIND (R96). -/
def execLsnBind (c : Core) (slot : Fin 8) (v : Word) (s : State) : Result :=
  .next (regStore s ⟨coreM c, 0⟩ (0xE0000000 + natW (0x10 * slot.val)) v)

/-- MET_CTRL (R114). -/
def execMetCtrl (c : Core) (v : Word) (s : State) : Result := .next (regStore s ⟨coreM c, 0⟩ 0xE0000100 v)

/-! ### Registers and the pace monitor -/

/-- REGISTER_WRITE (R42, R50, R58). -/
def execRegisterWrite (p : Port) (addr v : Word) (s : State) : Result := .next (regStore s p addr v)

/-- SEQUENCED_CLEAR (R55). -/
def execSequencedClear (p : Port) (addr v : Word) (s : State) : Result := .next (regStore s p addr v)

/-- PACE_START (R25): SYS_PACE_CTRL with START = 1. -/
def execPaceStart (p : Port) (v : Word) (s : State) : Result := .next (regStore s p 0x40000020 (v ||| 1))

/-- PACE_DONE (R25). -/
def execPaceDone (steps : BitVec 24) (s : State) : Result := .next (paceDone s steps)

/-! ### Fabric, regulator, DMA -/

/-- BWR_CTRL (R150). -/
def execBwrCtrl (p : Port) (v : Word) (s : State) : Result := .next (regStore s p 0x40051000 v)

/-- FAB_TAGALLOC (R147). -/
def execFabTagalloc (p : Port) (m : Master) (v : Word) (s : State) : Result :=
  .next (regStore s p (0x40050100 + natW (4 * m.val)) v)

/-- The address of DMA_CTRL(ch). -/
def dmaCtrlAddr (ch : Fin 16) : Word := natW (0x4009000C + 0x40 * ch.val)

/-- DMA_START (R139): DMA_CTRL with START = 1. -/
def execDmaStart (p : Port) (ch : Fin 16) (v : Word) (s : State) : Result := .next (regStore s p (dmaCtrlAddr ch) (v ||| 1))

/-- DMA_STOP (R140): DMA_CTRL with STOP = 1 and its modes as they are. -/
def execDmaStop (p : Port) (ch : Fin 16) (s : State) : Result :=
  let k := s.dma[ch]
  .next (regStore s p (dmaCtrlAddr ch) (natW (boolN k.dstFix 4 + boolN k.srcFix 2 + 2)))

/-! ### Cue engine and pool -/

/-- The commands of CUE_CMD (R167, R180). -/
def execOpenQ (p : Port) (rsv : BitVec 12) (q : BitVec 16) (s : State) : Result := .next (regStore s p 0x40060000 (cueWord 1 rsv q))
def execCloseQ (p : Port) (rsv : BitVec 12) (q : BitVec 16) (s : State) : Result := .next (regStore s p 0x40060000 (cueWord 2 rsv q))
def execConfigQ (p : Port) (rsv : BitVec 12) (q : BitVec 16) (s : State) : Result := .next (regStore s p 0x40060000 (cueWord 3 rsv q))
def execRetargetQ (p : Port) (rsv : BitVec 12) (q : BitVec 16) (s : State) : Result := .next (regStore s p 0x40060000 (cueWord 4 rsv q))
def execFlushQ (p : Port) (rsv : BitVec 12) (q : BitVec 16) (s : State) : Result := .next (regStore s p 0x40060000 (cueWord 5 rsv q))
def execReadQ (p : Port) (rsv : BitVec 12) (q : BitVec 16) (s : State) : Result := .next (regStore s p 0x40060000 (cueWord 6 rsv q))
def execTableQ (p : Port) (rsv : BitVec 12) (q : BitVec 16) (s : State) : Result := .next (regStore s p 0x40060000 (cueWord 7 rsv q))

/-- TABLE_COPY_DONE (R167). -/
def execTableCopyDone (s : State) : Result := .next (cueSettle (cueTableDone s))

/-- POOL_ALLOC (R190). -/
def execPoolAlloc (p : Port) (s : State) : Result := .next (regLoad s p 0x40070004)

/-- POOL_FREE (R198). -/
def execPoolFree (p : Port) (h : Word) (s : State) : Result := .next (regStore s p 0x40070008 h)

/-- POOL_CFG (R183). -/
def execPoolCfg (p : Port) (v : Word) (s : State) : Result := .next (regStore s p 0x40070000 v)

/-- POOL_RES (R189). -/
def execPoolRes (p : Port) (cls : Fin 16) (v : Word) (s : State) : Result :=
  .next (regStore s p (0x40070100 + natW (0x20 * cls.val)) v)

/-- POOL_CAP (R193). -/
def execPoolCap (p : Port) (cls : Fin 16) (v : Word) (s : State) : Result :=
  .next (regStore s p (0x40070104 + natW (0x20 * cls.val)) v)

/-- POOL_CTRL_CLR (R196): POOL_CTRL with CLR = 1. -/
def execPoolCtrlClr (p : Port) (v : Word) (s : State) : Result := .next (regStore s p 0x40070020 (v ||| 1))

/-! ### Flash, OTP and leave commands of the Prompter -/

/-- ERASE_SECTOR and PROGRAM_LINE (R276). -/
def execEraseSector (rsv : BitVec 28) (s : State) : Result := .next (regStore s elvPort 0x4F000000 (cmdWord 1 rsv))
def execProgramLine (rsv : BitVec 28) (s : State) : Result := .next (regStore s elvPort 0x4F000000 (cmdWord 2 rsv))

/-- FLASH_OP_DONE (R278). -/
def execFlashOpDone (fail : Option FlashLeft) (s : State) : Result := .next (cueSettle (flcDone s fail))

/-- The OTP commands (R333-R336). -/
def execOtpCmdRead (rsv : BitVec 28) (s : State) : Result := .next (regStore s elvPort 0x4F010000 (cmdWord 1 rsv))
def execReadStrict (rsv : BitVec 28) (s : State) : Result := .next (regStore s elvPort 0x4F010000 (cmdWord 2 rsv))
def execOtpCmdProgram (rsv : BitVec 28) (s : State) : Result := .next (regStore s elvPort 0x4F010000 (cmdWord 3 rsv))
def execOtpCmdReinforce (rsv : BitVec 28) (s : State) : Result := .next (regStore s elvPort 0x4F010000 (cmdWord 4 rsv))
def execScanWord (rsv : BitVec 28) (s : State) : Result := .next (regStore s elvPort 0x4F010000 (cmdWord 5 rsv))

/-- OTP_OP_DONE (R333-R336). -/
def execOtpOpDone (pulses : List Pulse) (s : State) : Result := .next (otpDone s pulses)

/-- LV_REQUEST and LV_RELEASE (R356, R359). -/
def execLvRequest (rsv : BitVec 28) (s : State) : Result := .next (regStore s elvPort 0x40020000 (cmdWord 1 rsv))
def execLvRelease (rsv : BitVec 28) (s : State) : Result := .next (regStore s elvPort 0x40020000 (cmdWord 2 rsv))

/-! ### Watchdog, time base, timers -/

/-- WD_CTRL (R366, R372). -/
def execWdCtrl (p : Port) (v : Word) (s : State) : Result := .next (regStore s p 0x40040000 v)

/-- The keys of WD_SVC (R370, R371). -/
def execWdServiceKey1 (p : Port) (s : State) : Result := .next (regStore s p 0x40040004 0xA5C3)
def execWdServiceKey2 (p : Port) (s : State) : Result := .next (regStore s p 0x40040004 0x5C3A)

/-- TB_LO and RTC_FRAC (R379, R380). -/
def execTbLo (p : Port) (s : State) : Result := .next (regLoad s p 0x40030000)
def execRtcFrac (p : Port) (s : State) : Result := .next (regLoad s p 0x40030010)

/-- TMR_COUNT (R384) and TMR_COMPARE (R385). -/
def execTmrCount (p : Port) (t : Fin 8) (v : Word) (writeFirst : Bool) (s : State) : Result :=
  .next (regStoreAs s p (natW (0x40030104 + 0x40 * t.val)) v fun s => tmrCountWrite s t v writeFirst)
def execTmrCompare (p : Port) (t : Fin 8) (v : Word) (writeFirst : Bool) (s : State) : Result :=
  .next (regStoreAs s p (natW (0x4003010C + 0x40 * t.val)) v fun s => tmrCompareWrite s t v writeFirst)

/-! ### Lanes, stat port, converters, setpoint outputs -/

/-- The address of a register of lane n. -/
def laneAddr (n : Fin 24) (o : Nat) : Word := natW (0x40100000 + 0x400 * n.val + o)

/-- LANE_CFG (R389). -/
def execLaneCfg (p : Port) (n : Fin 24) (v : Word) (s : State) : Result := .next (regStore s p (laneAddr n 0) v)

/-- SAFE, CLRSAFE and SEQRESTART of LANE_CTRL (R399, R400). -/
def execSafe (p : Port) (n : Fin 24) (s : State) : Result := .next (regStore s p (laneAddr n 4) 1)
def execClrsafe (p : Port) (n : Fin 24) (s : State) : Result := .next (regStore s p (laneAddr n 4) 2)
def execSeqrestart (p : Port) (n : Fin 24) (s : State) : Result := .next (regStore s p (laneAddr n 4) 4)

/-- LANE_TGT_NEXT, with the arbiter's side (R404). -/
def execLaneTgtNext (p : Port) (n : Fin 24) (v : Word) (late : Bool) (s : State) : Result :=
  .next (regStoreAs s p (laneAddr n 0x14) v fun s => laneNextWrite s n v late)

/-- LANE_DUTY (R393). -/
def execLaneDuty (p : Port) (n : Fin 24) (v : Word) (s : State) : Result := .next (regStore s p (laneAddr n 0x0C) v)

/-- SWFRAME (R402): LANE_FCTRL with SWFRAME = 1. -/
def execSwframe (p : Port) (v : Word) (s : State) : Result := .next (regStore s p 0x40108004 (v ||| 1))

/-- STAT_CTRL (R411). -/
def execStatCtrl (p : Port) (v : Word) (s : State) : Result := .next (regStore s p 0x40130000 v)

/-- The address of a register of converter a. -/
def adcAddr (a : Fin 4) (o : Nat) : Word := natW (0x40110000 + 0x400 * a.val + o)

/-- ADC_CTRL (R414), ADC_GO.START (R418) and ADC_GO.CAL (R421). -/
def execAdcCtrl (p : Port) (a : Fin 4) (v : Word) (s : State) : Result := .next (regStore s p (adcAddr a 0) v)
def execAdcStart (p : Port) (a : Fin 4) (s : State) : Result := .next (regStore s p (adcAddr a 4) 1)
def execAdcCal (p : Port) (a : Fin 4) (s : State) : Result := .next (regStore s p (adcAddr a 4) 2)

/-- SPD_CODE (R425) and SPD_RANGE (R426). -/
def execSpdCode (p : Port) (d : Fin 8) (v : Word) (s : State) : Result := .next (regStore s p (natW (0x40120000 + 0x40 * d.val)) v)
def execSpdRange (p : Port) (d : Fin 8) (v : Word) (s : State) : Result := .next (regStore s p (natW (0x40120004 + 0x40 * d.val)) v)

/-! ### Serial, GPIO -/

/-- The address of a register of UART u and of I2C controller i. -/
def uartAddr (u : Fin 2) (o : Nat) : Word := natW (0x401C0000 + 0x1000 * u.val + o)
def i2cAddr (i : Fin 2) (o : Nat) : Word := natW (0x401D0000 + 0x1000 * i.val + o)

/-- UART_TXDATA, UART_CTRL.BREAK and UART_CTRL.FLUSH (R459). -/
def execUartTxdata (p : Port) (u : Fin 2) (v : Word) (s : State) : Result := .next (regStore s p (uartAddr u 0x10) v)
def execUartBreak (p : Port) (u : Fin 2) (s : State) : Result := .next (regStore s p (uartAddr u 0x0C) 1)
def execUartFlush (p : Port) (u : Fin 2) (s : State) : Result := .next (regStore s p (uartAddr u 0x0C) 2)

/-- I2C_XFER, I2C_TXDATA and I2C_RXDATA (R461, R463). -/
def execI2cXfer (p : Port) (i : Fin 2) (v : Word) (s : State) : Result := .next (regStore s p (i2cAddr i 0x08) v)
def execI2cTxdata (p : Port) (i : Fin 2) (v : Word) (s : State) : Result := .next (regStore s p (i2cAddr i 0x0C) v)
def execI2cRxdata (p : Port) (i : Fin 2) (s : State) : Result := .next (regLoad s p (i2cAddr i 0x10))

/-- GPIO_SET and GPIO_CLR (R464). -/
def execGpioSet (p : Port) (v : Word) (s : State) : Result := .next (regStore s p 0x401E0004 v)
def execGpioClr (p : Port) (v : Word) (s : State) : Result := .next (regStore s p 0x401E0008 v)

/-! ### Crypto and trace -/

/-- CRY_F_CTRL.START (R324) and .ABORT (R329). -/
def execCryStart (p : Port) (s : State) : Result := .next (regStore s p 0x40200054 1)
def execAbort (p : Port) (s : State) : Result := .next (regStore s p 0x40200054 2)

/-- CRY_F_DIN and CRY_F_DOUT (R327), and CRY_RNG (R322). -/
def execCryFDin (p : Port) (v : Word) (s : State) : Result := .next (regStore s p 0x40200060 v)
def execCryFDout (p : Port) (s : State) : Result := .next (regLoad s p 0x40200064)
def execCryRng (p : Port) (s : State) : Result := .next (regLoad s p 0x40200700)

/-- TRC_CFG (R477) and TRC_TASK (R469). -/
def execTrcCfg (p : Port) (v : Word) (s : State) : Result := .next (regStore s p 0x40210000 v)
def execTrcTask (p : Port) (n : Core) (v : Word) (s : State) : Result :=
  .next (regStore s p (natW (0x40210040 + 4 * n.val)) v)

end Sys2Proof.Machine
end

