-- ==== Sys2Proof/Machine/RowsFabric.lean ====
section
/-!
DEFINITION. The commands of the core's fetch path and store buffer (05, 06, 07), of the fabric and its regulator (08), of the DMA
channels (07), and of the pool's and the leave arbiter's wait limits (10, 17).
-/

namespace Sys2Proof.Machine

/-! ### Core events -/

/-- LISTEN_TRAP (R97-R99): a failure that is held is taken first (R128). `slip`: beats of the entry that are held open (R117). -/
def execListenTrap (c : Core) (slip : Nat) (s : State) : Result :=
  let k := s.cores[c]
  .next (
    if !coreUp s c || !(k.run = .running || k.run = .waiting) || k.flow.isSome || k.stopped || coreInWord s c then s
    else if k.held.isSome && !k.tl then slipAct s (heldTrap s c) c slip
    else match listenNext s c with
      | some n => slipAct s (listenEnter s c n) c slip
      | none => s)

/-- LINE_FETCH_COMPLETE (R102-R105): the line arrives, or is discarded when it is wrong-path. A line that a flash operation holds
does not arrive (R278). -/
def execLineFetchComplete (c : Core) (s : State) : Result := .next (lineArrive s c)

/-- STORE_BUFFER_ENTRY_COMPLETE (R125, R127, R128), by TIMEOUT when its target did not answer within the limit. -/
def execStoreBufferEntryComplete (c : Core) (timeout : Bool) (s : State) : Result := .next (sbStep s c timeout)

/-- BUFFERED_BUS_TRAP (R128). -/
def execBufferedBusTrap (c : Core) (slip : Nat) (s : State) : Result :=
  let k := s.cores[c]
  .next (if !coreUp s c || !(k.run = .running || k.run = .waiting) || k.tl || k.flow.isSome || k.stopped || coreInWord s c then s
    else slipAct s (heldTrap s c) c slip)

/-! ### The trace writer (R475, R476, R478) -/

/-- Bytes written by a unit one at a time, each word by whole words where they are aligned. -/
def lineWrite (s : State) (w : Who) (a : Nat) (bs : List Byte) : State × Nat :=
  if a % 4 = 0 ∧ bs.length % 4 = 0 then unitWrite s w a (asWords bs)
  else bs.foldl (fun (r : State × Nat × Nat) b =>
      if r.2.2 ≠ 0 then r
      else let q := memWrite r.1 w r.2.1 1 (b.setWidth 32) 0
           (q.1, r.2.1 + 1, q.2)) (s, a, 0) |> fun r => (r.1, r.2.2)

/-- Once 512 bytes are free after a discard, OVF and a sync point follow (R476). -/
def trcRoom (s : State) : State := if s.trc.en then trcOvf s else s

/-- The writer moves the line that its transaction was admitted for, 32 bytes or what was left after a disable, into the ring. -/
def trcLine (s : State) (bytes : Nat) : State :=
  let t := s.trc
  trcRoom <|
  let n := min bytes (trcLineBytes t)
  if !t.active || t.sink || n = 0 || (t.en && n < 32) then s
  else
    let bs := t.buf.take n
    let s := { s with trc := { t with buf := t.buf.drop n } }
    if t.full then trcSettle { s with trc := { s.trc with lostBytes := s.trc.lostBytes + natW n } }
    else
      let size := 2 ^ t.bufLog.toNat
      let r := lineWrite s (unitWho 13) (t.bufBase.toNat + t.wptr) bs
      if r.2 ≠ 0 then
        { r.1 with trc := { r.1.trc with en := false, active := false, buf := [], evt := r.1.trc.evt.raise 2 } }
      else
        let s := r.1
        let p := t.wptr + n
        trcSettle (if p < size then { s with trc := { s.trc with wptr := p } }
          else if t.wrap then { s with trc := { s.trc with wptr := 0, wrapped := true } }
          else { s with trc := { s.trc with wptr := p, full := true, evt := s.trc.evt.raise 0 } })

/-- The trace port sends what it can in one tick, which is 8 LCLK periods (R475). -/
def trcPortTick (s : State) : State :=
  let t := s.trc
  if !t.active || !t.sink || s.pwr.mode ≠ .run then s
  else
    let d := t.div.toNat + 1
    let n := 8 * (s.now + 1) / d - 8 * s.now / d
    trcRoom (trcSettle { s with trc := { t with buf := t.buf.drop n } })

/-! ### Fabric -/

/-- Reads in ascending order, up to the first that is not answered OK or waits. -/
def txnReads (s : State) (w : Who) (a : Nat) : Nat → State × Option BlockKind
  | 0 => (s, none)
  | n + 1 =>
    match busReadAt s w a 4 with
    | .done s 0 _ => txnReads s w (a + 4) n
    | .done s _ _ => (s, none)
    | .wait s k => (s, some k)
    | .later s => (s, none)

/-- The master of a transaction as it was when the transaction was issued (R300). -/
def Issued.who (q : Issued) : Who := ⟨⟨q.t.m, q.t.ch⟩, q.secure, q.priv⟩

def Issued.bytes (q : Issued) : Nat := if q.t.bytes = 1 ∨ q.t.bytes = 2 ∨ q.t.bytes = 4 then q.t.bytes else 4

/-- Its kind of access. -/
def Issued.acc (q : Issued) : Acc := if q.t.kind = 2 then .fetch else if q.t.kind = 0 then .read else .write

/-- What a read or write of a transaction leaves. That of a stage core is ordered against the core's buffered stores, and traps when it fails,
as an access of a word (R52, R129); one of a core that does not run only has its answer. One whose core's older stores have not
left the buffer stays accepted since `at_`. -/
def txnAccess (s : State) (q : Issued) (at_ : Nat) (f : State → BusRes) : State :=
  match portCore q.t.m with
  | none => portLeft s ⟨q.t.m, q.t.ch⟩ q.t.addr (f s)
  | some c =>
    let a := q.t.addr.toNat
    let r := if (targetOf a).drains || (targetOf a).buffered then drained s c fun s => accOf (f s) else accOf (f s)
    match r with
    | .fail t ans => if s.cores[c].run = .running then portDone s c ⟨q.t.m, q.t.ch⟩ q.t.addr (.fail t ans) else t
    | .later t => { t with fab := { t.fab with accepted := t.fab.accepted ++ [(q, at_)] } }
    | r => portDone s c ⟨q.t.m, q.t.ch⟩ q.t.addr r

/-- The effect at its target of a transaction accepted at tick `at_`: its answer reaches the master, or the target holds it. -/
def txnDo (s : State) (q : Issued) (at_ : Nat) : State :=
  let t := q.t
  let w := q.who
  let a := t.addr.toNat
  if t.m.val = 13 then trcLine s t.bytes
  else if t.kind = 2 then
    -- a line whose answer a flash operation holds waits on
    let early := accept s w .fetch a 4
    if early = 0 && flashHeld s a then { s with fab := { s.fab with accepted := s.fab.accepted ++ [(q, at_)] } }
    else
      let ans := if early ≠ 0 then early else if wordBad s (eccWord (physAddr t.m a)) then 4 else 0
      setLast (if early = 0 then flashTouch s a else s) t.m (BitVec.ofNat 3 ans) 0
  else if a % q.bytes ≠ 0 then s
  else if t.kind = 0 then
    if 4 < t.bytes then
      let r := txnReads s w a ((min t.bytes 32 + 3) / 4)
      match r.2 with
      | some k => portWait r.1 w.p w t.addr k
      | none => r.1
    else txnAccess s q at_ fun s => busReadAt s w a q.bytes
  else txnAccess s q at_ fun s => busWriteAt s w a q.bytes t.data 0

/-- Whether a transaction is answered at acceptance: from its address alone, or because its target refuses it or is dark (R149). One to a core's
private registers never reaches the fabric (R44). -/
def earlyAns (s : State) (q : Issued) : Bool :=
  let a := q.t.addr.toNat
  match regionOf a with
  | .priv _ => true
  | .periph blk off =>
    staticAns s q.who q.acc a q.bytes ≠ 0 || (match q.acc with
      | .read => (match periphRead s q.who blk off q.bytes with | .bad _ => true | _ => false)
      | .write => (match periphWrite s q.who blk off q.bytes q.t.data with | .bad _ => true | _ => false)
      | _ => true)
  | _ => accept s q.who q.acc a q.bytes ≠ 0

/-- An admission, and the answer of a transaction whose target answers it at acceptance (R149). -/
def bwrGrantOne (s : State) : State :=
  let t := bwrAdmit s
  match t.fab.accepted.getLast? with
  | some (q, _) =>
    if t.fab.accepted.length = s.fab.accepted.length + 1 && earlyAns t q && q.t.m.val ≠ 13 then
      txnDo { t with fab := { t.fab with accepted := t.fab.accepted.dropLast } } q t.now
    else t
  | none => t

/-- BWR_GRANT (R152-R155): new requests of present masters arrive, each with the world of its master now (R300), the arbiter places the grant
on one side of a window edge that has come (R153), and the regulator admits one request. -/
def execBwrGrant (arrive : List Txn) (nextWindow : Bool) (s : State) : Result :=
  let new := (arrive.filter fun t => masterPresent s.variant t.m).map fun t =>
    let w := portWho s ⟨t.m, t.ch⟩
    (⟨t, w.secure, w.priv⟩ : Issued)
  let s := urgWires (bwrNow { s with fab := { s.fab with waiting := s.fab.waiting ++ new } })
  let s := if nextWindow then bwrWindowEnd s else s
  .next (cueSettle (urgWires (bwrGrantOne s)))

/-- BWR_WINDOW_EDGE (R150, R157, R161). -/
def execBwrWindowEdge (s : State) : Result := .next (bwrWindowEnd (bwrNow s))

/-- TRANSACTION_ANSWER (R51, R138, R146): the i-th accepted transaction. -/
def execTransactionAnswer (i : Nat) (s : State) : Result :=
  .next (match s.fab.accepted[i]? with
    | none => s
    | some (q, at_) => cueSettle (urgWires (txnDo { s with fab := { s.fab with accepted := s.fab.accepted.eraseIdx i } } q at_)))

/-- What an access held at its target leaves when the fabric cancels it (R51, R195). -/
def blockedCancel (s : State) (b : Blocked) : State :=
  match b.kind with
  | .poolAlloc =>
    let mine (w : PoolWait) : Bool := match w.who with | .read m => decide (m = b.port.m) | _ => false
    let s := match s.pool.waits.find? mine with
      | some w => poolRefused s w.cls
      | none => s
    setAstat { s with pool := { s.pool with waits := s.pool.waits.filter fun w => !mine w } } b.port.m (s.now - b.arrival) 2
  | _ => s

/-- The line request of core c is answered TIMEOUT (R148). The record is made when a word of the line reaches decode (R53). -/
def lineTimeout (s : State) (c : Core) : State :=
  match s.cores[c].lineReq with
  | none => s
  | some r =>
    if s.now < r.at_ + s.fab.limit || !lineHeld s c r.num then s
    else
      let x : Line := ⟨r.num, List.replicate 8 (5, false)⟩
      setLast (s.updCore c fun k => { k with lineReq := none, lineNext := if r.wrong then none else some x }) (coreM c) 5 0

/-- The access that a target holds for a channel is answered TIMEOUT: the channel ends as ERROR (R52, R140, R148). -/
def dmaTimeout (s : State) (ch : Fin 16) : State :=
  match s.dma[ch].held with
  | none => s
  | some (at_, a) =>
    if s.now < at_ + s.fab.limit then s
    else
      let s := setLast (ecBus s (portWho s ⟨9, ch⟩) 5 a 0) 9 5 0
      dmaEnd (updDma s ch fun k => { k with count := k.count + natW (4 * k.put) }) ch 2 5

/-- FABRIC_TIMEOUT (R148, R195, R278): the i-th transaction that a target has accepted, when its limit has passed: those under way, the
accesses held, the line requests of the cores, and the accesses of the DMA channels. A line fetch leaves no record before a word of it
reaches decode (R53). -/
def execFabricTimeout (i : Nat) (s : State) : Result :=
  let n := s.fab.accepted.length
  let b := s.fab.blocked.length
  .next (
    if i < n then
      match s.fab.accepted[i]? with
      | none => s
      | some (q, at_) =>
        if s.now < at_ + s.fab.limit then s
        else
          let s := { s with fab := { s.fab with accepted := s.fab.accepted.eraseIdx i } }
          if q.t.kind = 2 then setLast s q.t.m 5 0
          else
            let s := setLast (ecBus s q.who 5 q.t.addr 0) q.t.m 5 0
            match portCore q.t.m with
            | some c => if s.cores[c].run = .running && !coreInWord s c then cueSettle (wordTrap s c 0x05 5 q.t.addr) else s
            | none => s
    else if i < n + b then
      match s.fab.blocked[i - n]? with
      | none => s
      | some b =>
        if s.now < b.arrival + s.fab.limit then s
        else
          let s := ecBus s { portWho s b.port with secure := b.secure } 5 b.addr 0
          cueSettle (failBlocked (blockedCancel s b) b 5 b.addr)
    else if h : i - (n + b) < 8 then lineTimeout s ⟨i - (n + b), h⟩
    else if h : i - (n + b) - 8 < 16 then cueSettle (dmaTimeout s ⟨i - (n + b) - 8, h⟩)
    else s)

/-! ### DMA (R138-R140) -/

/-- How far the accesses of a chunk came: all made, one answered other than OK, or one held by its target at an address. -/
inductive ChunkRes where
  | ok (s : State)
  | bad (s : State) (ans : Nat)
  | held (s : State) (a : Word)

/-- The address of word i of a chunk of channel ch. -/
def dmaAddr (base : Word) (fix : Bool) (count : Word) (i : Nat) : Nat := if fix then base.toNat else (base.toNat + count.toNat + 4 * i) % 2 ^ 32

/-- The words of a chunk still to be read, in ascending order (R139). -/
def dmaReads (w : Who) (ch : Fin 16) : Nat → State → ChunkRes
  | 0, s => .ok s
  | n + 1, s =>
    let k := s.dma[ch]
    let a := dmaAddr k.src k.srcFix k.count k.buf.length
    match busReadAt s w a 4 with
    | .done t 0 v => dmaReads w ch n (updDma t ch fun k => { k with buf := v :: k.buf })
    | .done t ans _ => .bad t ans
    | .wait t _ => .held t (natW a)
    | .later t => .held t (natW a)

/-- The words of a chunk still to be written, in ascending order. -/
def dmaWrites (w : Who) (ch : Fin 16) : Nat → State → ChunkRes
  | 0, s => .ok s
  | n + 1, s =>
    let k := s.dma[ch]
    let a := dmaAddr k.dst k.dstFix k.count k.put
    match busWriteAt s w a 4 (k.buf.reverse.getD k.put 0) 0 with
    | .done t 0 _ => dmaWrites w ch n (updDma t ch fun k => { k with put := k.put + 1 })
    | .done t ans _ => .bad t ans
    | .wait t _ => .held t (natW a)
    | .later t => .held t (natW a)

/-- A target holds the channel's access, since now or since before. -/
def dmaHold (s : State) (ch : Fin 16) (a : Word) : State :=
  updDma s ch fun k => { k with held := match k.held with
    | some (t, b) => if b = a then some (t, b) else some (s.now, a)
    | none => some (s.now, a) }

/-- The transaction `step` of a chunk, its read (1) or its write (2), is admitted whole before it begins (R152). -/
def dmaAdmit (s : State) (ch : Fin 16) (step bytes : Nat) : State × Bool :=
  if step ≤ s.dma[ch].adm then (s, true)
  else
    let r := bwrTake s 9 bytes
    if r.2 then (updDma r.1 ch fun k => { k with adm := step }, true) else r

/-- The end of a chunk: the next one, or the end of the channel. -/
def dmaNext (s : State) (ch : Fin 16) : State :=
  let s := updDma s ch fun k => { k with count := k.count + natW (4 * k.put), buf := [], put := 0, adm := 0, held := none }
  let k := s.dma[ch]
  if k.len.toNat ≤ k.count.toNat then dmaEnd s ch 0 0 else if k.stopReq then dmaEnd s ch 1 0 else s

/-- One chunk of a channel: read, then written, then the next chunk or the end (R139). A chunk that a target holds, or that is not admitted, stays
where it is (log entry 30). -/
def dmaChunk (s : State) (ch : Fin 16) : State :=
  let k := s.dma[ch]
  let n := min 8 ((k.len.toNat - k.count.toNat) / 4)
  if !k.busy || s.pwr.mode ≠ .run then s
  else if n = 0 then dmaEnd s ch 0 0
  else
    let w := portWho s ⟨9, ch⟩
    let p := dmaAdmit s ch 1 (4 * n)
    if !p.2 then p.1
    else match dmaReads w ch (n - k.buf.length) p.1 with
      | .bad t ans => dmaEnd t ch 2 (BitVec.ofNat 3 ans)
      | .held t a => dmaHold t ch a
      | .ok t =>
        let q := dmaAdmit t ch 2 (4 * n)
        if !q.2 then q.1
        else match dmaWrites w ch (n - k.put) q.1 with
          | .bad t ans => dmaEnd (updDma t ch fun k => { k with count := k.count + natW (4 * k.put) }) ch 2 (BitVec.ofNat 3 ans)
          | .held t a => dmaHold t ch a
          | .ok t => dmaNext t ch

/-- DMA_CHUNK_DONE (R139, R140). -/
def execDmaChunkDone (ch : Fin 16) (s : State) : Result := .next (cueSettle (dmaChunk s ch))

/-! ### The limits of waits -/

/-- A pool request that has waited for its class's limit is refused (R192, R194, R197, R232). -/
def poolLimit (s : State) (w : PoolWait) : State :=
  let s := { s with pool := { s.pool with waits := s.pool.waits.erase w } }
  match w.who with
  | .read m =>
    let s := setAstat (poolRefused s w.cls) m (s.now - w.arrival) 2
    (match blockedAlloc s m with
      | some b => completeBlocked s b 2
      | none => setLast s m 0 2)
  | .event e => refuseHw s e
  | .reply _ => poolRefused s w.cls
  | .user _ => poolRefused s w.cls

end Sys2Proof.Machine
end

