-- ==== Sys2Proof/Machine/PowerOps.lean ====
section
/-!
DEFINITION. Power domains going dark and coming up (R340, R341, R344-R346), and the parts of NAP (R349, R350) and of STANDBY (R353) that
do not concern Elvuk's commands.
-/

namespace Sys2Proof.Machine

/-! ### Domains -/

/-- The stage core of a domain code 2-9. -/
def domCore (code : Fin 32) : Option Core := if h : 2 ≤ code.val ∧ code.val < 10 then some ⟨code.val - 2, by omega⟩ else none

/-- The SRAM bank of a domain code 16-31. -/
def domBank (code : Fin 32) : Option (Fin 16) := if h : 16 ≤ code.val then some ⟨code.val - 16, by omega⟩ else none

/-- The domain code of a stage core. -/
def coreDom (c : Core) : Fin 32 := ⟨2 + c.val, by omega⟩

/-- Whether a domain is up: for a bank, ON (R340). -/
def domIsUp (s : State) (code : Fin 32) : Bool :=
  match domBank code with
  | some b => s.pwr.sram[b] = 2
  | none => s.pwr.dom.getLsbD code.val

/-- Whether a variant has a domain (R340). -/
def domPresent (v : Variant) (code : Fin 32) : Bool :=
  match domCore code, domBank code with
  | some c, _ => decide (c.val < coreCount v)
  | _, some b => decide (b.val < bankCount v)
  | _, _ => if code.val = 13 then hasStat v else decide (code.val < 13)

def setDrain (s : State) (code : Fin 32) (on : Bool) : State :=
  let bit : BitVec 32 := BitVec.ofNat 32 (2 ^ code.val)
  { s with pwr := { s.pwr with drain := if on then s.pwr.drain ||| bit else s.pwr.drain &&& ~~~bit } }

def setDom (s : State) (code : Fin 32) (on : Bool) : State :=
  let bit : BitVec 16 := BitVec.ofNat 16 (2 ^ code.val)
  { s with pwr := { s.pwr with dom := if on then s.pwr.dom ||| bit else s.pwr.dom &&& ~~~bit } }

def setBank (s : State) (b : Fin 16) (v : BitVec 2) : State := { s with pwr := { s.pwr with sram := putV s.pwr.sram b v } }

/-- The domain that the target of an address lies in (R340), none outside a domain that can go dark. -/
def targetDomain (a : Nat) : Option (Fin 32) :=
  match regionOf a with
  | .sram b => some ⟨16 + b.val, by omega⟩
  | .clsAlias n => some (coreDom n)
  | .flash .. => some 10
  | .dataFlash => some 10
  | .periph blk _ => (blockAt blk).map fun b => ⟨b.domain.val, by omega⟩
  | _ => none

/-- Whether a transaction is for a target in a domain, or from its core. -/
def txnIn (code : Fin 32) (t : Txn) : Bool :=
  targetDomain t.addr.toNat = some code || (match domCore code with | some c => decide (t.m = coreM c) | none => false)

/-- The transactions that the domain's targets have accepted, or that its core has in flight, complete (R344 order 3). -/
def finishTxns : Nat → State → Fin 32 → State
  | 0, s, _ => s
  | fuel + 1, s, code =>
    match s.fab.accepted.find? fun p => txnIn code p.1.t with
    | none => s
    | some p => finishTxns fuel (txnDo { s with fab := { s.fab with accepted := s.fab.accepted.erase p } } p.1 p.2) code

/-- A core stops for good (R345 order 1, R503 orders 2-4): its store buffer is performed, a QPUT on its way is decided whole without
it, what its held accesses answer is discarded, and its crypto job ends. -/
def coreStop (s : State) (c : Core) (result : BitVec 4) : State :=
  let s := allocWithdraw s c
  let s := sbFlush s.cores[c].sb.length s c
  let sec := s.cores[c].world
  let s := { s with
    cue := { s.cue with held := s.cue.held.filterMap fun x => match x with
      | .qput d _ q h _ _ => if d = c then some (.lost c sec q h) else some x
      | .qget d .. => if d = c then none else some x
      | _ => some x }
    fab := { s.fab with blocked := s.fab.blocked.map fun b => if b.core = some c then { b with core := none } else b } }
  cryDropOwner s (coreM c) result

/-- The drain of a domain begins (R344 orders 1-3, R345). -/
def drainStart (s : State) (code : Fin 32) : State :=
  let s := finishTxns s.fab.accepted.length s code
  let s := setDrain s code true
  match domCore code with
  | some c => (coreStop s c 7).updCore c fun k => { k with run := if k.run = .check then .check else .off }
  | none => s

/-- The leave requesters of the units of a domain (R355). -/
def domReqs (code : Fin 32) : List (Fin 41) :=
  if code.val = 11 then [29, 30, 31]
  else if code.val = 12 then [17, 18, 19, 20, 21, 22, 23, 24, 25, 26, 27, 28]
  else if code.val = 13 then [32]
  else []

/-- Every listen slot of a core is unbound (R345 order 6, R503 order 5). -/
def unbindAll (s : State) (c : Core) : State := (List.finRange 8).foldl (fun s n => lsnUnbind s (coreM c) n) s

/-- What a core leaves behind when its domain goes dark: OWNED buffers free, binds and claims removed, handles released, its requests
at the fabric withdrawn, its registers and CLS lost (R345, R346). -/
def coreDark (s : State) (c : Core) : State :=
  let s := poolDropAll s fun t => t.st = 1 && decide (t.owner.toNat = c.val)
  let s := keyDropOwner (unbindAll s c) c
  let s := { s with fab := { s.fab with waiting := s.fab.waiting.filter fun q => q.t.m ≠ coreM c } }
  resetCore s c

/-- The registers of the units of a domain at their reset values (R346). -/
def domReset (s : State) (code : Fin 32) : State :=
  match code.val with
  | 10 => { s with flc := { wcount := s.flc.wcount } }
  | 11 => { s with lane := Vector.replicate 24 {}, laneBlk := {} }
  | 12 => { s with adc := Vector.replicate 4 {}, spd := Vector.replicate 8 {} }
  | 13 => { s with stat := {} }
  | _ => s

/-- A domain is cut (R344 orders 4-6): leave returned, registers and contents lost or, for a bank told so, retained, DARK_DONE set. A domain
that a HELD send asked for meanwhile is brought up again (R176). -/
def domainDarken (s : State) (code : Fin 32) : State :=
  let s := (domReqs code).foldl leaveRelease s
  let s := setDrain s code false
  let s := match domBank code with
    | some b =>
      if s.pwr.toRetain.contains b then setBank { s with pwr := { s.pwr with toRetain := s.pwr.toRetain.erase b } } b 1
      else (setBank s b 0).wipe (0x10000000 + b.val * 0x20000) (0x10000000 + (b.val + 1) * 0x20000)
    | none => setDom (domReset s code) code false
  let s := match domCore code with | some c => coreDark s c | none => s
  let s := { s with pwr := { s.pwr with evt := s.pwr.evt.raise 0 } }
  let s := if s.pwr.heldUp.contains code && s.pwr.mode = .run && s.pwr.entering.isNone then heldAsk s code else s
  cueSettle s

/-- Whether a flash operation, or one of Elvuk's commands that has started, holds FLASH (R236, R347). -/
def flashUsed (s : State) : Bool := s.flc.busy.isSome || s.elv.jobs.any fun j => flashCodes.contains j.code
where flashCodes : List Nat := [0x0201, 0x0202, 0x0203, 0x0204, 0x0205, 0x0304, 0x0305]

/-- Whether the cut of a draining domain can come: nothing of the domain is on its way any more. -/
def cutReady (s : State) (code : Fin 32) : Bool :=
  s.pwr.drain.getLsbD code.val && s.pwr.mode = .run && !(code.val = 10 && flashUsed s) &&
    (match domCore code with | some c => s.cores[c].run ≠ .check | none => true)

/-- A core starts at the image entry with the state of R100 (R346). With no image booted the entry reads 0. -/
def coreStart (s : State) (c : Core) : State := s.updCore c fun k => { k with run := .running, pc := s.boot.entry, stepTb := s.now }

/-- A domain that comes up is up (R341, R346): a bank that was OFF holds zeros, a core starts and its inrush leave returns. -/
def domainUp (s : State) (code : Fin 32) : State :=
  let s := { s with pwr := { s.pwr with coming := s.pwr.coming.filter (· ≠ code), heldUp := s.pwr.heldUp.filter (· ≠ code) } }
  match domBank code, domCore code with
  | some b, _ => setBank s b 2
  | _, some c =>
    let s := setDom s code true
    leaveRelease (coreStart { s with pwr := { s.pwr with retry := putV s.pwr.retry c none } } c) (rCore c)
  | _, _ => setDom s code true

/-! ### NAP (R349, R350) -/

/-- A bank that holds any part of the descriptor table, of the table that a TABLE is copying to, or of the pool (R165, R200). -/
def bankPinned (s : State) (b : Fin 16) : Bool :=
  let lo := 0x10000000 + b.val * 0x20000
  overlaps lo 0x20000 s.cue.tbase.toNat (8 * 2 ^ s.cue.k) || tableMeets s lo 0x20000 ||
    overlaps lo 0x20000 s.pool.base.toNat (64 * poolCount s.pool)

/-- Every core that is up has stopped (R349 order 3). -/
def napStill (s : State) : Bool := (List.finRange 8).all fun c => !coreUp s c || s.cores[c].stopped

/-- The cores stop, each at a word boundary and with its store buffer drained (R349 order 3). -/
def napCores (s : State) : State :=
  (List.finRange 8).foldl (fun s c =>
    if coreUp s c && !coreInWord s c then (sbFlush s.cores[c].sb.length s c).updCore c fun k => { k with stopped := true } else s) s

/-- The units pause (R349 order 4): lanes in their SAFE output state with their programs stopped, converters after the conversion in progress.
A CONTINUOUS scan restarts at resumption. Their leave is kept. -/
def napUnits (s : State) : State :=
  let s := (List.finRange 4).foldl adcCalAbort s
  { s with
    pwr := { s.pwr with mode := .napUnits }
    lane := s.lane.map fun l =>
      let l := { l with asked := false }
      if l.st = 2 then { l with st := 4, seqrun := false, swait := none, high := 0, pdmOut := false } else l
    adc := s.adc.map fun k => { k with scan := none, reqs := [], kpdReq := false, startWait := k.trig = 3 && k.scan.isSome } }

/-- The banks that were ON go to RETAIN, all but those in use for messages, and LCLK stops (R349 order 5). -/
def napBanks (s : State) : State :=
  let bs := (List.finRange 16).filter fun b => s.pwr.sram[b] = 2 && !s.pwr.drain.getLsbD (16 + b.val) && !bankPinned s b
  let s := bs.foldl (fun s b => setBank s b 1) s
  { s with pwr := { s.pwr with mode := .napBanks, napBanks := bs, stillAt := s.now } }

/-- A pending alarm wakes the device at once after its next entry (R351). -/
def alarmAtEntry (s : State) : State :=
  if s.pwr.alarmPending && s.pwr.wakeMask.getLsbD 0 then { s with pwr := { s.pwr with wakes := s.pwr.wakes ++ [1] } } else s

/-- VDDC is lowered (R349 order 6): VSET takes the code of NAP_MV. Without the regulator's acknowledge it stays as it is (R362). -/
def napLower (s : State) (nack : Bool) : State :=
  let lost : Bool := vsetI2c s && nack
  let s := { s with pwr := { s.pwr with mode := .nap, entering := none, napVset := s.pwr.vset
                                        vset := if lost then s.pwr.vset else some (BitVec.ofNat 16 (vsetCode s (napMv s)))
                                        evt := if lost then s.pwr.evt.raise 2 else s.pwr.evt } }
  alarmAtEntry { s with elv := { s.elv with nap := none } }

/-- The entry into NAP can go on: Elvuk's commands have completed, and no wake has abandoned it (R349 order 2, R350). -/
def napReady (s : State) : Bool :=
  s.pwr.entering = some .nap && s.pwr.wakes.isEmpty && s.elv.jobs.isEmpty && s.flc.busy.isNone

/-- The next of orders 3 to 5 of R349. -/
def napGo (s : State) : State :=
  if !napReady s then s
  else match s.pwr.mode with
    | .run => if napStill s then napUnits s else napCores s
    | .napUnits => napBanks s
    | _ => s

/-- NAP is entered (R349 orders 3 to 6, as far as they are still to be made): each core must come to a word boundary first, and a supply below
0.90 V waits for the end of an OTP operation (R361, R362). -/
def napEnter (s : State) (nack : Bool) : State :=
  let s := if s.pwr.mode = .run then napCores s else s
  if !napStill s then s
  else
    let s := if s.pwr.mode = .run then napUnits s else s
    let s := if s.pwr.mode = .napUnits then napBanks s else s
    if s.otp.busy.isSome && decide (napMv s < 900) then s else napLower s nack

/-- A wake is recorded (R350 order 1, R351, R352). An alarm is spent once it has woken the device. -/
def wakeNote (s : State) (reason : BitVec 4) (early : Bool) : State :=
  { s with pwr := { s.pwr with reason := reason.setWidth 16, early := early, wakes := []
                               alarmArmed := if reason = 1 then false else s.pwr.alarmArmed
                               alarmPending := if reason = 1 then false else s.pwr.alarmPending } }

/-- The WAKE event (R220, R352). -/
def wakeEvent (s : State) : State := linkEvent s 0x8003 (leBytes 2 s.pwr.reason.toNat)

/-- The domains that HELD sends wait for are asked for (R350), but one that still drains after its cut (R344). -/
def heldUpAsk (s : State) : State := s.pwr.heldUp.foldl (fun s code => if s.pwr.drain.getLsbD code.val then s else heldAsk s code) s

/-- A core that stopped for NAP resumes, with its count of R502 from now. -/
def CoreState.resumed (k : CoreState) (now : Nat) : CoreState := if k.stopped then { k with stopped := false, stepTb := now } else k

/-- What LCLK times in a lane stands for as long as LCLK stood (R349, R396). -/
def Lane.resumed (l : Lane) (d : Nat) : Lane := { l with edge := l.edge + d, runAt := l.runAt + d, frame := l.frame.map (· + d) }

/-- What the entry into NAP has done is undone (R350 orders 2-5): VSET and the banks as they were, the cores and the converters go on. -/
def napResume (s : State) : State :=
  let mode : PowerMode := s.pwr.mode
  let s := { s with pwr := { s.pwr with mode := .run, entering := none
                                        vset := if mode = PowerMode.nap then s.pwr.napVset else s.pwr.vset
                                        napVset := none } }
  let s := s.pwr.napBanks.foldl (fun s b => if s.pwr.sram[b] = 1 then setBank s b 2 else s) s
  let s := { s with pwr := { s.pwr with napBanks := [] }, cores := s.cores.map fun k => k.resumed s.now, elv := { s.elv with nap := none } }
  let s := if mode = PowerMode.nap || mode = PowerMode.napBanks then { s with lane := s.lane.map fun l => l.resumed (s.now - s.pwr.stillAt) } else s
  if mode = PowerMode.run then s
  else (List.finRange 4).foldl (fun s a => adcNext (if s.adc[a].startWait then adcScanStart (updAdc s a fun k => { k with startWait := false }) a else s) a) s

/-- A wake ends NAP, or abandons its entry (R350). -/
def napLeave (s : State) (reason : BitVec 4) : State := heldUpAsk (wakeEvent (napResume (wakeNote s reason false)))

/-- The output pin VCEN, which asks for VDDC: low in STANDBY alone (R342, R343). -/
def vcen (s : State) : Bool := s.pwr.mode ≠ .standby

/-! ### RTC alarm (R351) -/

/-- The alarm falls due: it wakes the device, or stays pending. -/
def alarmDue (s : State) : State :=
  if !s.pwr.alarmArmed || s.time.rtc / 32768 < s.pwr.alarm.toNat then s
  else
    let s := { s with pwr := { s.pwr with alarmArmed := false } }
    if (s.pwr.mode ≠ .run || s.pwr.entering.isSome) && s.pwr.wakeMask.getLsbD 0 then wakeBy s 1
    else { s with pwr := { s.pwr with alarmPending := true } }

end Sys2Proof.Machine
end

