-- ==== Sys2Proof/Machine/DebugOps.lean ====
section
/-!
DEFINITION. Debug authorisation (15_security_debug_power.md, R303-R313) and debug access through the TAP (23_trace_debug.md,
R479-R491).
-/

namespace Sys2Proof.Machine

/-! ### Levels and sessions -/

/-- A halted core goes on: its fetch path is discarded, and the next word is exempt from breakpoints (R486). The trace tells the resume
(R471). -/
def dbgResume (s : State) (c : Core) : State :=
  let s := s.updCore c fun k => { k.flushFetch with run := .running, skipBrk := true, stepTb := s.now, haltReq := false, stepping := false
                                                    haltInfo := k.haltInfo &&& 0x7FFFFFFF }
  if traced s c then trcAddr (trcCtx s c 5) c 2 none s.cores[c].pc else s

/-- Halted cores that `f` picks go on. -/
def dbgResumeAll (s : State) (f : CoreState → Bool) : State :=
  (List.finRange 8).foldl (fun s c => if s.cores[c].run = .halted && f s.cores[c] then dbgResume s c else s) s

/-- The debug level changes: the trace tells it, and what the new level does not allow ends (R310-R313, R490, R491). -/
def dbgSet (s : State) (level source : BitVec 2) (slot : Byte) : State :=
  let old := s.dbg.level
  let ext := s.dbg.extest && (s.boot.life = 0 || level = 2)
  let s := { s with dbg := { s.dbg with level := level, source := source, slot := slot, extest := ext } }
  let s := if level = old then s else
    (List.finRange 8).foldl (fun s c =>
      if traced s c then
        let s := trcCtx s c 6
        if trcExcluded s s.cores[c].state && old = 2 then trcPush s (some c) [trcHdr 7 c.val, 1] else s
      else s) s
  let s := if level = 2 && s.boot.life = 2 then keyDropAll s else s
  if level = 0 then
    let s := { s with cores := s.cores.map fun k => { k with ibrk := Vector.replicate 4 {}, watch := Vector.replicate 2 {}
                                                             haltReq := false, stepping := false } }
    dbgResumeAll s fun _ => true
  else if level = 1 then dbgResumeAll s fun k => k.world
  else s

/-- The session ends, when there is one (R307): with it go the breakpoints and watchpoints (R311, R490). -/
def dbgEnd (s : State) : State := if s.dbg.level = 0 then s else dbgSet s 0 0 0xFF

/-! ### Challenge and response (R305-R309) -/

/-- The statuses of R231. -/
def stOk : Nat := 0x0000
def stDelayed : Nat := 0x0001
def stBusy : Nat := 0x0100
def stBooting : Nat := 0x0101
def stBadArg : Nat := 0x0200
def stBadField : Nat := 0x0201
def stUnknown : Nat := 0x0202
def stNotPermitted : Nat := 0x0300
def stLocked : Nat := 0x0301
def stLockout : Nat := 0x0302
def stRefusedLeave : Nat := 0x0400
def stRefusedPool : Nat := 0x0401
def stAbsent : Nat := 0x0500
def stFailed : Nat := 0x0600
def stVerifyFailed : Nat := 0x0601
def stWordUsed : Nat := 0x0602
def stMarginal : Nat := 0x0603
def stInterrupted : Nat := 0x0700

def dbgChallenge (s : State) (tap : Bool) : Option Challenge := if tap then s.dbg.chTap else s.dbg.chHost

def dbgPutChallenge (s : State) (tap : Bool) (c : Option Challenge) : State :=
  if tap then { s with dbg := { s.dbg with chTap := c } } else { s with dbg := { s.dbg with chHost := c } }

/-- Step 8 of R232 for a challenge: locked out, or the entropy source stopped (R309, R322). -/
def challengeOwn (s : State) : Option Nat :=
  if dbgLocked s then some stLockout else if s.key.stopped then some stNotPermitted else none

/-- Whether the reserve holds the 32 bytes of a nonce (R305, R322). -/
def nonceReady (s : State) : Bool := decide (8 ≤ s.key.reserve)

/-- A challenge is issued: it replaces the one outstanding from its source (R305). -/
def challengeIssue (s : State) (tap : Bool) (level : Nat) (nonce : List Byte) : State :=
  dbgPutChallenge { s with key := { s.key with reserve := s.key.reserve - 8 } } tap (some ⟨nonce, BitVec.ofNat 2 level, s.now⟩)

/-- Step 8 of R232 for a response. -/
def responseOwn (s : State) (tap : Bool) : Option Nat :=
  if dbgLocked s then some stLockout else if (dbgChallenge s tap).isNone then some stNotPermitted else none

/-- The lowest-numbered debug-key slot that a public key matches, with its level (R306, R314). -/
def debugSlot (s : State) (pub : List Byte) : Option (Nat × Nat) :=
  let h := sha256 pub
  (List.range 4).findSome? fun i =>
    let level := bitsOf (otpVal s 7) (2 * i) 2
    if (level = 1 ∨ level = 2) ∧ wordsLe (otpVals s (0x28 + 8 * i) 8) = h then some (i, level) else none

/-- The 38 bytes that a response signs (R306). -/
def authMessage (c : Challenge) (tap : Bool) : List Byte :=
  c.nonce ++ leBytes 4 0x4E420B24 ++ [natB c.level.toNat, if tap then 1 else 2]

/-- A response is verified (R306-R310): the status and the results. -/
def responseVerify (s : State) (tap : Bool) (args : List Byte) : State × Nat × List Byte :=
  match dbgChallenge s tap with
  | none => (s, stNotPermitted, [])
  | some c =>
    let s := dbgPutChallenge s tap none
    let pub := args.take 64
    let bad : State × Nat × List Byte :=
      ({ s with dbg := { s.dbg with failures := min 8 (s.dbg.failures + 1) } }, stVerifyFailed, [])
    if !ecdsaVerify (sha256 (authMessage c tap)) pub ((args.drop 64).take 64) then bad
    else match debugSlot s pub with
      | none => bad
      | some (slot, level) =>
        let mine : BitVec 2 := if tap then 1 else 2
        if s.dbg.level ≠ 0 && s.dbg.source ≠ mine then (s, stBusy, [])
        else
          let g := min c.level.toNat level
          let g := if s.boot.life = 2 && (otpVal s 6).getLsbD 0 then min g 1 else g
          (dbgSet s (BitVec.ofNat 2 g) mine (natB slot), stOk, [natB g, natB slot])

/-- AUTH_DROP (R305, R307). -/
def authDrop (s : State) : State := dbgEnd { s with dbg := { s.dbg with chTap := none, chHost := none } }

/-- The results of AUTH_STATUS (R244). -/
def authStatus (s : State) : List Byte :=
  [natB s.dbg.level.toNat, s.dbg.slot, natB s.dbg.source.toNat, natB s.dbg.failures, natB (boolN (dbgLocked s) 0)]

/-- A challenge expires 10 s after it was issued (R305). -/
def challengeExpire (s : State) (tap : Bool) : State :=
  match dbgChallenge s tap with
  | some c => if c.issued + 240000000 ≤ s.now then dbgPutChallenge s tap none else s
  | none => s

/-! ### DBG_AUTH (R481) -/

/-- A ticket of Elvuk that holds and waits for nothing (R355, R359). -/
def ticketFree (s : State) : Option (Fin 41) :=
  (List.finRange 41).find? fun r => decide (r.val < 8) && !lvHolds s r && !lvWaits s r

/-- The answer to the TAP's request. -/
def tapAnswer (s : State) (status : Nat) (results : List Byte) : State :=
  { s with dbg := { s.dbg with pend := none, resp := leBytes 2 status ++ results } }

/-- A response of the TAP is verified with its leave held, which is then returned. -/
def tapVerify (s : State) (x : TapPend) (waited : Option Nat) : State :=
  let r := responseVerify s true x.args
  let s := match x.ticket with
    | some t => ticketRelease { r.1 with dbg := { r.1.dbg with pend := none } } t
    | none => r.1
  match waited with
  | some n => if r.2.1 = stOk then tapAnswer s stDelayed (r.2.2 ++ leBytes 4 n) else tapAnswer s r.2.1 r.2.2
  | none => tapAnswer s r.2.1 r.2.2

/-- The TAP's request goes as far as it can now: a challenge waits for the reserve, a response for the crypto
engine's 15 units of leave (R235, R247, R330). -/
def tapPoll (s : State) : State :=
  match s.dbg.pend with
  | none => s
  | some x =>
    if x.code = 0x0501 then
      (match challengeOwn s with
        | some st => tapAnswer s st []
        | none => if nonceReady s then tapAnswer (challengeIssue s true (argN x.args 0 1) x.nonce) stOk x.nonce else s)
    else if !hasCry s.variant then tapVerify s x none
    else match x.ticket with
      | some t =>
        if lvHolds s t then tapVerify s x (some s.lv.rwait[t])
        else if lvWaits s t then s
        else tapAnswer s stRefusedLeave []
      | none =>
        let y : TapPend := { x with ticket := some 16 }
        if lvHolds s 16 then tapVerify s y none
        else if lvWaits s 16 then { s with dbg := { s.dbg with pend := some y } }
        else
          let p := lvRequest s 16 15 1
          match p.2 with
          | .granted => tapVerify p.1 y none
          | .waiting => { p.1 with dbg := { p.1.dbg with pend := some y } }
          | .refused => tapAnswer p.1 stRefusedLeave []

/-- Whether an AUTH_RESPONSE of either source has started and not ended (R236, R308). -/
def authHeld (s : State) : Bool :=
  (match s.dbg.pend with | some x => decide (x.code = 0x0502) | none => false) || s.elv.jobs.any fun j => j.code = 0x0502

/-- A request of the TAP is submitted (R232, R305, R481). -/
def tapSubmit (s : State) (req nonce : List Byte) : State :=
  let code := argN req 0 2
  let args := req.drop 2
  let ch : Bool := code = 0x0501 || code = 0x0502
  let start (s : State) : State := tapPoll { s with dbg := { s.dbg with pend := some { code := code, args := args, nonce := nonce } } }
  if req.length < 2 ∨ 130 < req.length then tapAnswer s stBadArg []
  else if ch && !curtainOpen s then tapAnswer s stBooting []
  else if code = 0x0501 then
    (if args.length ≠ 1 then tapAnswer s stBadArg []
     else if argN args 0 1 = 0 ∨ 2 < argN args 0 1 then tapAnswer s stBadField []
     else start s)
  else if code = 0x0502 then
    (if args.length ≠ 128 then tapAnswer s stBadArg []
     else match responseOwn s true with
       | some st => tapAnswer s st []
       | none => if authHeld s then tapAnswer s stBusy [] else start s)
  else if code = 0x0503 then (if args ≠ [] then tapAnswer s stBadArg [] else tapAnswer (authDrop s) stOk [])
  else if code = 0x0504 then (if args ≠ [] then tapAnswer s stBadArg [] else tapAnswer s stOk (authStatus s))
  else tapAnswer s stNotPermitted []

/-- An instruction is loaded into the TAP (R479, R491): the pads return from EXTEST. -/
def tapLoad (s : State) (ir : BitVec 5) : State := { s with dbg := { s.dbg with ir := ir, extest := false } }

/-- The TAP answers nothing in STANDBY (R484). -/
def tapLive (s : State) : Bool := s.pwr.mode ≠ .standby

/-- An Update-DR of DBG_AUTH (R481): while a request runs, none is appended. -/
def tapUpdate (s : State) (dr : BitVec 9) (nonce : List Byte) : State :=
  let s := tapLoad s 8
  if s.dbg.pend.isSome then s
  else
    let req := s.dbg.req ++ [dr.setWidth 8]
    if dr.getLsbD 8 then tapSubmit { s with dbg := { s.dbg with req := [], resp := [] } } req nonce
    else { s with dbg := { s.dbg with req := req } }

/-- A Capture-DR of DBG_AUTH: the next byte of the response with VALID (R481). -/
def tapCapture (s : State) : State :=
  let s := tapPoll (tapLoad s 8)
  match s.dbg.resp with
  | [] => { s with dbg := { s.dbg with dr := 0 } }
  | b :: r => { s with dbg := { s.dbg with dr := 0x100 ||| b.setWidth 9, resp := r } }

/-! ### DBG_ACCESS (R482, R484-R486) -/

/-- The core that an operation names, if it is present. -/
def dbgCore (s : State) (n : BitVec 4) : Option Core :=
  if h : n.toNat < 8 then (if n.toNat < coreCount s.variant then some ⟨n.toNat, h⟩ else none) else none

/-- The answer of an operation, as Capture-DR shows it. -/
def dbgAnswer (s : State) (op : BitVec 4) (ans : BitVec 3) (data : Word) : State :=
  { s with dbg := { s.dbg with op := op, ans := ans, data := data } }

/-- BUSY: an operation is held in NAP, or its access at a target. -/
def dbgBusy (s : State) : Bool := s.dbg.heldOp.isSome || s.fab.blocked.any fun b => b.port.m.val = 14

/-- Debug access as a requester (R300). -/
def dbgPort : Port := ⟨14, 0⟩

/-- MEM_READ and MEM_WRITE. One that the regulator does not admit yet stays BUSY and is tried again with every tick. -/
def dbgMem (s : State) (op : BitVec 4) (addr : Word) (w : Option Word) : State :=
  if s.dbg.level = 0 then dbgAnswer s op 3 0
  else if addr.toNat % 4 ≠ 0 then dbgAnswer s op 1 0
  else
    let r := match w with
      | some v => busWrite s (portWho s dbgPort) addr.toNat 4 v 0
      | none => busRead s (portWho s dbgPort) addr.toNat 4
    match r with
    | .done s ans v => cueSettle (dbgAnswer s op (BitVec.ofNat 3 ans) v)
    | .wait s k => portWait (dbgAnswer s op 0 0) dbgPort (portWho s dbgPort) addr k
    | .later s => { s with dbg := { s.dbg with heldOp := some ⟨op, 0, addr, w.getD 0⟩ } }

/-- The register of a halted core at a register address (R482), with its error check (R495): the answer and the value. -/
def dbgRegRead (s : State) (c : Core) (a : Nat) : State × BitVec 3 × Word :=
  let k := s.cores[c]
  let full : Bool := s.dbg.level = 2
  let chk (i : Nat) (v : Word) : State × BitVec 3 × Word :=
    let e := eccRead s c [i]
    if e.2 then (e.1, 0, v) else (e.1, 4, 0)
  if h : a < 16 then (if a = 0 then (s, 0, 0) else chk a (k.reg (BitVec.ofNat 4 a)))
  else if a = 0x10 then (s, 0, k.fl.setWidth 32)
  else if a = 0x11 then (s, 0, k.pc)
  else if a = 0x12 then (s, 0, natW k.rs.length)
  else if 0x100 ≤ a ∧ a < 0x10D ∧ a ≠ 0x107 then
    (if a = 0x108 && !full then (s, 3, 0) else chk (a - 0x100 + 16) (srRead k c (a - 0x100)))
  else if 0x200 ≤ a ∧ a < 0x280 then
    (match privRead s (coreM c) 14 full a with
      | .ok t v => (t, 0, v)
      | .bad ans => (s, ans, 0)
      | .wait _ _ => (s, 1, 0))
  else (s, 1, 0)

/-- A register of a halted core written: the answer (R482). From OPEN the core stays in the Open world. -/
def dbgRegWrite (s : State) (c : Core) (a : Nat) (v : Word) : State × BitVec 3 :=
  let full : Bool := s.dbg.level = 2
  let upd (f : CoreState → CoreState) : State × BitVec 3 := (s.updCore c f, 0)
  let clean (i : Nat) (k : CoreState) : CoreState := { k with sec := k.sec.filter (· ≠ i), ded := k.ded.filter (· ≠ i) }
  if a < 16 then upd fun k => clean a (k.setReg (BitVec.ofNat 4 a) v)
  else if 0x200 ≤ a ∧ a < 0x280 then
    (match privWrite s (coreM c) 14 full true a v with
      | .ok t => (t, 0)
      | .bad ans => (s, ans)
      | .field t => (t, 7)
      | .wait _ _ => (s, 1))
  else
    match a with
    | 0x10 => upd fun k => { k with fl := v.setWidth 4 }
    | 0x11 => upd fun k => { k with pc := v &&& 0xFFFFFFFC }
    | 0x12 => (s, 0)
    | 0x100 =>
      if !full && v.getLsbD 1 then (s, 3)
      else
        let old := s.cores[c].state
        let s := s.updCore c fun k => clean 16 (({ k with state := v &&& stateMask } : CoreState).clearActive)
        (trcState s c old s.cores[c].pc, 0)
    | 0x101 => upd fun k => clean 17 { k with tpc := v &&& 0xFFFFFFFC }
    | 0x102 => upd fun k => clean 18 { k with tfl := v &&& 0xF }
    | 0x103 => if !full && v.getLsbD 1 then (s, 3) else upd fun k => clean 19 { k with tstate := v &&& stateMask }
    | 0x108 => if full then upd fun k => clean 24 { k with tvecS := v &&& 0xFFFFF800 } else (s, 3)
    | 0x109 => upd fun k => clean 25 { k with tvecO := v &&& 0xFFFFF800 }
    | 0x10A => upd fun k => clean 26 { k with dsl := v &&& 0xFFFFFFFC }
    | 0x104 | 0x105 | 0x106 | 0x10B | 0x10C => (s, 0)
    | _ => (s, 1)

/-- Whether a halt that is pending can be taken: at a boundary, where the level permits it, and not between a flow instruction and its
delay slot (R485). -/
def haltReady (s : State) (c : Core) : Bool :=
  let k := s.cores[c]
  k.haltReq && coreUp s c && (k.run = .running || k.run = .waiting) && k.flow.isNone && !k.stopped && !coreInWord s c &&
    haltPermitted s c

/-- HALT_TAKEN (R485). -/
def haltTake (s : State) (c : Core) : State :=
  if haltReady s c then haltCore s c (if s.cores[c].stepping then 2 else 1) 0 else s

/-- HALT: pending until the core reaches a boundary where it is permitted; a core in WAIT halts at once (R485). -/
def dbgHalt (s : State) (c : Core) : State :=
  let k := s.cores[c]
  if k.run = .halted then s
  else
    let s := s.updCore c fun k => { k with haltReq := true }
    if k.run = .waiting then haltTake s c else s

/-- One word at the pc of a core (R486). -/
def stepWord (s : State) (c : Core) : State :=
  runWord s c ⟨0, 0, 0, 0⟩ (decodeWord (s.word (physAddr (coreM c) s.cores[c].pc.toNat)))

/-- STEP: one word, or a flow instruction with its delay slot, and a halt (R486). -/
def dbgStep (s : State) (c : Core) : State :=
  let s := stepWord (dbgResume s c) c
  let s := if s.cores[c].flow.isSome && !coreBlocked s c then stepWord s c else s
  let s := s.updCore c fun k => if k.run = .halted then k else { k with haltReq := true, stepping := true }
  haltTake s c

/-- An operation whose core is present (R482, R484-R486). -/
def dbgCoreOp (s : State) (op : BitVec 4) (c : Core) (addr data : Word) : State :=
  let halted := s.cores[c].run = .halted
  let a := addr.toNat
  match op.toNat with
  | 3 =>
    if (dbgRegRead s c a).2.1 = 1 then dbgAnswer s op 1 0
    else if !halted || s.dbg.level = 0 then dbgAnswer s op 3 0
    else
      let r := dbgRegRead s c a
      dbgAnswer r.1 op r.2.1 r.2.2
  | 4 =>
    if (dbgRegWrite s c a data).2 = 1 then dbgAnswer s op 1 0
    else if !halted || s.dbg.level = 0 then dbgAnswer s op 3 0
    else
      let r := dbgRegWrite s c a data
      dbgAnswer r.1 op r.2 0
  | 9 => if s.dbg.level = 0 then dbgAnswer s op 3 0 else dbgAnswer s op 0 s.cores[c].haltInfo
  | n =>
    if s.dbg.level = 0 then dbgAnswer s op 3 0
    else if !coreUp s c || coreLost s c then dbgAnswer s op 6 0
    else if n = 5 then dbgAnswer (dbgHalt s c) op 0 0
    else if !halted then dbgAnswer s op 3 0
    else if n = 6 then dbgAnswer (dbgResume s c) op 0 0
    else dbgAnswer (dbgStep s c) op 0 0

/-- An operation of DBG_ACCESS that is performed now. -/
def dbgDo (s : State) (op core : BitVec 4) (addr data : Word) : State :=
  match op.toNat with
  | 0 => dbgAnswer s op 0 0
  | 1 => dbgMem s op addr none
  | 2 => dbgMem s op addr (some data)
  | 8 => if s.dbg.level = 0 then dbgAnswer s op 3 0 else dbgAnswer (wakeBy s 11) op 0 0
  | n =>
    if 10 ≤ n then dbgAnswer s op 7 0
    else match dbgCore s core with
      | some c => dbgCoreOp s op c addr data
      | none => dbgAnswer s op 2 0

/-- An Update-DR of DBG_ACCESS (R482, R484): ignored while BUSY; in NAP, held but for STATUS and WAKE. -/
def dbgUpdate (s : State) (op core : BitVec 4) (addr data : Word) : State :=
  if !tapLive s then s
  else
    let s := tapLoad s 9
    if dbgBusy s then s
    else if s.pwr.mode ≠ .run && op ≠ 8 && op ≠ 9 then { s with dbg := { s.dbg with heldOp := some ⟨op, core, addr, data⟩ } }
    else dbgDo s op core addr data

/-- The operation that NAP or the regulator held takes effect (R484). -/
def dbgHeldRun (s : State) : State :=
  match s.dbg.heldOp with
  | some o => if s.pwr.mode = .run then dbgDo { s with dbg := { s.dbg with heldOp := none } } o.op o.core o.addr o.data else s
  | none => s

/-! ### Boundary scan (R491, R529) -/

/-- The cells of the boundary register. -/
def bndLen : Variant → Nat | .x => 315 | .s => 252 | .t => 138

/-- A list of cells of exactly that length. -/
def bndFit (v : Variant) (l : List Bool) : List Bool := (l ++ List.replicate (bndLen v) false).take (bndLen v)

/-- EXTEST is permitted in BLANK, and at FULL. -/
def extestOk (s : State) : Bool := s.boot.life = 0 || s.dbg.level = 2

end Sys2Proof.Machine
end

