-- ==== Sys2Proof/Machine/RowsDebug.lean ====
section
/-!
DEFINITION. The commands of the TAP and of debug access (15, 23). A row of DBG_AUTH or DBG_ACCESS finds its instruction loaded, and in
STANDBY the TAP answers nothing (R484).
-/

namespace Sys2Proof.Machine

/-- What the TAP does where it answers. -/
def tapDo (s : State) (f : State → State) : Result := .next (if tapLive s then f s else s)

/-- CHALLENGE_EXPIRY (R305). -/
def execChallengeExpiry (tap : Bool) (s : State) : Result := .next (challengeExpire s tap)

/-- TAP_RESET (R479): IDCODE is selected, and the pads return from EXTEST. -/
def execTapReset (s : State) : Result := tapDo s fun s => tapLoad s 2

/-- EXTEST (R491): it drives the pads where it is permitted, and acts as BYPASS elsewhere. -/
def execExtest (s : State) : Result :=
  tapDo s fun s => { tapLoad s 0 with dbg := { (tapLoad s 0).dbg with extest := extestOk s } }

/-- SAMPLE_PRELOAD (R491). -/
def execSamplePreload (pads load : List Bool) (s : State) : Result :=
  tapDo s fun s => { tapLoad s 1 with dbg := { (tapLoad s 1).dbg with sampled := bndFit s.variant pads, bnd := bndFit s.variant load } }

/-- The identification register (R480): the version, the part number with its variant code, the manufacturer and a 1. -/
def idcode (v : Variant) : Word :=
  let part : BitVec 16 := 0x0B24 + match v with | .x => 0 | .s => 1 | .t => 2
  1#4 ++ part ++ 0x767#11 ++ 1#1

/-- The instruction is loaded, and a capture of its 32-bit data register gives `w`. -/
def tapCap (s : State) (ir : BitVec 5) (w : Word) : State := { tapLoad s ir with dbg := { (tapLoad s ir).dbg with cap := w } }

/-- IDCODE (R480). -/
def execIdcode (s : State) : Result := tapDo s fun s => tapCap s 2 (idcode s.variant)

/-- BYPASS, and any other instruction but EXTEST (R479, R491); DBG_STATUS captures its register (R483). -/
def execBypass (ir : BitVec 5) (s : State) : Result :=
  tapDo s fun s => if ir = 0 then { tapLoad s 0 with dbg := { (tapLoad s 0).dbg with extest := extestOk s } } else if ir = 0x0A then tapCap s ir (dbgStatusWord s) else tapLoad s ir

/-- DBG_AUTH and its capture (R481). -/
def execDbgAuth (dr : BitVec 9) (nonce : List Byte) (s : State) : Result := tapDo s fun s => tapUpdate s dr nonce
def execDbgAuthCapture (s : State) : Result := tapDo s tapCapture

/-- The operations of DBG_ACCESS (R482). -/
def execNop (core : BitVec 4) (addr data : Word) (s : State) : Result := .next (dbgUpdate s 0 core addr data)
def execMemRead (core : BitVec 4) (addr data : Word) (s : State) : Result := .next (dbgUpdate s 1 core addr data)
def execMemWrite (core : BitVec 4) (addr data : Word) (s : State) : Result := .next (dbgUpdate s 2 core addr data)
def execRegRead (core : BitVec 4) (addr data : Word) (s : State) : Result := .next (dbgUpdate s 3 core addr data)
def execRegWrite (core : BitVec 4) (addr data : Word) (s : State) : Result := .next (dbgUpdate s 4 core addr data)
def execHalt (core : BitVec 4) (addr data : Word) (s : State) : Result := .next (dbgUpdate s 5 core addr data)
def execResume (core : BitVec 4) (addr data : Word) (s : State) : Result := .next (dbgUpdate s 6 core addr data)
def execStep (core : BitVec 4) (addr data : Word) (s : State) : Result := .next (dbgUpdate s 7 core addr data)
def execWake (core : BitVec 4) (addr data : Word) (s : State) : Result := .next (dbgUpdate s 8 core addr data)
def execStatus (core : BitVec 4) (addr data : Word) (s : State) : Result := .next (dbgUpdate s 9 core addr data)

/-- OP 10-15: BAD_FIELD (R482). An `op` below 10 is no such operation. -/
def execDbgAccessReservedOp (op core : BitVec 4) (addr data : Word) (s : State) : Result :=
  .next (if 10 ≤ op.toNat then dbgUpdate s op core addr data else s)

/-- HALT_TAKEN (R485). -/
def execHaltTaken (c : Core) (s : State) : Result := .next (haltTake s c)

end Sys2Proof.Machine
end

