-- ==== Sys2Proof/Machine/ElvukOps.lean ====
section
/-!
DEFINITION. How Elvuk takes a request, checks it, asks leave for it and replies (11, 12: R210, R214, R224-R239). What each command does
is in ElvukCmds.lean and ElvukStore.lean. A command that has to wait is a job of `State.elv`, and goes on when its row is given again.
-/

namespace Sys2Proof.Machine

/-! ### Messages on 0x00C0 (R224-R226) -/

/-- The buffer of a message that the Prompter has read is freed (R198). -/
def elvFree (s : State) (h : Word) : State :=
  match poolIndex s.pool h with | some i => poolSettle (poolDrop s i) | none => s

/-- The Prompter takes the messages that wait on 0x00C0, in order (R226). -/
def elvTakeAll : Nat → State → State
  | 0, s => s
  | fuel + 1, s =>
    match takeCheck s 0xC0 8 true with
    | .got g x =>
      let hdr := (s.word g.handle.toNat).toNat
      let body := memBytes s.mem (g.handle.toNat + 4) (hdr % 64)
      let s := elvFree (takeMsg s 8 g x) g.handle
      let s := if h : hdr / 4096 % 16 < 8 then
          { s with elv := { s.elv with inbox := s.elv.inbox ++ [⟨⟨hdr / 4096 % 16, h⟩, g.secure, hdr / 64 % 64, body⟩] } }
        else s
      elvTakeAll fuel s
    | .bad => cueFatal s
    | _ => s

/-- Messages are taken while Elvuk runs: not on the way into NAP or STANDBY (R349), nor while the Cue engine holds every operation
(R167, R501). -/
def elvIntake (s : State) : State :=
  if s.pwr.mode ≠ .run || s.pwr.entering.isSome || s.cue.table.isSome || s.cue.halt then s
  else elvTakeAll (queueOf s 0xC0).msgs.length s

/-- An area named by an indirect message (R224): inside present SRAM, and inside Open banks for an Open caller. A bank that is not ON and
the descriptor table count as outside (log entry 21). -/
def elvArea (s : State) (a n : Nat) (secure : Bool) : Option Nat :=
  let top := 0x10000000 + sramSize s.variant
  let bs := if n = 0 then [] else (List.finRange 16).filter fun b => overlaps (0x10000000 + b.val * 0x20000) 0x20000 a n
  if a < 0x10000000 ∨ top ≤ a ∨ top < a + n then some stBadArg
  else if bs.any (fun b => !bankOn s b) || overlaps s.cue.tbase.toNat (8 * 2 ^ s.cue.k) a n then some stBadArg
  else if !secure && bs.any (fun b => !s.part.sramOpen.getLsbD b.val) then some stNotPermitted
  else none

/-- A request as its message spells it, with the status that its form alone gives (R224), and that of its areas. -/
structure MailReq where
  code : Nat
  req  : Req
  pre  : Option Nat
  area : Option Nat

/-- The request that a message spells. -/
def mailReq (s : State) (x : ElvMail) : MailReq :=
  let b := x.body
  let code := argN b 0 2
  let tag := BitVec.ofNat 16 (argN b 2 2)
  if x.type = 0 then ⟨code, ⟨.core x.core x.secure tag, b.drop 4⟩, if b.length < 4 then some stBadArg else none, none⟩
  else if x.type = 1 then
    if b.length < 16 ∨ 1024 < argN b 8 2 ∨ 1024 < argN b 14 2 then
      ⟨code, ⟨.coreIndirect x.core x.secure tag 0 0, []⟩, some stBadArg, none⟩
    else
      let bad := (elvArea s (argN b 4 4) (argN b 8 2) x.secure).or (elvArea s (argN b 10 4) (argN b 14 2) x.secure)
      let args := if bad.isSome then [] else memBytes s.mem (argN b 4 4) (argN b 8 2)
      ⟨code, ⟨.coreIndirect x.core x.secure tag (natW (argN b 10 4)) (argN b 14 2), args⟩, none, bad⟩
  else ⟨code, ⟨.core x.core x.secure tag, []⟩, some stBadField, none⟩

/-- The stage core of a caller. -/
def callerCore : Caller → Option Core
  | .host .. => none
  | .core c .. => some c
  | .coreIndirect c .. => some c

def callerSecure : Caller → Bool
  | .host .. => true
  | .core _ w _ => w
  | .coreIndirect _ w .. => w

/-- The party of a caller: one Perup channel or one stage core (R236). -/
def callerParty : Caller → Party
  | .host ch _ => .chan ch
  | .core c .. => .core c
  | .coreIndirect c .. => .core c

/-- The command of a caller that has started. -/
def elvJob (s : State) (p : Party) : Option ElvJob := s.elv.jobs.find? fun j => callerParty j.req.who = p

/-- The next message of the stage cores: the oldest of a core none of whose commands runs (R225, R226). -/
def mailNext (s : State) : Option ElvMail := s.elv.inbox.find? fun x => (elvJob s (.core x.core)).isNone

/-- Whether a stream has work ready: a channel whose oldest request has not been taken up, or the stage cores' queue (4). -/
def streamReady (s : State) (i : Nat) : Bool :=
  if h : i < 4 then
    let ch : Fin 4 := ⟨i, h⟩
    match s.link.chan[ch].reqs with
    | q :: _ => q.user.isNone && (s.elv.frags[ch]).isEmpty && (elvJob s (.chan ch)).isNone && !s.pool.waits.any fun w => w.who = .user ch
    | [] => false
  else (mailNext s).isSome

/-- The stream that is served next: the first with work ready after the one served last (R214). -/
def elvTurn (s : State) : Option Nat := ((List.range 5).map fun i => (s.elv.turn + 1 + i) % 5).find? (streamReady s)

/-- A stream's request is taken up. -/
def tookTurn (s : State) (i : Nat) : State := { s with elv := { s.elv with turn := i } }

def dropMail (s : State) (x : ElvMail) : State := { s with elv := { s.elv with inbox := s.elv.inbox.erase x } }

/-- Whether a request is the one that Elvuk takes up next (R214): the message is taken out, a host's request stays until its reply. The
statuses that its form and its areas give. -/
def elvPick (s : State) (r : Req) (code : Nat) : Option (State × Option Nat × Option Nat) :=
  match r.who with
  | .host ch seq =>
    (match s.link.chan[ch].reqs with
      | q :: _ =>
        if q.seq = seq && decide (q.command.toNat = code) && decide (q.args = r.args) && decide (elvTurn s = some ch.val)
        then some (tookTurn s ch.val, none, none) else none
      | [] => none)
  | _ =>
    match mailNext s with
    | some x =>
      let m := mailReq s x
      if (x.type < 2 || 5 ≤ x.type) && decide (m.code = code) && decide (m.req = r) && decide (elvTurn s = some 4) then
        some (tookTurn (dropMail s x) 4, m.pre, m.area) else none
    | none => none

/-! ### Replies (R210, R225, R226, R232) -/

/-- Elvuk keeps one buffer of class PROMPTER aside for each present core; it takes one when it can have it at once (R232). -/
def elvTop (s : State) (c : Core) : State :=
  if s.elv.spare[c].isSome || !poolCan s.pool 1 || c.val ≥ coreCount s.variant then s
  else
    let p := poolTake s 1 8 false
    { p.1 with elv := { p.1.elv with spare := putV p.1.elv.spare c (some p.2) } }

/-- The buffer for a reply that has none yet: one that is free now, else the core's spare. -/
def elvBuf (s : State) (c : Core) (spare : Bool) : State × Option Word :=
  if !spare && poolCan s.pool 1 then ((poolTake s 1 8 false).1, some (poolTake s 1 8 false).2)
  else ({ s with elv := { s.elv with spare := putV s.elv.spare c none } }, s.elv.spare[c])

/-- The reply to a request. `buf` is the buffer allocated for it; a reply without any buffer is lost (log entry 21). -/
def elvReply (s : State) (r : Req) (code : Nat) (buf : Option Word) (status : Nat) (res : List Byte) : State :=
  let core (c : Core) (tag : BitVec 16) (status : Nat) (tail : List Byte) (s : State) : State :=
    let p := match buf with | some h => (s, some h) | none => elvBuf s c (status = stRefusedPool)
    match p.2 with
    | none => p.1
    | some h => elvSend p.1 (0xA0 + BitVec.ofNat 16 c.val) h (leBytes 2 code ++ leBytes 2 tag.toNat ++ leBytes 2 status ++ tail)
  match r.who with
  | .host ch _ => linkReply s ch status res
  | .core c _ tag => if 54 < res.length then core c tag stBadArg [] s else core c tag status res s
  | .coreIndirect c _ tag a cap =>
    if cap < res.length then core c tag stBadArg (leBytes 2 0) s
    else match if res = [] then none else elvArea s a.toNat res.length (callerSecure r.who) with
      | some bad => core c tag bad (leBytes 2 0) s
      | none => core c tag status (leBytes 2 res.length) (s.fill a.toNat res)

/-! ### One command (R229-R237) -/

/-- How a command ends its execution: replied, with what follows the reply; or waiting for another event, with the results that it will
then reply; or at work on flash operations, with what it notes for its end; or not able to go on yet. -/
inductive ElvEnd where
  | done (s : State) (status : Nat) (res : List Byte) (after : State → State)
  | later (s : State) (stage : ElvStage) (res : List Byte)
  | work (s : State) (ops : List FlashOp) (res : List Byte)
  | stay

/-- A command with its arguments, as R247 and its own rules give it, judged in one state: who may call it (`host` true and `core` 1 for
S, 2 for C), the lifecycle states that permit it (none: the first that are missing), whether it is refused while the Curtain is closed,
the checks 4 to 8 and 10 of R232, the leave that it asks for (by a ticket, or from a core's inrush requester or the crypto engine's), and what it does. For one that
works on flash operations also what its read-back finds, what ends it when they are over or one has failed, how many end in this row (none: all of
them), and the one that fails. -/
structure ElvCmd where
  host   : Bool := true
  chan3  : Bool := false
  core   : Nat := 2
  blank  : Bool := true
  ret    : Bool := true
  closed : Bool := false
  len    : Bool := true
  field  : Bool := true
  range  : Bool := true
  absent : Bool := false
  own    : Option Nat := none
  busy   : Bool := false
  leave  : Option (Nat × BitVec 2 × Option (Fin 41)) := none
  lost   : Option Core := none
  run    : State → ElvEnd
  check  : State → State × Bool := fun s => (s, true)
  fin    : State → Bool → ElvEnd := fun _ _ => .stay
  stop   : Option Nat := none
  fail   : Option FlashFail := none

/-- The caller is one of the command's (R229). -/
def elvCaller (r : Req) (c : ElvCmd) : Bool :=
  match r.who with
  | .host ch _ => c.host && (!c.chan3 || ch = 3)
  | w => c.core = 2 || (c.core = 1 && callerSecure w)

/-- Steps 1 to 10 of R232. -/
def elvCheck (s : State) (r : Req) (area : Option Nat) (c : ElvCmd) : Option Nat :=
  let host := (callerCore r.who).isNone
  if host && !curtainOpen s then some stBooting
  else if !elvCaller r c then some stNotPermitted
  else if area.isSome then area
  else if !c.len then some stBadArg
  else if !c.field then some stBadField
  else if !c.range then some stBadArg
  else if c.absent then some stAbsent
  else if (s.boot.life = 0 && !c.blank) || (s.boot.life = 3 && !c.ret) then some stNotPermitted
  else if c.own.isSome then c.own
  else if !host && !curtainOpen s && c.closed then some stBooting
  else if c.busy then some stBusy
  else none

def dropJob (s : State) (j : ElvJob) : State := { s with elv := { s.elv with jobs := s.elv.jobs.filter fun k => callerParty k.req.who ≠ callerParty j.req.who } }

def putJob (s : State) (j : ElvJob) : State := { dropJob s j with elv := { s.elv with jobs := (dropJob s j).elv.jobs ++ [j] } }

/-- The status of the last command of an install session (R241): of one by the caller that has it. -/
def installNote (s : State) (j : ElvJob) (status : Nat) : State :=
  match s.install.session with
  | some k =>
    if 0x0201 ≤ j.code ∧ j.code ≤ 0x0203 ∧ k.who = callerParty j.req.who then { s with install := { s.install with last := status } } else s
  | none => s

/-- A command ends: its ticket is returned, it replies, with its leave wait when it was delayed (R234, R235). -/
def elvDone (s : State) (j : ElvJob) (status : Nat) (res : List Byte) : State :=
  let s := dropJob s j
  let s := match j.ticket with | some t => ticketRelease s t | none => s
  let p := match j.delayed with
    | some n => if status = stOk then (stDelayed, res ++ leBytes 4 n) else (status, res)
    | none => (status, res)
  cueSettle (elvReply (installNote s j p.1) j.req j.code j.buf p.1 p.2)

/-- What a command's execution comes to. -/
def elvApply (s : State) (j : ElvJob) : ElvEnd → State
  | .done s status res after => after (elvDone s j status res)
  | .later s stage res => putJob s { j with stage := stage, res := res }
  | .work s ops res => putJob s { j with stage := .work ops false, res := res }
  | .stay => putJob s { j with stage := .run }

/-- A command goes on with its flash operations, as many as its row ends; after the last one FLASH goes dark again when it was brought up
for the command (R347). -/
def elvWork (s : State) (j : ElvJob) (c : ElvCmd) (ops : List FlashOp) (dark : Bool) : State :=
  let s := putJob s { j with stage := .run }
  let p := flashRow c.check c.fail 0 (c.stop.getD ops.length) s ops
  match p.2.1 with
  | some rest => putJob p.1 { j with stage := .work rest dark }
  | none =>
    let dim (s : State) : State := if dark then domainDarken s 10 else s
    elvApply p.1 j (match c.fin p.1 p.2.2 with
      | .done s status res after => .done (dim s) status res after
      | e => e)

/-- A command executes with its leave held. FLASH is brought up for one that writes flash (R347). -/
def elvRun (s : State) (j : ElvJob) (c : ElvCmd) : State :=
  match c.run s with
  | .work s ops res =>
    let dark := ops.any (fun op => op.addr.isSome) && !domIsUp s 10
    elvWork (flashBegin (if dark then setDom s 10 true else s) ops) { j with res := res } c ops dark
  | e => elvApply s j e

/-- The requester whose units a command returns at its end: not a core's, which holds them until its domain is up (R355). -/
def jobTicket (r : Fin 41) : Option (Fin 41) := if r.val ≤ 16 then some r else none

/-- Leave is asked for, once (R235, R359): with no ticket free the command waits for one. A core that already comes up for a HELD send, and the
crypto engine that holds its grant, need no second one (R330, R355). -/
def elvLeave (s : State) (j : ElvJob) (c : ElvCmd) : State :=
  match c.leave with
  | none => elvRun s j c
  | some (units, cls, target) =>
    match target with
    | some r =>
      let j := { j with ticket := jobTicket r }
      if lvHolds s r then elvRun s j c
      else if lvWaits s r then putJob s { j with stage := .leave r, ticket := none }
      else
        let p := lvRequest s r units cls
        (match p.2 with
          | .granted => elvRun (onGrant p.1 r) j c
          | .waiting => putJob p.1 { j with stage := .leave r, ticket := none }
          | .refused => elvDone p.1 { j with ticket := none } stRefusedLeave [])
    | none =>
      match ticketFree s with
      | none => putJob s { j with stage := .pool }
      | some t =>
        let p := lvRequest s t units cls
        match p.2 with
        | .granted => elvRun p.1 { j with ticket := some t } c
        | .waiting => putJob p.1 { j with stage := .leave t }
        | .refused => elvDone p.1 j stRefusedLeave []

/-- A command whose checks have passed asks for the buffer of its reply to a core (step 11 of R232), then for its leave. A CORE_RESTART
first waits for CORE_LOST (R506). -/
def elvStart (s : State) (j : ElvJob) (c : ElvCmd) : State :=
  let go (s : State) (j : ElvJob) : State :=
    match c.lost with
    | some n => if s.cores[n].run = .check then putJob s { j with stage := .lost n } else elvLeave s j c
    | none => elvLeave s j c
  match callerCore j.req.who with
  | none => go s j
  | some n =>
    if poolCan s.pool 1 then
      let p := poolTake s 1 8 false
      go p.1 { j with buf := some p.2 }
    else if s.pool.cls[(1 : Fin 16)].waitlim = 0 then elvDone (poolRefused s 1) j stRefusedPool []
    else putJob { s with pool := { s.pool with waits := s.pool.waits ++ [⟨.reply n, 1, s.now⟩] } } j

/-- A command that waited goes on. -/
def elvGoOn (s : State) (j : ElvJob) (c : ElvCmd) : State :=
  match j.stage with
  | .pool => if (callerCore j.req.who).isSome && j.buf.isNone then s
             else (match c.lost with
               | some n => if s.cores[n].run = .check then putJob s { j with stage := .lost n } else elvLeave s j c
               | none => elvLeave s j c)
  | .leave t =>
    if lvHolds s t then
      elvRun s { j with delayed := some s.lv.rwait[t], ticket := jobTicket t } c
    else if lvWaits s t then s
    else elvDone s j stRefusedLeave []
  | .run => elvRun s j c
  | .pulse _ => elvRun s j c
  | .work ops dark => elvWork s j c ops dark
  | .lost n => if s.cores[n].run = .check then s else elvLeave s j c
  | _ => s

/-- One command of Elvuk: the row of its code, with the request that gave it. -/
def elvRow (s : State) (r : Req) (code : Nat) (mk : State → ElvCmd) : State :=
  let s := elvIntake s
  if s.pwr.mode ≠ .run then s
  else
    match elvJob s (callerParty r.who) with
    | some j => if decide (j.code = code) && decide (j.req = r) then cueSettle (elvGoOn s j (mk s)) else s
    | none =>
      if s.pwr.entering.isSome then s
      else match elvPick s r code with
        | none => s
        | some (s, pre, area) =>
          let s := match callerCore r.who with | some c => elvTop s c | none => s
          let j : ElvJob := { req := r, code := code, stage := .pool }
          match pre.or (elvCheck s r area (mk s)) with
          | some st => elvDone s j st []
          | none => cueSettle (elvStart s j (mk s))

/-- The command that waits in a stage ends: the first such job replies. -/
def elvFinish (s : State) (stage : ElvStage) (status : Nat) : State :=
  match s.elv.jobs.find? fun j => j.stage = stage with
  | some j => elvDone s j status (if status = stOk then j.res else [])
  | none => s

/-- An OK reply with results. -/
def elvOk (s : State) (res : List Byte) : ElvEnd := .done s stOk res id

/-- A status alone. -/
def elvSt (s : State) (status : Nat) : ElvEnd := .done s status [] id

/-! ### Codes -/

/-- The codes of the command tables (R240-R246). -/
def elvCodes : List Nat :=
  [0x0001, 0x0002, 0x0003, 0x0004, 0x0005, 0x0101, 0x0102, 0x0103, 0x0104, 0x0105, 0x0106, 0x0107, 0x0108, 0x0201, 0x0202, 0x0203,
   0x0204, 0x0205, 0x0206, 0x0301, 0x0302, 0x0303, 0x0304, 0x0305, 0x0401, 0x0402, 0x0403, 0x0404, 0x0405, 0x0501, 0x0502, 0x0503,
   0x0504, 0x0601, 0x0602, 0x0603, 0x0701, 0x0702, 0x0703, 0x0801, 0x0802, 0x0901, 0x0902, 0x0A01, 0x0A02, 0x0B01, 0x0B02]

/-- A USER command's code. -/
def isUser (code : Nat) : Bool := 0x7F00 ≤ code && code ≤ 0x7FFF

/-- A request whose code is no command (R232): BOOTING before UNKNOWN_COMMAND for the host, and NOT_PERMITTED for a core's USER code. -/
def elvUnknown (s : State) (r : Req) (code : Nat) : State :=
  if elvCodes.contains code || (isUser code && (callerCore r.who).isNone) then s
  else
    let s := elvIntake s
    if s.pwr.mode ≠ .run || s.pwr.entering.isSome || (elvJob s (callerParty r.who)).isSome then s
    else match elvPick s r code with
      | none => s
      | some (s, pre, _) =>
        let s := match callerCore r.who with | some c => elvTop s c | none => s
        let st := if (callerCore r.who).isNone && !curtainOpen s then stBooting else if isUser code then stNotPermitted else stUnknown
        elvDone s { req := r, code := code, stage := .pool } (pre.getD st) []

/-! ### USER commands (R227, R228) -/

/-- The fragments of a USER command: their payloads in order. -/
def userFrags (ch : Fin 4) (seq : BitVec 6) (code : Nat) (args : List Byte) : List (List Byte) :=
  let n := max 1 ((args.length + 53) / 54)
  (List.range n).map fun i =>
    leBytes 2 code ++ [natB ch.val, seq.setWidth 8, natB (i + boolN (decide (i + 1 = n)) 7), 0] ++ (args.drop (54 * i)).take 54

/-- The fragments' buffers go back. -/
def fragsFree (s : State) (ch : Fin 4) : State :=
  let l := s.elv.frags[ch]
  let s := { s with elv := { s.elv with frags := putV s.elv.frags ch [] } }
  poolSettle (l.foldl (fun s h => match poolIndex s.pool h with | some i => poolDrop s i | none => s) s)

/-- Buffers taken one after another until `n` are there or one has to wait; true when a request is refused at once. -/
def fragsTake : Nat → State → Fin 4 → State × Bool
  | 0, s, _ => (s, false)
  | n + 1, s, ch =>
    if poolCan s.pool 1 then
      let p := poolTake s 1 8 false
      fragsTake n { p.1 with elv := { p.1.elv with frags := updV p.1.elv.frags ch fun l => l ++ [p.2] } } ch
    else if s.pool.cls[(1 : Fin 16)].waitlim = 0 then (poolRefused s 1, true)
    else ({ s with pool := { s.pool with waits := s.pool.waits ++ [⟨.user ch, 1, s.now⟩] } }, false)

/-- Whether queue 0x0090 + c takes `n` more messages and its consumer is not dark with WAKE = 0 (R227). -/
def userFits (s : State) (ch : Fin 4) (n : Nat) : Bool :=
  let x := queueOf s (0x90 + BitVec.ofNat 16 ch.val)
  (match limitOf x.limit with | some l => decide (x.msgs.length + n ≤ l) | none => true) && !(consumerDark s x && !x.wake)

/-- Every fragment is committed in index order. -/
def userCommit (s : State) (ch : Fin 4) (bodies : List (List Byte)) : State :=
  let l := s.elv.frags[ch]
  let s := { s with elv := { s.elv with frags := putV s.elv.frags ch [] } }
  let s := (l.zip bodies).foldl (fun s p => elvSend s (0x90 + BitVec.ofNat 16 ch.val) p.1 p.2) s
  updChan s ch fun k => match k.reqs with
    | q :: r => { k with reqs := { q with user := some s.now } :: r }
    | [] => k

/-- The host's USER command on a channel, the head of its requests (R222, R227). -/
def userForward (s : State) (r : Req) (code : Nat) : State :=
  match r.who with
  | .host ch seq =>
    (match s.link.chan[ch].reqs with
      | q :: _ =>
        let waits := s.pool.waits.any fun w => w.who = .user ch
        let starts := (s.elv.frags[ch]).isEmpty && !waits
        if !(isUser code && q.seq = seq && decide (q.command.toNat = code) && decide (q.args = r.args) && q.user.isNone) then s
        else if waits || (starts && decide (elvTurn s ≠ some ch.val)) then s
        else
          let s := if starts then tookTurn s ch.val else s
          if !curtainOpen s then linkReply s ch stBooting []
          else
          let bodies := userFrags ch seq code q.args
          let p := fragsTake (bodies.length - (s.elv.frags[ch]).length) s ch
          if p.2 then linkReply (fragsFree p.1 ch) ch stRefusedPool []
          else if (p.1.elv.frags[ch]).length < bodies.length then p.1
          else if userFits p.1 ch bodies.length then cueSettle (userCommit p.1 ch bodies)
          else linkReply (fragsFree p.1 ch) ch stBusy []
      | [] => s)
  | _ => s

/-- Firmware's answer reaches the host, or is stray (R228). Elvuk discards it while the Curtain is closed (R265). -/
def userAnswer (s : State) (ch seq status : Nat) (res : List Byte) : State :=
  if !curtainOpen s then s
  else
    let stray := updLink s fun k => { k with errStray := k.errStray + 1 }
    if h : ch < 4 then
      match s.link.chan[(⟨ch, h⟩ : Fin 4)].reqs with
      | q :: _ => if q.user.isSome && decide (q.seq.toNat = seq) then linkReply s ⟨ch, h⟩ status res else stray
      | [] => stray
    else stray

/-- The message that Elvuk takes up next, when it has a TYPE (R214, R226). -/
def mailOfType (s : State) (t : Nat) : Option ElvMail :=
  (mailNext s).filter fun x => decide (x.type = t) && decide (elvTurn s = some 4)

/-- A message of firmware to the host is handled. -/
def userMail (s : State) (t : Nat) (f : State → ElvMail → State) : State :=
  let s := elvIntake s
  if s.pwr.mode ≠ .run || s.pwr.entering.isSome then s
  else match mailOfType s t with
    | some x => f (tookTurn (dropMail s x) 4) x
    | none => s

/-- USER_REPLY. One too short to hold its fields is discarded. -/
def userReplyMail (s : State) (x : ElvMail) : State :=
  let b := x.body
  if b.length < 6 then s else userAnswer s (argN b 2 1) (argN b 3 1) (argN b 4 2) (b.drop 6)

/-- USER_REPLY_INDIRECT. One whose area cannot be read is discarded. -/
def userReplyIndirectMail (s : State) (x : ElvMail) : State :=
  let b := x.body
  if b.length < 12 ∨ 1022 < argN b 10 2 then s
  else if (elvArea s (argN b 6 4) (argN b 10 2) x.secure).isSome then s
  else userAnswer s (argN b 2 1) (argN b 3 1) (argN b 4 2) (memBytes s.mem (argN b 6 4) (argN b 10 2))

/-- USER_EVENT. -/
def userEventMail (s : State) (x : ElvMail) : State := if curtainOpen s then linkEvent s 0x8004 x.body else s

/-- A fragment of a channel's USER command still waits at the Cue engine (R167, R500). -/
def userHeld (s : State) (ch : Fin 4) : Bool :=
  s.cue.held.any fun x => match x with | .elvuk q _ => q = 0x90 + BitVec.ofNat 16 ch.val | _ => false

/-- No answer within USERTO of the last fragment's commit (R228). -/
def userLate (s : State) (ch : Fin 4) (seq : BitVec 6) : State :=
  match s.link.chan[ch].reqs with
  | q :: _ =>
    (match q.user with
      | some t =>
        if q.seq = seq ∧ t + s.link.userto * 24000 ≤ s.now ∧ !userHeld s ch then
          updLink (linkReply s ch stFailed []) fun k => { k with evt := k.evt.raise 2 }
        else s
      | none => s)
  | [] => s

/-! ### The ends of waits for a buffer or for leave -/

/-- A pool request that has waited for its class's limit is refused (R192, R194, R197, R227, R232). -/
def poolWaitEnd (s : State) (w : PoolWait) : State :=
  let t := poolLimit s w
  match w.who with
  | .reply c =>
    (match t.elv.jobs.find? fun j => decide (callerCore j.req.who = some c) && decide (j.stage = .pool) && j.buf.isNone with
      | some j => elvDone t j stRefusedPool []
      | none => t)
  | .user ch => linkReply (fragsFree t ch) ch stRefusedPool []
  | _ => t

/-- The erase of a copy area is tried again a millisecond after its leave was refused (R281, log entry 57). -/
def cleanRefused (s : State) (r : Fin 41) : State :=
  if s.elv.clean = some r then { s with elv := { s.elv with clean := none, cleanAt := s.now + 24000 } } else s

/-- A copy area that went out of use full is erased once FLASH is free, with 40 units of class BULK (R281). FLASH is up for it. -/
def recClean (s : State) : State :=
  match recFull s with
  | none =>
    (match s.elv.clean with
    | some t => leaveRelease (lvWithdraw { s with elv := { s.elv with clean := none } } t) t
    | none => s)
  | some copy =>
    if flashUsed s || !domIsUp s 10 || s.pwr.mode ≠ .run || s.pwr.entering.isSome || s.now < s.elv.cleanAt || s.boot.stage ≠ .done then s
    else
      let go (s : State) : State := flashStart { s with flc := { s.flc with busy := some (.erase (recAddr copy 0)) } }
      match s.elv.clean with
      | some t => if lvHolds s t then go s else s
      | none =>
        match ticketFree s with
        | none => s
        | some t =>
          let p := lvRequest s t 40 3
          let asked : State := { p.1 with elv := { p.1.elv with clean := some t } }
          match p.2 with
          | .granted => go asked
          | .waiting => asked
          | .refused => cleanRefused asked t

/-- The refused inrush of a core that a HELD send needs is asked for again later (R355). -/
def heldAgain (s : State) (r : Fin 41) : State :=
  if h : 33 ≤ r.val then
    let code : Fin 32 := ⟨r.val - 31, by omega⟩
    if s.pwr.heldUp.contains code then
      heldRefused { s with pwr := { s.pwr with heldUp := s.pwr.heldUp.filter (· ≠ code) } } ⟨r.val - 33, by omega⟩
    else s
  else s

/-- A waiting leave request reaches the end of its wait (R356): its requester is refused. A core that a HELD send asked for is asked for
again later, but one that a command alone switches on stays off (R355). -/
def leaveWaitEnd (s : State) (r : Fin 41) : State :=
  match s.lv.waiting.find? fun w => w.r = r with
  | none => s
  | some w =>
    let lim := s.lv.waitlim[w.cls.toFin]
    if s.now < w.arrival + lim then s
    else
      let s := lvRefuse (lvWithdraw s r) r w.cls (s.now - w.arrival)
      let s := onRefused s r
      let s := cleanRefused s r
      match s.elv.jobs.find? fun j => j.stage = .leave r with
      | some j => elvDone (heldAgain s r) j stRefusedLeave []
      | none => if r.val ≤ 16 then tapPoll s else heldAgain s r

end Sys2Proof.Machine
end

