-- ==== Sys2Proof/Machine/ElvukCmds.lean ====
section
/-!
DEFINITION. Elvuk's system, power, authorisation, OTP, viewer, lane, watchdog, key and core commands (12, R240, R244-R247; 15-21, 24).
-/

namespace Sys2Proof.Machine

/-- One byte of the arguments. -/
def arg1 (r : Req) (i : Nat) : Nat := argN r.args i 1
def arg2 (r : Req) (i : Nat) : Nat := argN r.args i 2
def arg4 (r : Req) (i : Nat) : Nat := argN r.args i 4

/-- Whether arguments `lo` to `hi - 1` are 0. -/
def argZero (r : Req) (lo hi : Nat) : Bool := ((r.args.take hi).drop lo).all (· = 0)

/-- A command that needs nothing but its caller and the length of its arguments. -/
def plainCmd (r : Req) (n : Nat) (run : State → ElvEnd) : ElvCmd := { len := decide (r.args.length = n), run := run }

/-! ### System (R240) -/

def cmdPing (r : Req) : ElvCmd := { len := decide (r.args.length ≤ 56), run := fun s => elvOk s r.args }

def infoBytes (s : State) : List Byte :=
  leBytes 4 0x4E420B24 ++ leBytes 4 0x00000010 ++ [Config.elvukVersion 0, Config.elvukVersion 1, Config.elvukVersion 2, 0] ++
    [natB s.boot.life.toNat, natB s.dbg.level.toNat, natB (boolN (s.pwr.mode = .nap) 0), natB (boolN (curtainOpen s) 0),
     match s.boot.slot with | some b => natB (boolN b 0) | none => 0xFF, 0, 0, 0] ++ leBytes 4 s.boot.version.toNat

def cmdGetInfo (r : Req) : ElvCmd := plainCmd r 0 fun s => elvOk s (infoBytes s)

def featBytes (s : State) : List Byte :=
  leBytes 4 (sysFeat0 s.variant).toNat ++ leBytes 4 (sysFeat1 s.variant).toNat ++ leBytes 4 (sysMasters s.variant).toNat ++
    leBytes 4 (boolN (!hasCry s.variant) 0)

def cmdGetFeatures (r : Req) : ElvCmd := plainCmd r 0 fun s => elvOk s (featBytes s)

/-- The watchdog reset count (R377). -/
def wdCountBytes (s : State) : List Byte := memBytes s.mem 0x1C000000 2

def cmdGetResetHistory (r : Req) : ElvCmd :=
  { plainCmd r 2 fun s => elvOk s (wdCountBytes s ++ memBytes s.mem (0x1C000010 + 8 * arg1 r 0) (8 * arg1 r 1)) with
    range := decide (arg1 r 0 ≤ 7) && decide (1 ≤ arg1 r 1) && decide (arg1 r 0 + arg1 r 1 ≤ 8) }

/-- GET_BOOT_STATUS: the boot-attempt state with the record in use (R240, R275). -/
def bootStatusBytes (s : State) : List Byte :=
  let g (i : Nat) : Byte := s.byte (0x1C000050 + i)
  let rec_ := recInUse s
  let sets : Byte := if runsTrial s then (match rec_ with | some b => if b.setmode = 1 then 2 else 1 | none => 0) else 0
  [g 0, natB (boolN (!runsTrial s) 0), (rec_.map (·.attempts)).getD 0, g 1, g 2, sets, 0, 0] ++ memBytes s.mem 0x1C000058 4

/-- FLASH, while it is dark, is brought up for a command that only reads it, and returned dark (R347). -/
def touchFlash (s : State) : State := if domIsUp s 10 then s else domainDarken (setDom s 10 true) 10

def cmdGetBootStatus (r : Req) : ElvCmd := plainCmd r 0 fun s => elvOk (touchFlash s) (bootStatusBytes s)

/-! ### Power and leave (R240, R340, R347-R349, R351, R353, R354, R361) -/

/-- The device goes to NAP once the reply has been sent (R349 order 1). -/
def napOrder (w : Caller) (s : State) : State :=
  { s with pwr := { s.pwr with entering := some .nap }, elv := { s.elv with nap := some ⟨w, s.now⟩ } }

def standbyOrder (w : Caller) (s : State) : State := { s with elv := { s.elv with standby := some ⟨w, s.now⟩ } }

def cmdPowerSetState (r : Req) : ElvCmd :=
  { core := 1
    closed := decide (arg1 r 0 = 2)
    len := decide (r.args.length = 2)
    field := decide (arg1 r 0 ≤ 2) && decide (arg1 r 1 = 0)
    run := fun s =>
      if arg1 r 0 = 1 then .done s stOk [] (napOrder r.who)
      else if arg1 r 0 = 2 then (if s.pwr.wakeMask = 0 then elvSt s stBadArg else .done s stOk [] (standbyOrder r.who))
      else elvOk s [] }

def powerBytes (s : State) : List Byte :=
  [natB (boolN (s.pwr.mode = .nap) 0), 0] ++ leBytes 2 s.pwr.setPoint.toNat ++ leBytes 4 (domWord s).toNat ++
    leBytes 4 (sramWord s).toNat ++ leBytes 4 s.pwr.wakeMask.toNat

def cmdPowerGetState (r : Req) : ElvCmd := plainCmd r 0 fun s => elvOk s (powerBytes s)

def cmdPowerSetWake (r : Req) : ElvCmd :=
  { core := 1
    len := decide (r.args.length = 8)
    field := decide (arg4 r 0 < 128)
    run := fun s =>
      let secs := arg4 r 4
      let s := { s with pwr := { s.pwr with wakeMask := natW (arg4 r 0) } }
      let s := alarmSet s (if secs = 0 then 0 else natW (s.time.rtc / 32768 + secs))
      elvOk s (leBytes 4 (arg4 r 0)) }

/-- The settling time of a change of the set point in µs (R361). -/
def vsetTime (s : State) (mv : Nat) : Nat :=
  let old := if s.pwr.setPoint = 0 then max 900 Config.boardMv else s.pwr.setPoint.toNat
  20 + ((max mv old - min mv old) * otpHalf s 0x4C true 50 + 99) / 100

/-- Whether an OTP operation runs (R338, R361). -/
def otpRuns (s : State) : Bool := s.otp.busy.isSome || s.elv.jobs.any fun j => [0x0402, 0x0403, 0x0404, 0x0405].contains j.code

def cmdPowerSetPoint (r : Req) (nack : Bool) (s : State) : ElvCmd :=
  let mv := arg2 r 0
  { core := 1
    len := decide (r.args.length = 2)
    range := decide (otpHalf s 0x49 false 620 ≤ mv) && decide (mv ≤ otpHalf s 0x49 true 1100) && decide (620 ≤ mv)
    run := fun s =>
      if mv < 900 && otpRuns s then .stay
      else if vsetI2c s && nack then elvSt { s with pwr := { s.pwr with evt := s.pwr.evt.raise 2 } } stFailed
      else .later (vsetDrive s mv) .vset (leBytes 2 (vsetLevel s (vsetCode s mv)) ++ leBytes 2 (vsetTime s mv)) }

def cmdLeaveSetBudget (r : Req) : ElvCmd :=
  { core := 1
    len := decide (r.args.length = 2)
    range := decide (40 ≤ arg2 r 0) && decide (arg2 r 0 ≤ 400)
    run := fun s => elvOk (lvSetBudget s (arg2 r 0)) (leBytes 2 s.lv.budget) }

def leaveBytes (l : Leave) : List Byte :=
  leBytes 2 l.budget ++ leBytes 2 (lvGranted l) ++ leBytes 2 l.peak ++
    (List.finRange 4).flatMap fun c => leBytes 4 l.grants[c].toNat ++ leBytes 4 l.delays[c].toNat ++ leBytes 4 l.refusals[c].toNat

/-- The statistics after a clearing read: the peak starts again at what is granted. -/
def leaveClear (l : Leave) : Leave :=
  { l with peak := lvGranted l, grants := Vector.replicate 4 0, delays := Vector.replicate 4 0, refusals := Vector.replicate 4 0 }

def cmdLeaveGetStats (r : Req) : ElvCmd :=
  { plainCmd r 1 fun s => elvOk (if arg1 r 0 = 1 then { s with lv := leaveClear s.lv } else s) (leaveBytes s.lv) with
    field := decide (arg1 r 0 ≤ 1) }

/-- Whether a command is already taking a domain down. -/
def cutAsked (s : State) (code : Fin 32) : Bool := s.pwr.drain.getLsbD code.val || s.elv.jobs.any fun j => j.stage = .cut code

/-- Whether a domain is up and stays so. -/
def domStays (s : State) (code : Fin 32) : Bool := domIsUp s code && !cutAsked s code

/-- Whether a domain is dark, or for a bank not ON, and stays so. -/
def domRests (s : State) (code : Fin 32) : Bool :=
  !domIsUp s code && !s.pwr.coming.contains code &&
    (match domCore code with | some c => !lvWaits s (rCore c) && !lvHolds s (rCore c) | none => true)

/-- A domain is to go dark: its drain begins, once it is up (R344). The caller's own core gets its reply first (R348), and FLASH in use
answers at once (R347). -/
def goDark (s : State) (r : Req) (code : Fin 32) : ElvEnd :=
  let start (s : State) : State := if domIsUp s code then drainStart s code else s
  let own : Bool := match domCore code with | some c => decide (callerCore r.who = some c) | none => false
  if own then .done s stOk [] start
  else if code.val = 10 && flashUsed s then elvOk (start s) []
  else .later (start s) (.cut code) []

/-- A domain comes up (R346). -/
def goUp (s : State) (code : Fin 32) : ElvEnd :=
  .later { s with pwr := { s.pwr with coming := if s.pwr.coming.contains code then s.pwr.coming else s.pwr.coming ++ [code] } } (.up code) []

/-- CORE_POWER on and off, and DOMAIN_DARK of a core (R240, R347, R355). -/
def corePowerCmd (s : State) (r : Req) (c : Core) (on : Bool) : ElvCmd :=
  let code := coreDom c
  { core := 1
    blank := false
    absent := decide (coreCount s.variant ≤ c.val)
    own := if coreLost s c then some stNotPermitted else none
    leave := if on && !domStays s code then some (35, 1, some (rCore c)) else none
    run := fun s =>
      if on then (if domStays s code then elvOk s [] else goUp s code)
      else if domRests s code then elvOk s []
      else goDark s r code }

def cmdCorePower (r : Req) (s : State) : ElvCmd :=
  let n := arg1 r 0
  let base : ElvCmd := if h : n < 8 then corePowerCmd s r ⟨n, h⟩ (arg1 r 1 = 1) else { core := 1, range := false, blank := false, run := fun s => elvOk s [] }
  { base with len := decide (r.args.length = 2), field := decide (arg1 r 1 ≤ 1) }

/-- A bank told RETAIN or OFF, or ON (R341). -/
def bankGo (s : State) (r : Req) (b : Fin 16) (code : Fin 32) (v : Nat) : ElvEnd :=
  let st := s.pwr.sram[b]
  let coming := s.pwr.coming.contains code
  if v = 2 then (if domStays s code then elvOk s [] else goUp s code)
  else if st = 2 || coming then
    (if s.pwr.drain.getLsbD code.val && decide (v = 1) = s.pwr.toRetain.contains b then .later s (.cut code) []
     else goDark { s with pwr := { s.pwr with toRetain := if v = 1 then b :: s.pwr.toRetain.erase b else s.pwr.toRetain.erase b } } r code)
  else if v = 0 && st = 1 then elvOk (domainDarken s code) []
  else elvOk s []

/-- DOMAIN_DARK (R240, R340, R347). -/
def cmdDomainDark (r : Req) (s : State) : ElvCmd :=
  let n := arg1 r 0
  let v := arg1 r 1
  let base : ElvCmd :=
    if h : n < 32 then
      let code : Fin 32 := ⟨n, h⟩
      match domCore code, domBank code with
      | some c, _ => { corePowerCmd s r c (v = 2) with range := decide (v ≠ 1) }
      | _, some b =>
        { core := 1, blank := false, absent := !domPresent s.variant code
          own := if v ≠ 2 && bankPinned s b then some stNotPermitted else none
          run := fun s => bankGo s r b code v }
      | _, _ =>
        { core := 1, blank := false, absent := !domPresent s.variant code
          range := decide (n < 14) && decide (v ≠ 1)
          own := if n < 2 then some stNotPermitted else none
          run := fun s =>
            if v = 2 then (if domStays s code then elvOk s [] else goUp s code)
            else if domRests s code then elvOk s [] else goDark s r code }
    else { core := 1, blank := false, range := false, run := fun s => elvOk s [] }
  { base with len := decide (r.args.length = 2), field := decide (v ≤ 2) }

/-! ### OTP (R244, R245, R298, R316, R332-R339) -/

/-- A word as OTP_READ gives it, none when it is uncorrectable: words 0x000-0x0FF as they read at order 2 of R253, unless they have been
programmed since (R339). -/
def otpWordRead (s : State) (w : Nat) : Option Word :=
  if w < 0x100 && !s.otp.fresh.contains w then (if s.otp.badWords.contains w then none else some (otpVal s w))
  else match otpDecode (otpWordOf s.otp w).normal with
    | .bad => none
    | .clean d => some d
    | .fixed d => some d

/-- The words of a range. -/
def otpReadAll (s : State) (w n : Nat) : Option (List Byte) :=
  (List.range n).foldl (fun acc i =>
    match acc, otpWordRead s (w + i) with
    | some l, some d => some (l ++ leBytes 4 d.toNat)
    | _, _ => none) (some [])

/-- A command of Elvuk gives pulses (R339). -/
def otpPulsing (s : State) : Bool := s.elv.jobs.any fun j => match j.stage with | .pulse _ => true | _ => false

def cmdOtpRead (r : Req) : ElvCmd :=
  let w := arg2 r 0
  let n := arg2 r 2
  { core := 1
    len := decide (r.args.length = 4)
    range := decide (1 ≤ n) && decide (n ≤ 255) && decide (w + n ≤ 1024)
    own := if w < 0x18 && 0x10 < w + n then some stLocked else none
    run := fun s => if s.otp.busy.isSome || otpPulsing s then .stay else match otpReadAll s w n with | some l => elvOk s l | none => elvSt s stFailed }

/-- Whether a word may be programmed in a lifecycle state (R245): 0 BLANK, 1 DEVELOP, 2 FIELD, 3 RETURN. -/
def otpMay (life : BitVec 2) (w : Nat) : Bool :=
  let l := life.toNat
  if w ≤ 0x003 then false
  else if w ≤ 0x00B then l ≤ 1
  else if w ≤ 0x00F then false
  else if w ≤ 0x017 then l = 0
  else if w ≤ 0x01F then l ≤ 1
  else if w ≤ 0x027 then l ≤ 2
  else if w ≤ 0x04D then l ≤ 1
  else if w ≤ 0x05F then false
  else if w ≤ 0x0FF then l = 0
  else if w ≤ 0x1FF then false
  else l = 1 || l = 2

/-- The OTP resource is held (R236). -/
def otpHeld (s : State) : Bool := otpRuns s

/-- What a PROGRAM or a REINFORCE of Elvuk leaves: the word, and the reading of it afterwards (R339). -/
def otpStore (s : State) (y : OtpWord) : State :=
  let t := otpPut s y
  { t with otp := { t.otp with fresh := y.w :: t.otp.fresh.filter (· ≠ y.w) } }

/-- The reply of an operation that ended with a word: PASS, MARGINAL, FAIL, WORD_USED. -/
def otpReply (s : State) (y : OtpWord) (code tries : Nat) : ElvEnd :=
  if code = 3 then elvSt s stWordUsed
  else
    let s := otpStore s y
    if code = 0 then elvOk s [0, natB tries]
    else if code = 2 then .done s stMarginal [1, natB tries] id
    else .done s stFailed [2, natB tries] id

/-- The pulses that a command has given in earlier rows. -/
def otpMade (s : State) (r : Req) : Nat :=
  match elvJob s (callerParty r.who) with
  | some j => (match j.stage with | .pulse n => n | _ => 0)
  | none => 0

/-- A command goes on with the pulses of its row (R334, R335), unless its first reading bars them: it ends when the verify ends it, and else
waits for its next row. Pulses that are no possible outcome change nothing. -/
def otpGo (s : State) (r : Req) (w : Nat) (bar : OtpWord → Option Nat) (tries : Nat → OtpWord → Option (OtpWord × Nat × Option Nat))
    (reply : State → OtpWord → Nat → Nat → ElvEnd) : ElvEnd :=
  let x := otpWordOf s.otp w
  let made := otpMade s r
  match if made = 0 then bar x else none with
  | some code => reply s x code 0
  | none =>
    match tries made x with
    | some (y, k, some code) => reply s y code k
    | some (y, k, none) => .later (if k = made then s else otpPut s y) (.pulse k) []
    | none => .later s (.pulse made) []

/-- Why a PROGRAM gives no pulse (R334): 3 for a word that is not blank. -/
def progBarred (x : OtpWord) : Option Nat := if x.normal ≠ 0 then some 3 else none

/-- Step 8 for a command that gives pulses: the word's range and lifecycle, and VDDC (R245, R338). -/
def otpOwn (s : State) (may : Bool) : Option Nat := if !may || vddLow s then some stNotPermitted else none

def cmdOtpProgram (r : Req) (pulses : List Pulse) (s : State) : ElvCmd :=
  let w := arg2 r 0
  { core := 1
    closed := true
    len := decide (r.args.length = 6)
    range := decide (w < 1024) && decide (arg4 r 2 ≠ 0)
    own := otpOwn s (otpMay s.boot.life w)
    busy := otpHeld s
    leave := some (30, 1, none)
    run := fun s => otpGo s r w progBarred (fun k x => progTries (natW (arg4 r 2)) k x pulses) otpReply }

def cmdOtpReinforce (r : Req) (pulses : List Pulse) (s : State) : ElvCmd :=
  let w := arg2 r 0
  { core := 1
    closed := true
    len := decide (r.args.length = 2)
    range := decide (w < 1024) && decide ((otpWordOf s.otp w).normal ≠ 0)
    own := otpOwn s (otpMay s.boot.life w)
    busy := otpHeld s
    leave := some (30, 1, none)
    run := fun s => otpGo s r w reinBarred (fun k x => reinTries k x pulses) otpReply }

/-- The weak words of a range: what OTP_SCAN reports (R336). -/
def otpWeak (s : State) (w n : Nat) : List Nat := ((List.range n).map (w + ·)).filter fun i => 2 ≤ otpClass (otpWordOf s.otp i)

/-- OTP_SCAN reads its words, and then reports the weak ones, each with a record (R336). -/
def cmdOtpScan (r : Req) (stop : Option Nat) (s : State) : ElvCmd :=
  let w := arg2 r 0
  let n := arg2 r 2
  { core := 1
    len := decide (r.args.length = 4)
    range := decide (1 ≤ n) && decide (n ≤ 1024) && decide (w + n ≤ 1024)
    busy := otpHeld s
    stop := stop
    run := fun s => .work s [.check] []
    fin := fun s _ =>
      let l := otpWeak s w n
      elvOk (l.foldl (fun s i => otpWeakRec s i (otpClass (otpWordOf s.otp i))) s) (leBytes 2 l.length ++ (l.take 16).flatMap (leBytes 2)) }

/-! LIFECYCLE_ADVANCE asks whether a slot is bootable, so it is in ElvukStore.lean. -/

/-! ### Authorisation (R244, R305-R309) -/

def cmdAuthChallenge (r : Req) (nonce : List Byte) (s : State) : ElvCmd :=
  { chan3 := true, core := 0
    len := decide (r.args.length = 1)
    field := decide (arg1 r 0 = 1) || decide (arg1 r 0 = 2)
    own := challengeOwn s
    run := fun s => match challengeOwn s with
      | some st => elvSt s st
      | none => if nonceReady s then elvOk (challengeIssue s false (arg1 r 0) nonce) nonce else .stay }

def cmdAuthResponse (r : Req) (stop : Option Nat) (s : State) : ElvCmd :=
  { chan3 := true, core := 0
    len := decide (r.args.length = 128)
    own := responseOwn s false
    busy := authHeld s
    leave := if hasCry s.variant then some (15, 1, some 16) else none
    stop := stop
    run := fun s => .work s [.check] []
    fin := fun s _ =>
      let p := responseVerify s false r.args
      .done p.1 p.2.1 p.2.2 id }

def cmdAuthDrop (r : Req) : ElvCmd := { plainCmd r 0 fun s => elvOk (authDrop s) [] with chan3 := true, core := 0 }
def cmdAuthStatus (r : Req) : ElvCmd := { plainCmd r 0 fun s => elvOk s (authStatus s) with chan3 := true, core := 0 }

/-! ### CEC (R246, R431, R436-R440) -/

/-- CEC_TX is held: by a transmission, and by a CEC command that has started (R236). -/
def cecBusy (s : State) : Bool := s.cec.tx.isSome || s.cec.poll.isSome || s.elv.jobs.any fun j => j.code = 0x0601 || j.code = 0x0602

def cmdCecConfig (r : Req) (s : State) : ElvCmd :=
  let mask := arg2 r 0
  { blank := false
    closed := true
    len := decide (r.args.length = 6)
    field := decide (mask < 32768) && decide (arg1 r 5 = 0)
    busy := cecBusy s
    run := fun s =>
      let c := { s.cec with en := true, mask := 0, phys := natW (arg1 r 4 * 65536 + arg2 r 2) }
      match (List.range 15).filter fun i => Nat.testBit mask i with
      | [] => elvOk { s with cec := c } [0, 0]
      | l => .later { s with cec := { c with poll := some (l, 0) } } .cecPoll [] }

def cmdCecSend (r : Req) (s : State) : ElvCmd :=
  { blank := false
    closed := true
    len := decide (2 ≤ r.args.length) && decide (r.args.length ≤ 17)
    range := decide (arg1 r 0 ≤ 15) && decide (arg1 r 1 < 15) && s.cec.mask.getLsbD (arg1 r 1)
    busy := cecBusy s
    run := fun s =>
      .later { s with cec := { s.cec with tx := some { blocks := natB (arg1 r 1 * 16 + arg1 r 0) :: r.args.drop 2 } } } .cecSend [] }

/-- The command that waits in a stage replies with results (R438, R439). -/
def elvFinishWith (s : State) (stage : ElvStage) (status : Nat) (res : List Byte) : State :=
  match s.elv.jobs.find? fun j => j.stage = stage with
  | some j => elvDone s j status res
  | none => s

def CecOutcome.code : CecOutcome → Nat
  | .ack => 0 | .nack => 1 | .arbLost => 2 | .lineErr => 3

/-- One attempt of the frame being sent (R437, R438). -/
def cecAttempted (s : State) (o : CecOutcome) : State :=
  match s.cec.tx with
  | none => s
  | some t =>
    let n := t.attempts + 1
    let broadcast : Bool := (t.blocks.headD 0).toNat % 16 = 15
    let evt := if o = .arbLost then s.cec.evt.raise 2 else if o = .lineErr then s.cec.evt.raise 3 else s.cec.evt
    let fin (st : Nat) : State :=
      elvFinishWith { s with cec := { s.cec with tx := none, evt := evt } } .cecSend st [natB (CecOutcome.code o), natB n]
    if o = .ack || (broadcast && o = .nack) then fin stOk
    else if 5 ≤ n then fin (if broadcast && o = .arbLost then stOk else stFailed)
    else { s with cec := { s.cec with tx := some { t with attempts := n }, evt := evt } }

/-- One poll of a logical address (R439). -/
def cecPolled (s : State) (acked : Bool) : State :=
  match s.cec.poll with
  | some (a :: rest, n) =>
    let fin (mask : Nat) : State :=
      elvFinishWith { s with cec := { s.cec with poll := none, mask := BitVec.ofNat 15 mask } } .cecPoll stOk (leBytes 2 mask)
    if acked then (if rest.isEmpty then fin 0 else { s with cec := { s.cec with poll := some (rest, 0) } })
    else if n = 0 then { s with cec := { s.cec with poll := some (a :: rest, 1) } }
    else fin (2 ^ a)
  | _ => s

/-- Words of four bytes, the rest 0. -/
def packWords (n : Nat) (bs : List Byte) : Vector Word n := Vector.ofFn fun i => natW (argN bs (4 * i.val) 4)

def cmdCecStandbyFilter (r : Req) : ElvCmd :=
  { blank := false
    len := decide (r.args.length = 1 + arg1 r 0)
    range := decide (arg1 r 0 ≤ 16)
    run := fun s => elvOk { s with cec := { s.cec with fcount := arg1 r 0, fopc := packWords 4 (r.args.drop 1) } } [] }

/-! ### IR and keypad (R442, R449, R452) -/

/-- The reserved fields of IR_CONFIG bytes 2 to 15 are as they must be (R442). -/
def irField (r : Req) : Bool :=
  match arg1 r 1 with
  | 1 => decide (arg1 r 11 ≤ 1) && decide (arg1 r 12 ≤ 3) && argZero r 14 16
  | 2 => decide (arg1 r 7 ≤ 1) && argZero r 9 16
  | 3 => argZero r 3 16
  | _ => argZero r 2 16

def within (lo hi n : Nat) : Bool := decide (lo ≤ n) && decide (n ≤ hi)

/-- The values of IR_CONFIG bytes 2 to 15 are in range (R442). -/
def irRange (r : Req) : Bool :=
  match arg1 r 1 with
  | 1 => within 1000 20000 (arg2 r 2) && within 1000 20000 (arg2 r 4) && within 200 2000 (arg2 r 6) && within 2 4 (arg1 r 8) &&
      decide (arg1 r 9 = 32) && within 5 40 (arg1 r 10) && within 2 100 (arg1 r 13)
  | 2 => within 300 2000 (arg2 r 2) && within 8 32 (arg1 r 4) && within 1 2 (arg1 r 5) && within 5 40 (arg1 r 6) && within 2 100 (arg1 r 8)
  | 3 => within 2 100 (arg1 r 2)
  | _ => true

def cmdIrConfig (r : Req) : ElvCmd :=
  { blank := false
    len := decide (r.args.length = 16)
    field := decide (arg1 r 1 ≤ 3) && irField r
    range := decide (arg1 r 0 ≤ 1) && irRange r
    run := fun s =>
      let i : Fin 2 := Fin.ofNat 2 (arg1 r 0)
      elvOk (updIr s i fun k => { k with dec := BitVec.ofNat 3 (arg1 r 1), param := packWords 4 (r.args.drop 2) }) [] }

/-- The keypad with the thresholds of KEYPAD_CONFIG. -/
def kpdWith (r : Req) (k : Kpd) : Kpd :=
  { k with en := true, ain := BitVec.ofNat 5 (arg1 r 0), th := Vector.ofFn fun j : Fin 14 => BitVec.ofNat 16 (arg2 r (2 + 2 * j.val)) }

/-- The conditions of R449 on the thresholds. -/
def kpdRange (s : State) (r : Req) : Bool :=
  let k := kpdWith r s.kpd
  let t := kpdTh k
  let loads := (kpdCands fun i => t (4 + i)).map (·.2)
  let apart (a b : Nat) : Bool := decide (2 * t 3 + 1 ≤ max a b - min a b)
  decide (arg1 r 0 < 4 * adcCount s.variant) && decide (t 1 < t 2) && decide (t 2 < t 0) && decide (t 0 ≤ 4095) && decide (t 3 ≠ 0) &&
    within 500 20000 (t 10) && within 1 16 (t 11) && within 20 2000 (t 13) &&
    decide (loads.Pairwise fun a b => apart a b = true) && loads.all fun n => decide (kpdLoad k (t 1) + t 3 < n)

def cmdKeypadConfig (r : Req) (s : State) : ElvCmd :=
  { blank := false
    len := decide (r.args.length = 30)
    field := decide (arg1 r 1 = 0)
    range := kpdRange s r
    run := fun s => elvOk { s with kpd := kpdWith r s.kpd } [] }

def cmdWakeKeys (r : Req) : ElvCmd :=
  { blank := false
    len := decide (r.args.length = 4 + 4 * arg1 r 0)
    field := decide (arg1 r 1 < 64) && argZero r 2 4
    range := decide (arg1 r 0 ≤ 8)
    run := fun s =>
      elvOk { s with irWake := packWords 8 (r.args.drop 4), irWakeN := arg1 r 0
                     kpd := { s.kpd with wakemask := BitVec.ofNat 6 (arg1 r 1) } } [] }

/-! ### Lanes, watchdog, keys, cores (R246, R320, R377, R399, R405, R506) -/

/-- The lanes that a mask names, in ascending order. -/
def maskLanes (m : Nat) : List (Fin 24) := (List.finRange 24).filter fun n => Nat.testBit m n.val

def cmdLaneFrame (r : Req) (late : Bool) (s : State) : ElvCmd :=
  let mask := arg4 r 0
  let ls := maskLanes mask
  let tgt (i : Nat) : Nat := arg4 r (4 + 4 * i)
  { blank := false
    len := decide (4 ≤ r.args.length) && decide (r.args.length = 4 + 4 * ls.length)
    field := decide (mask < 2 ^ 24) && (List.range ls.length).all fun i => decide (tgt i < 2 ^ 20)
    range := decide (mask ≠ 0)
    absent := decide (2 ^ laneCount s.variant ≤ mask)
    own := if lanesUp s then none else some stNotPermitted
    run := fun s =>
      let side := late && decide (s.laneBlk.lastFrame = some s.now)
      let t := ls.zipIdx.foldl (fun s p => laneNextWrite s p.1 (natW (tgt p.2)) late) s
      elvOk t [natB (boolN side 0), 0, 0, 0] }

/-- The lanes that LANE_SAFE_ALL moves: those in LEAVE_WAIT, RUN or HELD (R399). -/
def safeable (s : State) : List (Fin 24) :=
  (List.finRange 24).filter fun n => lanePresent s n && decide (s.lane[n].st ≠ 0) && decide (s.lane[n].st ≠ 3)

def cmdLaneSafeAll (r : Req) : ElvCmd :=
  { plainCmd r 0 fun s =>
      let ls := safeable s
      elvOk (ls.foldl (fun s n => laneSafe s n 0) s) (leBytes 4 (ls.map fun n => 2 ^ n.val).sum) with
    blank := false }

def cmdWdCountRead (r : Req) : ElvCmd := { plainCmd r 0 fun s => elvOk s (wdCountBytes s) with blank := false }

def cmdWdCountClear (r : Req) : ElvCmd :=
  { plainCmd r 0 fun s => elvOk (s.put 0x1C000000 [0, 0]) (wdCountBytes s) with core := 1, blank := false }

def cmdKeyDerive (r : Req) (s : State) : ElvCmd :=
  { host := false, core := 1
    blank := false
    closed := true
    len := decide (r.args.length = 20)
    field := decide (arg1 r 0 ≤ 2) && argZero r 1 4
    own := if s.boot.life = 2 && s.dbg.level = 2 then some stNotPermitted else none
    leave := if hasCry s.variant then some (15, 1, some 16) else none
    run := fun s =>
      match callerCore r.who with
      | none => elvSt s stNotPermitted
      | some c =>
        match keyIssue s c (BitVec.ofNat 2 (arg1 r 0)) (r.args.drop 4) with
        | (t, some h) => elvOk t (leBytes 2 h)
        | (t, none) => elvSt t stFailed }

/-- The slot of a handle that a core holds. -/
def keyHeldBy (s : State) (c : Core) (h : Nat) : Option (Fin 16) :=
  (handleSlot s (BitVec.ofNat 16 h)).filter fun i => decide (s.key.slots[i].owner = c)

def cmdKeyRelease (r : Req) : ElvCmd :=
  { plainCmd r 2 fun s =>
      match (callerCore r.who).bind fun c => keyHeldBy s c (arg2 r 0) with
      | some i => elvOk { s with key := { s.key with slots := updV s.key.slots i keyFree } } []
      | none => elvSt s stBadArg with
    host := false, core := 1, blank := false }

/-- A restart of the core is under way (R506). -/
def restarting (s : State) (c : Core) : Bool := s.elv.jobs.any fun j => j.code = 0x0B01 && arg1 j.req 0 = c.val

def cmdCoreRestart (r : Req) (s : State) : ElvCmd :=
  let n := arg1 r 0
  let base : ElvCmd :=
    if h : n < 8 then
      let c : Core := ⟨n, h⟩
      { absent := decide (coreCount s.variant ≤ n)
        own := if !coreLost s c || restarting s c || (s.boot.life = 2 && !(otpVal s 4).getLsbD 0) then some stNotPermitted else none
        leave := some (35, 1, some (rCore c))
        lost := some c
        run := fun s =>
          let s := poolSettle (poolDropAll s fun t => t.st = 3 && decide (t.owner.toNat = n))
          goUp (queueFlush s (0xA0 + BitVec.ofNat 16 n)) (coreDom c) }
    else { range := false, run := fun s => elvOk s [] }
  { base with core := 1, blank := false, len := decide (r.args.length = 1) }

def coreBytes (s : State) : List Byte :=
  ((List.finRange 8).map fun c => natB (coreState s c)) ++ (List.finRange 8).map fun c => s.cores[c].reason

def cmdCoreQuarantineStatus (r : Req) : ElvCmd := { plainCmd r 0 fun s => elvOk s (coreBytes s) with blank := false }

end Sys2Proof.Machine
end

