-- ==== Sys2Proof/Machine/BootOps.lean ====
section
/-!
DEFINITION. Start-up (13_boot_and_curtain.md): image headers and their checks, the candidates, the first stage, the release of the stage
cores, verification, the opening of the Curtain, and the seal of STANDBY (R253-R275).
-/

namespace Sys2Proof.Machine

/-! ### Image headers (R259, R262, R279) -/

/-- The fields of a header that Elvuk uses. -/
structure Header where
  version : Word
  entry   : Nat
  length  : Nat
  schMin  : BitVec 16
  schMax  : BitVec 16
  key     : Nat
  hash    : List Byte
  pub     : List Byte
  sig     : List Byte

def headerOf (b : List Byte) : Header :=
  { version := natW (argN b 4 4), entry := argN b 8 4, length := argN b 12 4, schMin := BitVec.ofNat 16 (argN b 16 2)
    schMax := BitVec.ofNat 16 (argN b 18 2), key := argN b 20 1, hash := (b.drop 32).take 32, pub := (b.drop 64).take 64
    sig := (b.drop 192).take 64 }

/-- The header check (R259). A key hash is programmed when any of its bits is. -/
def headerOk (s : State) (b : List Byte) : Bool :=
  let h := headerOf b
  let k := 0x18 + 8 * h.key
  decide (argN b 0 4 = 0x54494C42) && decide (h.length % 4 = 0) && decide (256 ≤ h.length) && decide (h.length ≤ flashBank s.variant) &&
    decide (h.entry % 4 = 0) && decide (256 ≤ h.entry) && decide (h.entry < h.length) && decide (h.key ≤ 1) && otpProgrammed s k 8 &&
    decide (wordsLe (otpVals s k 8) = sha256 h.pub)

/-- A list of addresses in rising order. -/
def insAddr (a : Nat) : List Nat → List Nat
  | [] => [a]
  | b :: r => if a ≤ b then a :: b :: r else b :: insAddr a r

/-- The records of the Prompter's reads of [lo, hi) of flash, up to the first word that cannot be corrected (R276, R493). -/
def flashAudit (s : State) (lo hi : Nat) : State :=
  let mine (a : Nat) : Bool := decide (lo ≤ a) && decide (a < hi)
  let bad := (s.ded ++ s.poison).filter mine
  let stop := bad.foldl min hi
  let l := (s.sec.filter fun a => mine a && decide (a < stop)).foldl (fun l a => insAddr a l) []
  let s := l.foldl (fun s a => ecCorrect s (unitWho 8) a false) s
  if bad = [] then s else memFail s (unitWho 8) 4 stop 0

def slotHead (s : State) (slot : Bool) : List Byte := memBytes s.mem (slotBase slot) 256

/-- A slot passes its header check. -/
def slotHeaderOk (s : State) (slot : Bool) : Bool :=
  flashReads s (slotBase slot) (slotBase slot + 256) && headerOk s (slotHead s slot)

/-- The signature of a header verifies over its bytes 0-191 (R262). -/
def signOk (b : List Byte) : Bool := ecdsaVerify (sha256 (b.take 192)) (headerOf b).pub (headerOf b).sig

/-- The body of a slot has the hash of a header (R262). -/
def bodyOk (s : State) (slot : Bool) (h : Header) : Bool :=
  flashReads s (slotBase slot + 256) (slotBase slot + h.length) &&
    decide (sha256 (memBytes s.mem (slotBase slot + 256) (h.length - 256)) = h.hash)

/-- Verification of a slot passes (R262). -/
def slotVerifies (s : State) (slot : Bool) : Bool :=
  let b := slotHead s slot
  bodyOk s slot (headerOf b) && signOk b

/-- A slot is bootable: its header passes and it verifies. -/
def slotBootable (s : State) (slot : Bool) : Bool := slotHeaderOk s slot && slotVerifies s slot

/-! ### The boot-attempt state (R275) -/

/-- The slot byte of GET_INFO, CURTAIN_OPEN and R275. -/
def slotByte (b : Option Bool) : Byte := match b with | some x => natB (boolN x 0) | none => 0xFF

/-- A failure of a slot is counted, saturating (R267, R268). -/
def bootFail (s : State) (slot : Bool) : State :=
  let i := if slot then 5 else 4
  let n := (s.byte (0x1C000050 + i)).toNat
  let s := bootByte s i (natB (min 255 (n + 1)))
  { s with boot := { s.boot with failed := true, reason := 1, fell := true } }

/-- The outcome of a start. -/
def bootOutcome (b : Boot) : Byte := if b.slot.isNone then 3 else if b.quick then 2 else if b.reason ≠ 0 then 1 else 0

/-- SLOT, OUTCOME, REASON and the opening time are written. -/
def bootWriteState (s : State) (us : Nat) : State :=
  let s := s.put 0x1C000050 [slotByte s.boot.slot, bootOutcome s.boot, s.boot.reason]
  bootRecState ((s.put 0x1C000056 [0, 0]).put 0x1C000058 (leBytes 4 us))

/-! ### Candidates (R257, R258) -/

/-- The slots of a record's fields, in order, each once; a field that names no slot gives none. -/
def candSlots (l : List Byte) : List Bool :=
  l.foldl (fun acc b =>
    let x := b = 1
    if (b = 0 ∨ b = 1) ∧ !acc.contains x then acc ++ [decide x] else acc) []

/-- Both boot records are read, each in its highest programmed slot, with the records of their words (R257, R276, R281). -/
def recAudit (s : State) : State :=
  [false, true].foldl (fun t copy => match (List.range 64).reverse.find? fun k => (recSlot s copy k).isSome with
    | some k => flashAudit t (recAddr copy k) (recAddr copy k + 32)
    | none => t) s

/-- The candidates and the fallback reason that stands before any fails (R258, R284). -/
def bootChoose (s : State) : State :=
  let s := recAudit s
  let none_ : Byte := 0xFF
  let p : List Byte × Byte :=
    if s.boot.noImage || s.boot.life = 0 then ([], 0)
    else match recInUse s with
      | none => ([0, 1], 0)
      | some r =>
        let other : Byte := if r.active = 0 then 1 else if r.active = 1 then 0 else none_
        if r.state ≠ 1 then ([r.active, other], 0)
        else if r.reject ≠ 0 then ([r.active], if r.reject = 2 then 3 else 4)
        else if r.attempts ≠ 0 then ([r.trial, r.active], 0)
        else ([r.active], 2)
  { s with boot := { s.boot with cands := candSlots p.1, reason := p.2, fell := false, failed := false } }

/-- Candidates whose header fails are skipped and counted (R259, R268). -/
def bootPick (s : State) : State :=
  match s.boot.cands with
  | [] => s
  | c :: r =>
    let check (s : State) (c : Bool) : State := flashAudit s (slotBase c) (slotBase c + 256)
    let skip (s : State) (c : Bool) (r : List Bool) : State := bootFail { s with boot := { s.boot with cands := r } } c
    let s := check s c
    if slotHeaderOk s c then s
    else
      let s := skip s c r
      match r with
      | [] => s
      | d :: r' =>
        let s := check s d
        if slotHeaderOk s d then s else skip s d r'

/-! ### The first stage (R253-R261) -/

/-- Words 0x000-0x0FF are read at the strict margin and, where that fails, at the normal one, whose value counts: a word of which the two differ is
weak (R254, R333, R339). K_ROOT is loaded into the key store (R315). -/
def otpLoad (s : State) : State :=
  let ws := List.range 0x100
  let o := s.otp
  let val (w : Nat) : Option Word := match otpDecode (otpWordOf o w).normal with | .clean d => some d | .fixed d => some d | .bad => none
  let loaded := ws.filterMap fun w => (val w).bind fun d => if d = 0 || otpSecret w then none else some (w, d)
  { s with
    otp := { o with loaded := loaded, fresh := [], badWords := ws.filter fun w => (val w).isNone
                    weakWords := ws.filter fun w => (val w).isSome && decide ((otpWordOf o w).strict ≠ (otpWordOf o w).normal) }
    key := { s.key with root := otpRoot o } }

/-- The partition and the budget that OTP gives (R302, R354). -/
def otpConfig (s : State) : State :=
  let b := bitsOf (otpVal s 0x48) 0 9
  { s with
    part := { sramOpen := (otpVal s 8).setWidth 16, openFrom := bitsOf (otpVal s 9) 0 9, grOpen := bitsOf (otpVal s 10) 0 7
              periph := (otpVal s 11).setWidth 11 }
    lv := { s.lv with budget := if 40 ≤ b ∧ b ≤ 400 then b else 120 } }

/-- The lifecycle is decoded (R254, R297). -/
def lifeDecode (s : State) : BitVec 2 × Bool :=
  let m (i : Nat) : Bool := otpVal s i = lifeMarker (i + 1)
  let z (i : Nat) : Bool := otpVal s i = 0
  if s.otp.badWords.any (· < 0x28) then (2, true)
  else if z 0 && z 1 && z 2 then (0, false)
  else if m 0 && z 1 && z 2 then (1, false)
  else if m 0 && m 1 && z 2 then (2, false)
  else if m 0 && m 1 && m 2 then (3, false)
  else (2, true)

/-- The link comes up (R221, R256). What it rejected before stays recorded (R209). -/
def linkUp (s : State) : State := { s with link := { s.link with up := true } }

/-- Orders 2 and 3 of R253 but for the history entry. -/
def stageOtp (s : State) : State :=
  let s := otpConfig (otpLoad s)
  let p := lifeDecode s
  let s := linkUp { s with boot := { s.boot with life := p.1, noImage := p.2 } }
  let s := if p.1 = 0 then dbgSet s 2 0 0xFF else s
  let v := otpHalf s 0x4D true 0
  if v = 0 then s else vsetDrive s v

/-- A grant that is never refused, held for a while by the first stage (R261). -/
def stageGrant (s : State) (r : Fin 41) (units : Nat) : State := lvGive s r units 1 none

/-- The attempt of a TRIAL candidate is recorded (R260): a slot whose record cannot be written is skipped. -/
def stageAttempt (s : State) (fail : Option FlashFail) : State :=
  match s.boot.cands, recInUse s with
  | c :: r, some b =>
    if recTrialOf s c then
      let ops := (recPlan s { b with attempts := b.attempts - 1 }).getD []
      let p := flashRow (fun s => (s, true)) fail 0 ops.length (flashBegin (stageGrant s 0 (if (recFull s).isSome then 40 else 25)) ops) ops
      let s := leaveRelease p.1 0
      if p.2.2 then s else bootPick { s with boot := { s.boot with cands := r, reason := 2, fell := true } }
    else s
  | _, _ => s

/-- The present stage cores that are not up come up in groups as large as the budget allows (R261). -/
def coresUp (s : State) : State :=
  let cs := (List.finRange 8).filter fun c => decide (c.val < coreCount s.variant) && !s.pwr.dom.getLsbD (2 + c.val)
  (chunks (max 1 (s.lv.budget / 35)) 8 cs).foldl (fun s g =>
    let s := g.foldl (fun s c => stageGrant s (rCore c) 35) s
    g.foldl (fun s c => leaveRelease (setDom s (coreDom c) true) (rCore c)) s) s

/-- The seal is written as 0 (R272). -/
def sealClear (s : State) : State := s.put 0x1C000060 (List.replicate 32 0)

/-- Orders 4, 6 and 7 of R253, from the choice of the candidate on. -/
def stageSlot (s : State) (attempt : Bool) (fail : Option FlashFail) : State :=
  let s := bootPick (bootChoose s)
  let s := if attempt then stageAttempt s fail else s
  let s := if s.boot.cands = [] then s else coresUp s
  { s with boot := { s.boot with stage := .release } }

/-- The journal is read (R288): a session without DONE was cut, unless a record made since it began names its target as TRIAL. -/
def installStart (s : State) : State :=
  match s.install.journal with
  | none => s
  | some j =>
    let won := match recInUse s with
      | some r => r.state = 1 && r.trial = (if j.slot then 1 else 0) && decide (j.seq0.toNat < r.seq.toNat)
      | none => false
    if j.done || won then { s with install := { s.install with state := 3, stage := 4, bytes := j.bytes } }
    else { s with install := { s.install with state := 2, stage := j.stage, bytes := j.bytes } }

/-- FIRST_STAGE (R253): orders 2 to 7. -/
def firstStage (s : State) (fail : Option FlashFail) : State :=
  if s.boot.stage ≠ .reset then s
  else
    let s := stageOtp (histWrite s)
    let s := keyDeriveAll s
    sealClear (stageSlot (installStart s) true fail)

/-! ### Release, verification and the opening (R261-R269) -/

/-- What the Cue engine makes possible as it comes up: warnings of the watchdog and messages of the viewer inputs that AO kept (R374,
R375, R431, R435, R447). -/
def cueUp (s : State) : State :=
  let s := wdPostHeld s
  let l := s.boot.repost
  let s := l.foldl hwEvent { s with boot := { s.boot with repost := [] } }
  irPostHeld (irPostHeld (cecPostNext s) 0) 1

/-- The weak and uncorrectable OTP words are reported, once (R254). -/
def weakPost (s : State) : State :=
  let l := s.otp.weakWords
  l.foldl (fun s w => otpWeakRec s w (otpClass (otpWordOf s.otp w))) { s with otp := { s.otp with weakWords := [] } }

/-- The Curtain opens as one event (R266, R269), `us` after the release of reset or the wake. -/
def bootOpen (s : State) (slot : Option Bool) (us : Nat) : State :=
  let s := if slot.isNone then
      { s with boot := { s.boot with slot := none, reason := if s.boot.failed then 1 else 0 }, pwr := { s.pwr with dom := s.pwr.dom &&& 0xFC03 } }
    else s
  let s := { s with sys := { s.sys with phase := 2 }, boot := { s.boot with stage := .done } }
  let s := weakPost s
  let s := uartGo (uartGo (laneOpening s) 0) 1
  let s := linkOpened (bootWriteState s us) (slotByte slot)
  cueSettle (if s.boot.standby then wakeEvent s else s)

/-- The stage cores are released on the first candidate (R261), with one buffer kept aside for each (R232). -/
def bootRelease (s : State) (c : Bool) (quick : Bool) : State :=
  let h := headerOf (slotHead s c)
  let s := { s with
    boot := { s.boot with slot := some c, version := h.version, entry := natW (slotBase c + h.entry), schMin := h.schMin, schMax := h.schMax
                          hash := h.hash, quick := quick, stage := .verify
                          bodyLen := h.length - 256, hashed := 0, hashAcc := 0, hashStop := false }
    sys := { s.sys with slot := c, fallback := s.boot.fell, quick := quick, sw := !hasCry s.variant, kibDone := 0, phase := 0 } }
  let cs := (List.finRange 8).filter fun d => decide (d.val < coreCount s.variant)
  let s := cs.foldl coreStart s
  let s := cs.foldl elvTop s
  bootWriteState (weakPost s) 0

/-- Verification begins: Elvuk holds 15 units while it hashes, on the variants with a crypto engine (R263). -/
def verifyBegin (s : State) : State := if hasCry s.variant && !lvHolds s 16 then stageGrant s 16 15 else s

/-- Bytes of the body that a microsecond's hashing takes, at 1.10 V (R270). -/
def hashRate : Variant → Nat | .x => 112 | .s => 96 | .t => 24

/-- Verification reads the next line of the image as master 8, through the read buffers (R263), and its hash goes on (R262, R274): once all is
hashed and the hash matches, the signature check runs. A word that cannot be corrected ends it. -/
def verifyLine (s : State) (c : Bool) : State :=
  let a := slotBase c + 256 + s.boot.hashed
  let n := min 32 (s.boot.bodyLen - s.boot.hashed)
  let bad := (s.ded ++ s.poison).any fun x => decide (a ≤ x) && decide (x < a + n)
  let s := flashAudit (flashTouch s a) a (a + n)
  if bad then { s with boot := { s.boot with hashStop := true } }
  else
    let h := s.boot.hashed + n
    let all := h = s.boot.bodyLen && bodyOk s c (headerOf (slotHead s c))
    { s with boot := { s.boot with hashed := h }
             sys := { s.sys with kibDone := BitVec.ofNat 13 (h / 1024), phase := if all then 1 else 0 } }

/-- Whether verification has lines to read. -/
def verifyReads (s : State) : Bool := s.boot.stage = .verify && !s.boot.hashStop && decide (s.boot.hashed < s.boot.bodyLen)

/-- A tick of verification at the hash rate, as far as the regulator admits its reads (R154, R263, R270). -/
def verifyTick (s : State) : State :=
  match s.boot.slot with
  | some c =>
    if !verifyReads s then s
    else
      let acc := min 768 (s.boot.hashAcc + hashRate s.variant)
      if acc < 768 then { s with boot := { s.boot with hashAcc := acc } }
      else
        let p := bwrTake s 8 32
        if p.2 then verifyLine { p.1 with boot := { p.1.boot with hashAcc := s.boot.hashAcc + hashRate s.variant - 768 } } c
        else { p.1 with boot := { p.1.boot with hashAcc := acc } }
  | none => s

/-- The lines that verification still reads when its end comes. -/
def verifyRest : Nat → State → Bool → State
  | 0, s, _ => s
  | fuel + 1, s, c => if verifyReads s then verifyRest fuel (verifyLine (bwrCharge (bwrNow s) 8 32) c) c else s

/-- Verification of a slot has come to its end: all has been read, and Elvuk's leave goes back. -/
def verifyEnd (s : State) (c : Bool) : State :=
  let s := verifyRest (s.boot.bodyLen / 32 + 1) s c
  leaveRelease { s with fab := { s.fab with asking := putV s.fab.asking 8 false } } 16

/-- CORE_RELEASE (R253 order 9, R261, R269): a quick resume opens the Curtain at the release (R272). -/
def coreRelease (s : State) : State :=
  if s.boot.stage ≠ .release then s
  else
    let s := cueUp s
    match s.boot.cands with
    | [] => bootOpen s none (if s.boot.standby then s.boot.us else s.now / 24)
    | c :: _ =>
      let s := bootRelease s c s.boot.quick
      if s.boot.quick then bootOpen s (some c) s.boot.us else cueSettle (verifyBegin s)

/-- VERIFY_PASS (R262, R266): with a slot that does not verify nothing passes. -/
def verifyPass (s : State) (us : Nat) : State :=
  match s.boot.slot with
  | some c =>
    if s.boot.stage = .verify && slotVerifies s c then bootOpen (verifyEnd s c) (some c) us else s
  | none => s

/-- VERIFY_FAIL (R267-R269): firmware state is reset, and the next candidate runs, or none. -/
def verifyFail (s : State) : State :=
  match s.boot.slot with
  | some c =>
    if s.boot.stage = .verify && !slotVerifies s c then
      let s := firmwareReset (verifyEnd s c)
      let s := bootFail { s with boot := { s.boot with slot := none, cands := s.boot.cands.tail } } c
      let s := bootPick (bootWriteState s 0)
      match s.boot.cands with
      | [] => bootOpen (cueUp s) none (if s.boot.standby then s.boot.us else s.now / 24)
      | d :: _ => cueSettle (verifyBegin (bootRelease (coresUp (cueUp s)) d false))
    else s
  | none => s

/-! ### STANDBY (R271-R273, R353) -/

/-- The seal's 46 bytes (R271). -/
def sealData (hash : List Byte) (slot : Bool) (life : BitVec 2) (count : BitVec 64) (version : Word) : List Byte :=
  hash ++ [natB (boolN slot 0), natB life.toNat] ++ leBytes 8 count.toNat ++ leBytes 4 version.toNat

/-- The record in use is CONFIRMED on a slot. -/
def recConfirms (s : State) (slot : Bool) : Bool :=
  match recInUse s with
  | some r => r.state = 0 && r.active = (if slot then 1 else 0)
  | none => false

/-- The seal that entry to STANDBY writes (R271). -/
def sealWrite (s : State) : State :=
  match s.boot.slot with
  | some c =>
    if curtainOpen s && recConfirms s c then
      s.put 0x1C000060 (hmac s.key.sealKey (sealData s.boot.hash c s.boot.life s.flc.wcount s.boot.version))
    else sealClear s
  | none => sealClear s

/-- The seal is valid (R272). -/
def sealOk (s : State) : Bool :=
  let c : Bool := s.byte 0x1C000050 = 1
  let b := slotHead s c
  let h := headerOf b
  (s.byte 0x1C000050 = 0 || s.byte 0x1C000050 = 1) && recConfirms s c && slotHeaderOk s c && s.boot.life ≠ 0 && !s.boot.noImage &&
    decide (memBytes s.mem 0x1C000060 32 = hmac s.key.sealKey (sealData h.hash c s.boot.life s.flc.wcount h.version))

/-- An order of Elvuk has waited until its caller has the reply (R241, R353): 1 ms for a core, and for the host until it has read the
reply, or 10 ms. -/
def orderDue (s : State) (o : ElvOrder) : Bool :=
  match o.who with
  | .host ch seq => !s.link.chan[ch].unread.contains seq || decide (o.tb + 240000 ≤ s.now)
  | _ => decide (o.tb + 24000 ≤ s.now)

/-- The entry to STANDBY can be made: the reply has been sent and no command executes (R349 order 2, R353). -/
def standbyReady (s : State) : Bool :=
  s.pwr.mode = .run && s.pwr.entering.isNone && s.elv.jobs.isEmpty && curtainOpen s &&
    (match s.elv.standby with | some o => orderDue s o | none => false)

/-- PWR_EVT as the domains that are up go dark (R344 order 6, R353 order 5). -/
def domsDark (s : State) : Sqc :=
  (List.finRange 32).foldl (fun q code => if 2 ≤ code.val ∧ (domIsUp s code ∨ (domBank code).any fun b => s.pwr.sram[b] = 1) then q.raise 0 else q) s.pwr.evt

/-- STANDBY_ENTRY (R353, orders 2 to 7): only AO stays up. What an abandoned entry would keep is kept until the wake. -/
def standbyEntry (s : State) : State :=
  if !standbyReady s then s
  else
    let s := sealWrite (dbgEnd s)
    let s := s.put 0x1C000080 (leBytes 8 s.flc.wcount.toNat)
    let t := aoKeep s
    let due := s.pwr.alarmPending && s.pwr.wakeMask.getLsbD 0
    { t with
      tb := s.tb
      key := s.key
      otp := { cells := s.otp.cells, loaded := s.otp.loaded, fresh := s.otp.fresh, badWords := s.otp.badWords, weakWords := s.otp.weakWords }
      part := s.part
      lv := { t.lv with budget := s.lv.budget }
      pwr := { t.pwr with mode := .standby, dom := 1, sram := Vector.replicate 16 0, recTb := s.tb, recRtc := s.time.rtc, early := due
                          reason := s.pwr.reason, evt := domsDark s, wakes := if due then [1] else [] }
      boot := { t.boot with life := s.boot.life, noImage := s.boot.noImage, stage := .done } }

/-- The domains and banks that come up with PR. -/
def pwrUp (s : State) : State :=
  { s with pwr := { s.pwr with mode := .run, dom := dom0 s.variant, sram := sram0 s.variant } }

/-- PR comes up: the first stage without a history entry and without an attempt, and the seal checked (R272). -/
def standbyStart (s : State) (us : Nat) : State :=
  let s := installStart { s with boot := { s.boot with standby := true, us := us } }
  let ok := sealOk s
  let s := sealClear s
  if ok then
    let c : Bool := s.byte 0x1C000050 = 1
    coresUp { s with boot := { s.boot with quick := true, cands := [c], reason := 0, fell := false, failed := false, stage := .release } }
  else stageSlot s false none

/-- STANDBY_WAKE (R28, R272, R353): `periods` of the RTC after the last one counted. -/
def standbyWake (s : State) (reason : BitVec 4) (early : Bool) (periods us : Nat) : State :=
  if s.pwr.mode ≠ .standby || !s.pwr.wakes.contains reason.toNat then s
  else
    let e := early || s.pwr.early
    let s := wakeNote s reason e
    if e then
      let s := { s with
        key := { s.key with slots := s.key.slots.map keyFree }
        pwr := { s.pwr with vset := none } }
      standbyStart (linkUp (pwrUp s)) us
    else
      let rtc := s.time.rtc + periods
      let n := rtc - s.pwr.recRtc
      let tb := s.pwr.recTb.toNat + (n * 732421875 + 999999) / 1000000 + 1
      let s := { s with tb := BitVec.ofNat 64 tb, wd := wdRestored s.wd (BitVec.ofNat 64 tb), time := { s.time with rtc := rtc }, key := {} }
      standbyStart (keyDeriveAll (stageOtp (pwrUp s))) us

end Sys2Proof.Machine
end

