-- ==== Sys2Proof/Machine/StoreOps.lean ====
section
/-!
DEFINITION. The settings store (14, R290-R296): its log in data flash, the views, what a commit appends, and compaction.
-/

namespace Sys2Proof.Machine

/-! ### A plan of flash operations -/

/-- The flash operations that a command will make, the newest first, with the state that they lead to when they all succeed, and whether there
is room for what it writes. -/
structure FlRun where
  s   : State
  ops : List FlashOp := []
  ok  : Bool := true

/-- The next operation, unless there is no room. -/
def FlRun.op (x : FlRun) (o : FlashOp) : FlRun := if x.ok then { x with s := o.done x.s, ops := o :: x.ops } else x

/-- `n` sectors of `size` bytes from an address. -/
def FlRun.eraseMany (x : FlRun) (a size n : Nat) : FlRun := (List.range n).foldl (fun x i => x.op (.erase (a + size * i) size)) x

/-- Bytes at an address, cut at the ends of lines (R277). -/
def lineParts : Nat → Nat → List Byte → List (Nat × List Byte)
  | 0, _, _ => []
  | fuel + 1, a, bs =>
    if bs = [] then []
    else
      let n := 32 - a % 32
      (a, bs.take n) :: lineParts fuel (a + n) (bs.drop n)

/-- Bytes programmed at an address, line by line. -/
def FlRun.bytes (x : FlRun) (a : Nat) (bs : List Byte) : FlRun :=
  (lineParts (bs.length / 32 + 2) a bs).foldl (fun x p => x.op (.line p.1 p.2)) x

/-- A boot record (R281). -/
def FlRun.record (x : FlRun) (r : BootRec) : FlRun :=
  match recPlan x.s r with
  | some ops => ops.foldl FlRun.op x
  | none => { x with ok := false }

/-- The plan in its order; one that finds no room ends where it does. -/
def FlRun.plan (x : FlRun) : List FlashOp := if x.ok then x.ops.reverse else (FlashOp.full :: x.ops).reverse

/-! ### The log (R290) -/

def setBase (i : Nat) : Nat := 0x201000 + 2048 * i

/-- An entry of the log as it stands in flash: sector, sector sequence, offset, its bytes. -/
structure LogEntry where
  sector : Nat
  seq    : Nat
  off    : Nat
  raw    : List Byte

def LogEntry.key (e : LogEntry) : Nat := argN e.raw 0 2
def LogEntry.schema (e : LogEntry) : Nat := argN e.raw 2 2
def LogEntry.len (e : LogEntry) : Nat := argN e.raw 4 2
def LogEntry.kind (e : LogEntry) : Nat := argN e.raw 6 1
def LogEntry.data (e : LogEntry) : List Byte := (e.raw.drop 8).take e.len

/-- The header of a sector: its sequence and its erase count, none when it has no valid one. -/
def setHeader (s : State) (i : Nat) : Option (Nat × Nat) :=
  let b := memBytes s.mem (setBase i) 16
  if argN b 0 4 = 0x53544553 ∧ natW (argN b 12 4) = crc32 (b.take 12) ∧ flashReads s (setBase i) (setBase i + 16)
  then some (argN b 4 4, argN b 8 4) else none

/-- A sector that is wholly erased. -/
def setBlank (s : State) (i : Nat) : Bool := flashBlank s (setBase i) (setBase i + 2048)

/-- The entries of a sector from an offset on, up to the first erased word, with the offset where blank space begins: 2048 when what
follows the last entry is no entry. -/
def setEntries (s : State) (i seq : Nat) : Nat → Nat → List LogEntry × Nat
  | 0, _ => ([], 2048)
  | fuel + 1, off =>
    let a := setBase i + off
    let h := memBytes s.mem a 8
    let n := 8 + (argN h 4 2 + 3) / 4 * 4 + 4
    let raw := memBytes s.mem a n
    if 2048 ≤ off then ([], 2048)
    else if argN h 0 4 = 0xFFFFFFFF ∧ flashReads s a (a + 4) then ([], off)
    else if 2048 < off + n then ([], 2048)
    else if !flashReads s a (a + n) || natW (argN raw (n - 4) 4) ≠ crc32 (raw.take (n - 4)) || argN h 6 1 = 0 || 4 < argN h 6 1 then ([], 2048)
    else
      let r := setEntries s i seq fuel (off + n)
      (⟨i, seq, off, raw⟩ :: r.1, r.2)

/-- A sector in use: its index, sequence, erase count, entries and the offset of its blank space. -/
structure SetSector where
  idx   : Nat
  seq   : Nat
  count : Nat
  ents  : List LogEntry
  free  : Nat

/-- Sectors in the order of their sequences. -/
def insSector (x : SetSector) : List SetSector → List SetSector
  | [] => [x]
  | y :: r => if x.seq ≤ y.seq then x :: y :: r else y :: insSector x r

/-- The sectors with a header, in the order of the log. -/
def setSectors (s : State) : List SetSector :=
  ((List.range 24).filterMap fun i => (setHeader s i).map fun h =>
    let e := setEntries s i h.1 170 16
    ⟨i, h.1, h.2, e.1, e.2⟩).foldr insSector []

/-! ### Batches and views (R291, R292) -/

/-- An entry that counts, with its generation. -/
structure Counted where
  gen : Nat
  e   : LogEntry

/-- The log read so far: the RECORD and DELETE entries since the last COMMIT, newest first, those that count, in order, and the
generations voided. -/
structure LogRead where
  run   : List LogEntry := []
  good  : List Counted := []
  voids : List (Nat × Nat) := []

/-- The MAC of a batch. -/
def setMacOf (s : State) (gen : Nat) (es : List LogEntry) : List Byte :=
  (hmac s.key.setMac (leBytes 4 gen ++ es.flatMap (·.raw))).take 16

/-- One entry of the log. A COMMIT covers the entries just before it, as many as its count; one whose count or MAC does not match gives
nothing. -/
def logRead (s : State) (x : LogRead) (e : LogEntry) : LogRead :=
  match e.kind with
  | 3 =>
    let n := argN e.data 4 4
    let es := (x.run.take n).reverse
    if n ≤ x.run.length ∧ e.data.drop 8 = setMacOf s (argN e.data 0 4) es then
      { x with run := [], good := x.good ++ es.map fun m => ⟨argN e.data 0 4, m⟩ }
    else { x with run := [] }
  | 4 => { x with voids := x.voids ++ [(argN e.data 0 4, argN e.data 4 4)] }
  | _ => { x with run := e :: x.run }

def setLog (s : State) (l : List SetSector) : LogRead := (l.flatMap (·.ents)).foldl (logRead s) {}

/-- The generations of a view: from BASE to CGEN, with the trial's, or the trial's alone. -/
inductive View where
  | confirmed | shadow | fresh
deriving DecidableEq, Repr

def viewHas (r : BootRec) (v : View) (g : Nat) : Bool :=
  let old := decide (r.base.toNat ≤ g) && decide (g ≤ r.cgen.toNat)
  match v with
  | .confirmed => old
  | .shadow => old || decide (g = r.sgen.toNat)
  | .fresh => decide (g = r.sgen.toNat)

/-- The view of a record's trial, when it has one. -/
def trialView (r : BootRec) : Option View :=
  if r.state = 1 ∧ r.reject = 0 then some (if r.setmode = 1 then .fresh else .shadow) else none

/-- The view of the running image. -/
def runView (s : State) (r : BootRec) : View := if runsTrial s then (trialView r).getD .confirmed else .confirmed

/-- The winning entry of each key in a view: of the highest generation, and among those the last in the log. -/
def winners (r : BootRec) (v : View) (x : LogRead) : List Counted :=
  (x.good.filter fun c => viewHas r v c.gen && !x.voids.any fun p => decide (p.1 ≤ c.gen) && decide (c.gen ≤ p.2)).foldl (fun l c =>
    match l.find? fun d => d.e.key = c.e.key with
    | some d => if d.gen ≤ c.gen then l.filter (fun d => d.e.key ≠ c.e.key) ++ [c] else l
    | none => l ++ [c]) []

/-- RECORD data encrypted or decrypted at a place (R291). -/
def setCrypt (s : State) (seq off : Nat) (d : List Byte) : List Byte :=
  aesCtr s.key.setEnc (beBytes 16 (Config.setCounter seq off).toNat) d

/-! ### Appending (R290, R291) -/

/-- The bytes of an entry. -/
def entryBytes (key schema kind : Nat) (data : List Byte) : List Byte :=
  let b := leBytes 2 key ++ leBytes 2 schema ++ leBytes 2 data.length ++ [natB kind, 0] ++ data ++
    List.replicate ((4 - data.length % 4) % 4) 0
  b ++ leBytes 4 (crc32 b).toNat

/-- The bytes of a sector header. -/
def sectorBytes (seq count : Nat) : List Byte :=
  let b := leBytes 4 0x53544553 ++ leBytes 4 seq ++ leBytes 4 count
  b ++ leBytes 4 (crc32 b).toNat

/-- A change to be written: a RECORD with its data, or a DELETE. -/
def changeSize (d : Option (List Byte)) : Nat := 12 + ((d.map (·.length)).getD 0 + 3) / 4 * 4

/-- The end of the log: the sector, sequence and offset of the blank space after the last entry, none while no sector is in use, the
sectors free after it with the sequence of those that have a header, and the next sequence. A sector that neither has a header nor is blank,
which a cut or a failure left, is erased before it is used. -/
structure LogEnd where
  pos  : Option (Nat × Nat × Nat)
  free : List (Nat × Option Nat)
  next : Nat

def logEnd (s : State) (l : List SetSector) : LogEnd :=
  let free := (l.reverse.takeWhile fun x => x.ents.isEmpty && decide (x.free = 16)).reverse
  let blanks := ((List.range 24).filter fun i => (setHeader s i).isNone).map fun i => (i, none)
  let used := l.take (l.length - free.length)
  { pos := used.getLast?.map fun x => (x.idx, x.seq, x.free)
    free := free.map (fun x => (x.idx, some x.seq)) ++ blanks
    next := (l.getLast?.map (·.seq + 1)).getD 1 }

/-- Whether entries of these sizes fit in what a sector has left and in further sectors. -/
def sizesFit : Nat → Nat → List Nat → Bool
  | _, _, [] => true
  | rem, free, n :: r =>
    if n ≤ rem then sizesFit (rem - n) free r
    else match free with
      | 0 => false
      | k + 1 => n ≤ 2032 && sizesFit (2032 - n) k r

/-- Whether entries fit in the blank space outside the sector kept erased. -/
def logFits (e : LogEnd) (sizes : List Nat) : Bool :=
  sizesFit ((e.pos.map fun p => 2048 - p.2.2).getD 0) (e.free.length - 1) sizes

/-- A log being written: the flash operations, its end, and the bytes of the batch so far. -/
structure LogWrite where
  x   : FlRun
  e   : LogEnd
  out : List Byte := []

/-- Room for an entry: the blank space it fits, or the next free sector, which is given a header when it has none. -/
def logRoom (w : LogWrite) (size : Nat) : LogWrite :=
  let has := match w.e.pos with | some p => decide (p.2.2 + size ≤ 2048) | none => false
  if has || !w.x.ok then w
  else match w.e.free with
    | [] => { w with x := { w.x with ok := false } }
    | (i, some q) :: r => { w with e := { w.e with pos := some (i, q, 16), free := r } }
    | (i, none) :: r =>
      let x := if setBlank w.x.s i then w.x else w.x.op (.erase (setBase i) 2048)
      { w with x := x.bytes (setBase i) (sectorBytes w.e.next 0)
               e := { pos := some (i, w.e.next, 16), free := r, next := w.e.next + 1 } }

/-- An entry is appended; its bytes may depend on the sector sequence and the offset. -/
def logAppend (w : LogWrite) (size : Nat) (mk : Nat → Nat → List Byte) : LogWrite :=
  let w := logRoom w size
  match w.e.pos with
  | some (i, q, off) =>
    let b := mk q off
    { x := w.x.bytes (setBase i + off) b, e := { w.e with pos := some (i, q, off + size) }, out := w.out ++ b }
  | none => { w with x := { w.x with ok := false } }

/-- One change is appended. -/
def logChange (w : LogWrite) (c : Staged) : LogWrite :=
  logAppend w (changeSize c.data) fun q off =>
    match c.data with
    | some d => entryBytes c.key.toNat c.schema.toNat 1 (setCrypt w.x.s q off d)
    | none => entryBytes c.key.toNat 0 2 []

/-- A batch with its COMMIT (R291). -/
def logBatch (w : LogWrite) (gen : Nat) (cs : List Staged) : LogWrite :=
  let w := cs.foldl (fun w c => logChange w c) { w with out := [] }
  logAppend w 36 fun _ _ =>
    entryBytes 0xFFFF 0 3 (leBytes 4 gen ++ leBytes 4 cs.length ++ (hmac w.x.s.key.setMac (leBytes 4 gen ++ w.out)).take 16)

/-! ### Compaction (R296) -/

/-- The change that an entry spells. -/
def Counted.change (s : State) (c : Counted) : Staged :=
  { key := BitVec.ofNat 16 c.e.key, schema := BitVec.ofNat 16 c.e.schema
    data := if c.e.kind = 1 then some (setCrypt s c.e.seq c.e.off c.e.data) else none }

/-- The winners in the confirmed view or in the current trial's. -/
def keepers (s : State) (l : List SetSector) : List Counted :=
  match recInUse s with
  | none => []
  | some r =>
    let x := setLog s l
    let conf := winners r .confirmed x
    let trial := match trialView r with | some v => winners r v x | none => []
    let same (a b : Counted) : Bool := decide (a.e.sector = b.e.sector) && decide (a.e.off = b.e.off)
    conf ++ trial.filter fun c => !conf.any (same c)

/-- The oldest sector is compacted: its winners are rewritten at the head of the log, each a batch of its own generation, and it is
erased and given the next sequence. -/
def compactOne (x : FlRun) : FlRun :=
  let l := setSectors x.s
  match l with
  | [] => { x with ok := false }
  | old :: _ =>
    let keep := (keepers x.s l).filter fun c => c.e.sector = old.idx
    let w := keep.foldl (fun w c => logBatch w c.gen [c.change x.s]) { x := x, e := logEnd x.s l }
    (w.x.op (.erase (setBase old.idx) 2048)).bytes (setBase old.idx) (sectorBytes w.e.next (old.count + 1))

/-- Sectors are compacted until entries of these sizes fit. -/
def compactFor (sizes : List Nat) : Nat → FlRun → FlRun
  | 0, x => { x with ok := false }
  | fuel + 1, x =>
    if !x.ok || logFits (logEnd x.s (setSectors x.s)) sizes then x else compactFor sizes fuel (compactOne x)

/-- Whether the winners with a batch need more than 22 sectors. -/
def storeFull (s : State) (sizes : List Nat) : Bool :=
  !sizesFit 0 22 (((keepers s (setSectors s)).flatMap fun c => [changeSize (if c.e.kind = 1 then some c.e.data else none), 36]) ++ sizes)

/-- Room for entries of these sizes is made, when it is not there. -/
def storeRoom (x : FlRun) (sizes : List Nat) : FlRun :=
  if logFits (logEnd x.s (setSectors x.s)) sizes then x
  else if storeFull x.s sizes then { x with ok := false }
  else compactFor sizes 48 x

/-- The sizes of a batch with its COMMIT. -/
def batchSizes (cs : List Staged) : List Nat := cs.map (fun c => changeSize c.data) ++ [36]

/-- A batch is committed as one generation entry (R243, R291, R296). -/
def storeCommit (x : FlRun) (gen : Nat) (cs : List Staged) : FlRun :=
  let x := storeRoom x (batchSizes cs)
  if x.ok then (logBatch { x := x, e := logEnd x.s (setSectors x.s) } gen cs).x else x

/-- A VOID entry for the generations above CGEN and below a new SGEN, when there are any (R286, R294). -/
def storeVoid (x : FlRun) (cgen sgen : Nat) : FlRun :=
  if sgen ≤ cgen + 1 || !x.ok then x
  else
    let x := storeRoom x [20]
    if x.ok then
      (logAppend { x := x, e := logEnd x.s (setSectors x.s) } 20 fun _ _ => entryBytes 0xFFFF 0 4 (leBytes 4 (cgen + 1) ++ leBytes 4 (sgen - 1))).x
    else x

end Sys2Proof.Machine
end

