-- ==== Sys2Proof/Machine/ElvukStore.lean ====
section
/-!
DEFINITION. Elvuk's image and settings commands, and LIFECYCLE_ADVANCE (12, R241-R245; 14, R282-R296).
-/

namespace Sys2Proof.Machine

/-! ### The install session (R285-R288) -/

/-- The session of a caller. -/
def ownSession (s : State) (r : Req) : Option Session := s.install.session.filter fun k => decide (k.who = callerParty r.who)

/-- Another caller has the session (R236). -/
def installHeld (s : State) (r : Req) : Bool := s.install.session.isSome && (ownSession s r).isNone

/-- The journal's next entry: a stage, with the bytes programmed. -/
def journalOps (s : State) (stage bytes : Nat) (done : Bool) : List FlashOp :=
  match s.install.journal with
  | some j => [.journal { j with stage := stage, bytes := bytes, done := done }]
  | none => []

def FlRun.journal (x : FlRun) (stage bytes : Nat) (done : Bool) : FlRun := (journalOps x.s stage bytes done).foldl FlRun.op x

/-- The lines of a list, from a line address. -/
def FlRun.lines (x : FlRun) (a : Nat) (ls : List (List Byte)) : FlRun := ls.zipIdx.foldl (fun x p => x.op (.line (a + 32 * p.2) p.1)) x

/-- The session ends with a command: its last status is OK_DELAYED for one that waited for leave (R234). -/
def installOver (s : State) (r : Req) (state status : Nat) : State :=
  let late : Bool := status = stOk && (match elvJob s (callerParty r.who) with | some j => j.delayed.isSome | none => false)
  { s with install := { s.install with session := none, state := state, last := if late then stDelayed else status } }

/-- The session ends in failure. -/
def installFail (s : State) (r : Req) (status : Nat) : ElvEnd := elvSt (installOver s r 4 status) status

/-- A session lost without an install command: it is INTERRUPTED at the stage it reached (12, "The calling core is quarantined"). -/
def installCut (s : State) (p : Party) : State :=
  match s.install.session with
  | some k => if k.who = p then { s with install := { s.install with session := none, state := 2 } } else s
  | none => s

/-- INSTALL_BEGIN (R286): the journal entry, the trial record of the target cleared, and its bank erased. -/
def installBeginRun (r : Req) (s : State) : ElvEnd :=
  let slot := installTarget s
  let rec_ := recInUse s
  let s := { s with install := { s.install with
    session := some { who := callerParty r.who, slot := slot, length := arg4 r 0 }, state := 1, stage := 1, bytes := 0, last := stOk } }
  let x : FlRun := ({ s := s } : FlRun).op (.journal ⟨slot, 1, 0, (rec_.map (·.seq)).getD 0, false⟩)
  let x := match rec_ with
    | some b => if b.state = 1 ∧ b.trial = (if slot then 1 else 0) then x.record { b with state := 0, trial := 0xFF } else x
    | none => x
  .work s (x.eraseMany (slotBase slot) 4096 (flashBank s.variant / 4096)).plan []

def installBeginFin (r : Req) (s : State) (ok : Bool) : ElvEnd :=
  match ownSession s r with
  | some k => if ok then elvOk s [natB (boolN k.slot 0)] else installFail s r stFailed
  | none => elvSt s stFailed

def cmdInstallBegin (r : Req) (stop : Option Nat) (fail : Option FlashFail) (s : State) : ElvCmd :=
  let n := arg4 r 0
  { core := 1
    closed := true
    len := decide (r.args.length = 4)
    range := decide (n % 4 = 0) && decide (256 ≤ n) && decide (n ≤ flashBank s.variant)
    own := if runsTrial s then some stNotPermitted else none
    busy := flashUsed s || installHeld s r
    leave := some (40, 3, none)
    run := installBeginRun r
    fin := installBeginFin r
    stop := stop, fail := fail }

/-- A session is needed: INTERRUPTED is the command's own status, the other a check (R232, R241). -/
def sessionOwn (s : State) : Option Nat := if s.install.session.isNone && s.install.state ≠ 2 then some stNotPermitted else none

/-- The body bytes that an INSTALL_DATA completes lines with: those held of the line that is not full, and its own but for the header's. -/
def dataBody (r : Req) (k : Session) : List Byte := k.part ++ (r.args.drop 4).drop (256 - k.head.length)

/-- INSTALL_DATA (R285, R286): the first 256 bytes are held, whole body lines programmed, each 64 KiB recorded. -/
def installDataRun (r : Req) (s : State) : ElvEnd :=
  match ownSession s r with
  | none => elvSt s stInterrupted
  | some k =>
    let got := k.got + (r.args.length - 4)
    let body := dataBody r k
    let x : FlRun := { s := s }
    let x := if s.install.stage < 2 then x.journal 2 0 false else x
    let x := x.lines (slotBase k.slot + max k.got 256 - k.part.length) (chunks 32 (body.length / 32) body)
    let x := if got / 65536 ≠ k.got / 65536 then x.journal 2 (got / 65536 * 65536) false else x
    .work s x.plan []

def installDataFin (r : Req) (s : State) (ok : Bool) : ElvEnd :=
  match ownSession s r with
  | none => elvSt s stInterrupted
  | some k =>
    let d := r.args.drop 4
    let body := dataBody r k
    let got := k.got + d.length
    if ok then
      let k := { k with got := got, head := k.head ++ d.take (256 - k.head.length), part := body.drop (body.length / 32 * 32) }
      elvOk { s with install := { s.install with session := some k, bytes := got } } (leBytes 4 got)
    else installFail s r stFailed

def cmdInstallData (r : Req) (stop : Option Nat) (fail : Option FlashFail) (s : State) : ElvCmd :=
  let n := r.args.length
  { core := 1
    closed := true
    len := decide (8 ≤ n) && decide (n ≤ 1024) && decide (n % 4 = 0)
    range := match ownSession s r with | some k => decide (arg4 r 0 = k.got) && decide (k.got + (n - 4) ≤ k.length) | none => true
    own := sessionOwn s
    busy := flashUsed s || installHeld s r
    leave := some (25, 3, none)
    run := installDataRun r
    fin := installDataFin r
    stop := stop, fail := fail }

/-- The held header passes the checks of INSTALL_END that need no body (R287). -/
def installHeadOk (s : State) (k : Session) : Bool :=
  let h := headerOf k.head
  let zero (lo n : Nat) : Bool := ((k.head.drop lo).take n).all (· = 0)
  headerOk s k.head && decide (h.length = k.length) && zero 21 11 && zero 128 64 && decide (h.schMin.toNat ≤ h.schMax.toNat)

/-- The attempts that a new trial has (R282). -/
def trialAttempts (s : State) : Byte :=
  let n := bitsOf (otpVal s 5) 0 4
  if n = 0 then 3 else natB n

/-- The record of a first install (R282): both copy areas erased, then slot 0 of copy 0. -/
def FlRun.firstRecord (x : FlRun) (slot : Bool) : FlRun :=
  (x.eraseMany 0x200000 2048 2).op (.record (recAddr false 0) (BootRec.bytes
    { seq := 1, active := if slot then 1 else 0, trial := 0xFF, attempts := 0, state := 0, reject := 0, setmode := 0
      cgen := 1, sgen := 1, base := 1, nextgen := 2 }))

/-- The record of INSTALL_END, with the VOID entry before it (R282, R286). -/
def installRecord (x : FlRun) (slot : Bool) : FlRun :=
  match recInUse x.s with
  | none => x.firstRecord slot
  | some b =>
    (storeVoid x b.cgen.toNat b.nextgen.toNat).record
      { b with state := 1, trial := if slot then 1 else 0, attempts := trialAttempts x.s, reject := 0, setmode := 0
               sgen := b.nextgen, nextgen := b.nextgen + 1 }

/-- INSTALL_END (R285-R287): the last line of the body, the read-back with its checks, then the header lines, the VOID entry and the record. -/
def installEndRun (r : Req) (s : State) : ElvEnd :=
  match ownSession s r with
  | none => elvSt s stInterrupted
  | some k =>
    if k.got ≠ k.length then elvSt s stBadArg
    else
      let rest := if k.part.isEmpty then [] else [k.part ++ List.replicate (32 - k.part.length) 0xFF]
      let x : FlRun := (({ s := s } : FlRun).lines (slotBase k.slot + k.got - k.part.length) rest).journal 3 k.got false
      let x := ((x.op .check).journal 4 k.got false).lines (slotBase k.slot) (chunks 32 8 k.head)
      .work s ((installRecord x k.slot).journal 4 k.got true).plan []

/-- What the read-back of INSTALL_END finds (R287). -/
def installCheck (r : Req) (s : State) : State × Bool :=
  match ownSession s r with
  | none => (s, false)
  | some k =>
    let h := headerOf k.head
    if !installHeadOk s k then (s, false)
    else (flashAudit s (slotBase k.slot + 256) (slotBase k.slot + h.length), bodyOk s k.slot h && signOk k.head)

/-- INSTALL_END is over (R287). When a header line, the VOID entry or the record has failed, the target is left without a valid header. -/
def installEndFin (r : Req) (s : State) (ok : Bool) : ElvEnd :=
  match ownSession s r with
  | none => elvSt s (if ok then stOk else stFailed)
  | some k =>
    if ok then .done (installOver s r 3 stOk) stOk ([natB (boolN k.slot 0), 0] ++ leBytes 4 (headerOf k.head).version.toNat) id
    else if s.install.stage = 3 then installFail s r stVerifyFailed
    else installFail (if slotHeaderOk s k.slot then flashAll s [.erase (slotBase k.slot) 4096] else s) r stFailed

/-- The leave of a command that writes a record: more when it has to erase a copy area first (R281, R282). -/
def recLeave (s : State) : Nat := if (recInUse s).isNone || (recFull s).isSome then 40 else 25

def cmdInstallEnd (r : Req) (stop : Option Nat) (fail : Option FlashFail) (s : State) : ElvCmd :=
  { core := 1
    closed := true
    len := decide (r.args.length = 0)
    own := sessionOwn s
    busy := flashUsed s || installHeld s r
    leave := some (recLeave s, 3, none)
    run := installEndRun r
    check := installCheck r
    fin := installEndFin r
    stop := stop, fail := fail }

def imageBytes (i : Install) : List Byte := [natB i.state, natB i.stage] ++ leBytes 4 i.bytes ++ leBytes 2 i.last

def cmdImageStatus (r : Req) : ElvCmd := plainCmd r 0 fun s => elvOk s (imageBytes s.install)

/-! ### IMAGE_CONFIRM and IMAGE_REJECT (R283, R284) -/

/-- A record is written on behalf of a command; when that fails nothing else happens. -/
def recordRun (f : BootRec → BootRec) (s : State) : ElvEnd :=
  match recInUse s with
  | none => elvSt s stFailed
  | some b => .work s (({ s := s } : FlRun).record (f b)).plan []

def recordFin (after : State → State) (s : State) (ok : Bool) : ElvEnd := if ok then .done s stOk [] after else elvSt s stFailed

def trialOwn (s : State) : Option Nat := if runsTrial s then none else some stNotPermitted

def confirmRec (slot : Bool) (b : BootRec) : BootRec :=
  { b with state := 0, active := if slot then 1 else 0, trial := 0xFF, attempts := 0, cgen := b.sgen
           base := if b.setmode = 1 then b.sgen else b.base }

def cmdImageConfirm (r : Req) (stop : Option Nat) (fail : Option FlashFail) (s : State) : ElvCmd :=
  { core := 1
    blank := false
    closed := true
    len := decide (r.args.length = 0)
    own := trialOwn s
    busy := flashUsed s
    leave := some (recLeave s, 1, none)
    run := recordRun (confirmRec (s.boot.slot.getD false))
    fin := recordFin id
    stop := stop, fail := fail }

/-- The reset of an OK IMAGE_REJECT is due once its caller has the reply (R241). -/
def rejectOrder (w : Caller) (s : State) : State := { s with elv := { s.elv with reject := some ⟨w, s.now⟩ } }

def cmdImageReject (r : Req) (stop : Option Nat) (fail : Option FlashFail) (s : State) : ElvCmd :=
  { core := 1
    blank := false
    closed := true
    len := decide (r.args.length = 1)
    field := decide (arg1 r 0 ≤ 2)
    own := trialOwn s
    busy := flashUsed s
    leave := some (recLeave s, 1, none)
    run := recordRun fun b => { b with reject := natB (arg1 r 0 + 1) }
    fin := recordFin (rejectOrder r.who)
    stop := stop, fail := fail }

/-! ### Settings (R242, R243, R292-R296) -/

/-- The keys that no command takes. -/
def keyBarred (k : Nat) : Bool := k = 0 || decide (0xFF00 ≤ k)

/-- The batch of a caller. -/
def batchOf (s : State) (p : Party) : List Staged := ((s.sets.batches.find? fun b => b.1 = p).map (·.2)).getD []

def batchPut (s : State) (p : Party) (l : List Staged) : State :=
  let others := s.sets.batches.filter fun b => b.1 ≠ p
  { s with sets := { s.sets with batches := if l.isEmpty then others else others ++ [(p, l)] } }

/-- The bytes that a batch occupies. -/
def batchBytes (l : List Staged) : Nat := (l.map fun c => 6 + (c.data.map (·.length)).getD 0).sum

/-- A change is staged; with no boot record it is not permitted (R295). -/
def stageChange (r : Req) (c : Staged) (s : State) : ElvEnd :=
  let s := touchFlash s
  let l := batchOf s (callerParty r.who) ++ [c]
  if 1024 < batchBytes l then elvSt s stBadArg else elvOk (batchPut s (callerParty r.who) l) (leBytes 2 (batchBytes l))

/-- Step 8 of the commands on one key. -/
def keyOwn (s : State) (k : Nat) (write : Bool) : Option Nat :=
  if keyBarred k || (write && (recInUse s).isNone) then some stNotPermitted else none

/-- The record of a key in the running image's view. -/
def setLookup (s : State) (k : Nat) : Option Counted :=
  match recInUse s with
  | none => none
  | some b => (winners b (runView s b) (setLog s (setSectors s))).find? fun c => c.e.key = k && c.e.kind = 1

def setReadRun (k : Nat) (s : State) : ElvEnd :=
  match setLookup s k with
  | none => elvSt (touchFlash s) stFailed
  | some c =>
    let a := setBase c.e.sector + c.e.off
    elvOk (touchFlash (flashAudit s a (a + c.e.raw.length)))
      (leBytes 2 c.e.schema ++ leBytes 2 c.e.len ++ setCrypt s c.e.seq c.e.off c.e.data)

def cmdSetRead (r : Req) (s : State) : ElvCmd :=
  { blank := false
    len := decide (r.args.length = 2)
    own := keyOwn s (arg2 r 0) false
    run := setReadRun (arg2 r 0) }

def cmdSetWrite (r : Req) (s : State) : ElvCmd :=
  let n := arg2 r 4
  let schema := arg2 r 2
  { blank := false
    closed := true
    len := decide (r.args.length = 6 + n) && decide (6 ≤ r.args.length)
    range := decide (n ≤ 1016) &&
      ((recInUse s).isNone || (s.boot.slot.isSome && decide (s.boot.schMin.toNat ≤ schema) && decide (schema ≤ s.boot.schMax.toNat)))
    own := keyOwn s (arg2 r 0) true
    run := stageChange r ⟨BitVec.ofNat 16 (arg2 r 0), BitVec.ofNat 16 schema, some (r.args.drop 6)⟩ }

def cmdSetDelete (r : Req) (s : State) : ElvCmd :=
  { blank := false
    closed := true
    len := decide (r.args.length = 2)
    own := keyOwn s (arg2 r 0) true
    run := stageChange r ⟨BitVec.ofNat 16 (arg2 r 0), 0, none⟩ }

/-- The generation that the running image commits with (R292). -/
def runGen (s : State) (b : BootRec) : Nat := if runsTrial s then b.sgen.toNat else b.cgen.toNat

/-- SET_COMMIT (R243, R291, R296). -/
def setCommitRun (r : Req) (s : State) : ElvEnd :=
  let l := batchOf s (callerParty r.who)
  match recInUse s with
  | none => elvSt s stFailed
  | some b => .work s (if l.isEmpty then [] else (storeCommit { s := s } (runGen s b) l).plan) []

def setCommitFin (r : Req) (s : State) (ok : Bool) : ElvEnd :=
  if ok then elvOk (batchPut s (callerParty r.who) []) (leBytes 2 (batchOf s (callerParty r.who)).length) else elvSt s stFailed

def cmdSetCommit (r : Req) (stop : Option Nat) (fail : Option FlashFail) (s : State) : ElvCmd :=
  let l := batchOf s (callerParty r.who)
  let compacts := !l.isEmpty && !logFits (logEnd s (setSectors s)) (batchSizes l) && !storeFull s (batchSizes l)
  { blank := false
    closed := true
    len := decide (r.args.length = 0)
    own := if (recInUse s).isNone then some stNotPermitted else none
    busy := flashUsed s
    leave := some (if compacts then 40 else 25, 2, none)
    run := setCommitRun r
    fin := setCommitFin r
    stop := stop, fail := fail }

/-- SET_START_FRESH (R294): the record, then the VOID entry. The record that was in use is noted. -/
def startFreshRun (s : State) : ElvEnd :=
  match recInUse s with
  | none => elvSt s stFailed
  | some b =>
    let x := ({ s := s } : FlRun).record { b with setmode := 1, sgen := b.nextgen, nextgen := b.nextgen + 1 }
    .work s (storeVoid x b.cgen.toNat b.nextgen.toNat).plan (leBytes 4 b.seq.toNat)

/-- SET_START_FRESH is over: with the record written it is done, whether or not the VOID entry has failed. -/
def startFreshFin (r : Req) (s : State) (ok : Bool) : ElvEnd :=
  let old := ((elvJob s (callerParty r.who)).map (·.res)).getD []
  let written := match recInUse s with | some b => decide (leBytes 4 b.seq.toNat ≠ old) | none => false
  if ok || written then elvOk s [] else elvSt s stFailed

def cmdSetStartFresh (r : Req) (stop : Option Nat) (fail : Option FlashFail) (s : State) : ElvCmd :=
  { core := 1
    blank := false
    closed := true
    len := decide (r.args.length = 0)
    own := trialOwn s
    busy := flashUsed s
    leave := some (recLeave s, 2, none)
    run := startFreshRun
    fin := startFreshFin r
    stop := stop, fail := fail }

/-! ### LIFECYCLE_ADVANCE (R244, R245, R297) -/

/-- Whether any cell of a range of words reads 1. -/
def otpCharged (s : State) (w k : Nat) : Bool := (List.range k).any fun i => (otpWordOf s.otp (w + i)).normal ≠ 0

/-- The precondition of an advance to a state. -/
def lifeReady (s : State) (t : Nat) : Bool :=
  match t with
  | 1 => otpCharged s 0x10 8 && otpCharged s 0x18 8
  | 2 => slotBootable s false || slotBootable s true
  | _ => decide (s.dbg.level = 2)

/-- The reply: the state in force after the next reset, as the markers then read. A marker word already used is a failure. -/
def lifeReply (s : State) (y : OtpWord) (code tries : Nat) : ElvEnd :=
  match otpReply s y code tries with
  | .done s st _ after => .done s (if st = stWordUsed then stFailed else st) [natB (lifeDecode (otpLoad s)).1.toNat] after
  | x => x

def cmdLifecycleAdvance (r : Req) (pulses : List Pulse) (s : State) : ElvCmd :=
  let t := arg1 r 0
  { core := 0
    ret := false
    closed := true
    len := decide (r.args.length = 4)
    field := decide (arg1 r 1 = 0x4C) && decide (arg1 r 2 = 0x43) && decide (arg1 r 3 = 0x41)
    range := within 1 3 t
    own := otpOwn s (decide (t = s.boot.life.toNat + 1) && lifeReady s t)
    busy := otpHeld s
    leave := some (30, 1, none)
    run := fun s => otpGo (if t = 2 then touchFlash s else s) r (t - 1) progBarred (fun k x => progTries (lifeMarker t) k x pulses) lifeReply }

end Sys2Proof.Machine
end

