-- ==== Sys2Proof/Machine/RowsElvuk.lean ====
section
/-!
DEFINITION. The commands of the host link and of USER traffic (11), the ends of waits (10, 17), and every Elvuk command (12).
-/

namespace Sys2Proof.Machine

/-! ### Host link (R201-R228) -/

/-- WRITE_FRAME (R204, R208, R209). -/
def execWriteFrame (bytes : List Byte) (s : State) : Result := .next (linkWrite s bytes)

/-- READ_FRAME with `n` data bytes clocked (R204, R205). -/
def execReadFrame (n : Nat) (s : State) : Result := .next (linkRead s n)

/-- READ_STATUS with `n` data bytes clocked (R205, R219). -/
def execReadStatus (n : Nat) (s : State) : Result := .next (linkReadStatus s n)

/-- LINK_RESET (R216). -/
def execLinkReset (confirm : List Byte) (s : State) : Result := .next (linkReset s confirm)

/-- An operation byte that is no operation, with `n` bytes clocked after it (R204). -/
def execReservedLinkOpcode (op : Byte) (n : Nat) (s : State) : Result := .next (if 1 ≤ op.toNat ∧ op.toNat ≤ 4 then s else linkBadOp s n)

/-- FRAME_ACCEPT (R211-R213, R222). -/
def execFrameAccept (s : State) : Result := .next (linkAccept s)

/-- USER_COMMAND (R227): a host's is forwarded, a core's is refused (R232). -/
def execUserCommand (r : Req) (code : BitVec 16) (s : State) : Result :=
  .next (if (callerCore r.who).isNone then userForward s r code.toNat else elvUnknown s r code.toNat)

/-- USER_REPLY, USER_REPLY_INDIRECT and USER_EVENT (R225, R228). -/
def execUserReply (s : State) : Result := .next (cueSettle (userMail s 2 userReplyMail))
def execUserReplyIndirect (s : State) : Result := .next (cueSettle (userMail s 3 userReplyIndirectMail))
def execUserEvent (s : State) : Result := .next (cueSettle (userMail s 4 userEventMail))

/-- USER_TIMEOUT (R228). -/
def execUserTimeout (ch : Fin 4) (seq : BitVec 6) (s : State) : Result := .next (userLate s ch seq)

/-- UNKNOWN_COMMAND (R232). -/
def execUnknownCommand (r : Req) (code : BitVec 16) (s : State) : Result := .next (elvUnknown s r code.toNat)

/-! ### Ends of waits -/

/-- POOL_WAIT_LIMIT (R192): the `i`-th waiting request, once its wait has lasted WAITLIM. -/
def execPoolWaitLimit (i : Nat) (s : State) : Result :=
  .next (match s.pool.waits[i]? with
    | some w => if w.arrival + s.pool.cls[w.cls].waitlim ≤ s.now then cueSettle (poolWaitEnd s w) else s
    | none => s)

/-- LEAVE_WAIT_LIMIT (R356). -/
def execLeaveWaitLimit (r : Fin 41) (s : State) : Result := .next (cueSettle (leaveWaitEnd s r))

/-! ### Elvuk commands (R240-R247) -/

/-- PING. -/
def execPing (r : Req) (s : State) : Result := .next (elvRow s r 0x0001 fun _ => cmdPing r)

/-- GET_INFO. -/
def execGetInfo (r : Req) (s : State) : Result := .next (elvRow s r 0x0002 fun _ => cmdGetInfo r)

/-- GET_FEATURES. -/
def execGetFeatures (r : Req) (s : State) : Result := .next (elvRow s r 0x0003 fun _ => cmdGetFeatures r)

/-- GET_RESET_HISTORY. -/
def execGetResetHistory (r : Req) (s : State) : Result := .next (elvRow s r 0x0004 fun _ => cmdGetResetHistory r)

/-- GET_BOOT_STATUS. -/
def execGetBootStatus (r : Req) (s : State) : Result := .next (elvRow s r 0x0005 fun _ => cmdGetBootStatus r)

/-- POWER_SET_STATE. -/
def execPowerSetState (r : Req) (s : State) : Result := .next (elvRow s r 0x0101 fun _ => cmdPowerSetState r)

/-- POWER_GET_STATE. -/
def execPowerGetState (r : Req) (s : State) : Result := .next (elvRow s r 0x0102 fun _ => cmdPowerGetState r)

/-- POWER_SET_WAKE. -/
def execPowerSetWake (r : Req) (s : State) : Result := .next (elvRow s r 0x0103 fun _ => cmdPowerSetWake r)

/-- POWER_SET_POINT. -/
def execPowerSetPoint (r : Req) (nack : Bool) (s : State) : Result := .next (elvRow s r 0x0104 fun s => cmdPowerSetPoint r nack s)

/-- LEAVE_SET_BUDGET. -/
def execLeaveSetBudget (r : Req) (s : State) : Result := .next (elvRow s r 0x0105 fun _ => cmdLeaveSetBudget r)

/-- LEAVE_GET_STATS. -/
def execLeaveGetStats (r : Req) (s : State) : Result := .next (elvRow s r 0x0106 fun _ => cmdLeaveGetStats r)

/-- CORE_POWER. -/
def execCorePower (r : Req) (s : State) : Result := .next (elvRow s r 0x0107 fun s => cmdCorePower r s)

/-- DOMAIN_DARK. -/
def execDomainDark (r : Req) (s : State) : Result := .next (elvRow s r 0x0108 fun s => cmdDomainDark r s)

/-- INSTALL_BEGIN. -/
def execInstallBegin (r : Req) (stop : Option Nat) (fail : Option FlashFail) (s : State) : Result := .next (elvRow s r 0x0201 fun s => cmdInstallBegin r stop fail s)

/-- INSTALL_DATA. -/
def execInstallData (r : Req) (stop : Option Nat) (fail : Option FlashFail) (s : State) : Result := .next (elvRow s r 0x0202 fun s => cmdInstallData r stop fail s)

/-- INSTALL_END. -/
def execInstallEnd (r : Req) (stop : Option Nat) (fail : Option FlashFail) (s : State) : Result := .next (elvRow s r 0x0203 fun s => cmdInstallEnd r stop fail s)

/-- IMAGE_CONFIRM. -/
def execImageConfirm (r : Req) (stop : Option Nat) (fail : Option FlashFail) (s : State) : Result := .next (elvRow s r 0x0204 fun s => cmdImageConfirm r stop fail s)

/-- IMAGE_REJECT. -/
def execImageReject (r : Req) (stop : Option Nat) (fail : Option FlashFail) (s : State) : Result := .next (elvRow s r 0x0205 fun s => cmdImageReject r stop fail s)

/-- IMAGE_STATUS. -/
def execImageStatus (r : Req) (s : State) : Result := .next (elvRow s r 0x0206 fun _ => cmdImageStatus r)

/-- SET_READ. -/
def execSetRead (r : Req) (s : State) : Result := .next (elvRow s r 0x0301 fun s => cmdSetRead r s)

/-- SET_WRITE. -/
def execSetWrite (r : Req) (s : State) : Result := .next (elvRow s r 0x0302 fun s => cmdSetWrite r s)

/-- SET_DELETE. -/
def execSetDelete (r : Req) (s : State) : Result := .next (elvRow s r 0x0303 fun s => cmdSetDelete r s)

/-- SET_COMMIT. -/
def execSetCommit (r : Req) (stop : Option Nat) (fail : Option FlashFail) (s : State) : Result := .next (elvRow s r 0x0304 fun s => cmdSetCommit r stop fail s)

/-- SET_START_FRESH. -/
def execSetStartFresh (r : Req) (stop : Option Nat) (fail : Option FlashFail) (s : State) : Result := .next (elvRow s r 0x0305 fun s => cmdSetStartFresh r stop fail s)

/-- OTP_READ. -/
def execOtpRead (r : Req) (s : State) : Result := .next (elvRow s r 0x0401 fun _ => cmdOtpRead r)

/-- OTP_PROGRAM. -/
def execOtpProgram (r : Req) (pulses : List Pulse) (s : State) : Result := .next (elvRow s r 0x0402 fun s => cmdOtpProgram r pulses s)

/-- OTP_REINFORCE. -/
def execOtpReinforce (r : Req) (pulses : List Pulse) (s : State) : Result := .next (elvRow s r 0x0403 fun s => cmdOtpReinforce r pulses s)

/-- OTP_SCAN. -/
def execOtpScan (r : Req) (stop : Option Nat) (s : State) : Result := .next (elvRow s r 0x0404 fun s => cmdOtpScan r stop s)

/-- LIFECYCLE_ADVANCE. -/
def execLifecycleAdvance (r : Req) (pulses : List Pulse) (s : State) : Result := .next (elvRow s r 0x0405 fun s => cmdLifecycleAdvance r pulses s)

/-- AUTH_CHALLENGE. -/
def execAuthChallenge (r : Req) (nonce : List Byte) (s : State) : Result := .next (elvRow s r 0x0501 fun s => cmdAuthChallenge r nonce s)

/-- AUTH_RESPONSE. -/
def execAuthResponse (r : Req) (stop : Option Nat) (s : State) : Result := .next (elvRow s r 0x0502 fun s => cmdAuthResponse r stop s)

/-- AUTH_DROP. -/
def execAuthDrop (r : Req) (s : State) : Result := .next (elvRow s r 0x0503 fun _ => cmdAuthDrop r)

/-- AUTH_STATUS. -/
def execAuthStatus (r : Req) (s : State) : Result := .next (elvRow s r 0x0504 fun _ => cmdAuthStatus r)

/-- CEC_CONFIG. -/
def execCecConfig (r : Req) (s : State) : Result := .next (elvRow s r 0x0601 fun s => cmdCecConfig r s)

/-- CEC_SEND. -/
def execCecSend (r : Req) (s : State) : Result := .next (elvRow s r 0x0602 fun s => cmdCecSend r s)

/-- CEC_STANDBY_FILTER. -/
def execCecStandbyFilter (r : Req) (s : State) : Result := .next (elvRow s r 0x0603 fun _ => cmdCecStandbyFilter r)

/-- IR_CONFIG. -/
def execIrConfig (r : Req) (s : State) : Result := .next (elvRow s r 0x0701 fun _ => cmdIrConfig r)

/-- KEYPAD_CONFIG. -/
def execKeypadConfig (r : Req) (s : State) : Result := .next (elvRow s r 0x0702 fun s => cmdKeypadConfig r s)

/-- WAKE_KEYS. -/
def execWakeKeys (r : Req) (s : State) : Result := .next (elvRow s r 0x0703 fun _ => cmdWakeKeys r)

/-- LANE_FRAME. -/
def execLaneFrame (r : Req) (late : Bool) (s : State) : Result := .next (elvRow s r 0x0801 fun s => cmdLaneFrame r late s)

/-- LANE_SAFE_ALL. -/
def execLaneSafeAll (r : Req) (s : State) : Result := .next (elvRow s r 0x0802 fun _ => cmdLaneSafeAll r)

/-- WD_COUNT_READ. -/
def execWdCountRead (r : Req) (s : State) : Result := .next (elvRow s r 0x0901 fun _ => cmdWdCountRead r)

/-- WD_COUNT_CLEAR. -/
def execWdCountClear (r : Req) (s : State) : Result := .next (elvRow s r 0x0902 fun _ => cmdWdCountClear r)

/-- KEY_DERIVE. -/
def execKeyDerive (r : Req) (s : State) : Result := .next (elvRow s r 0x0A01 fun s => cmdKeyDerive r s)

/-- KEY_RELEASE. -/
def execKeyRelease (r : Req) (s : State) : Result := .next (elvRow s r 0x0A02 fun _ => cmdKeyRelease r)

/-- CORE_RESTART. -/
def execCoreRestart (r : Req) (s : State) : Result := .next (elvRow s r 0x0B01 fun s => cmdCoreRestart r s)

/-- CORE_QUARANTINE_STATUS. -/
def execCoreQuarantineStatus (r : Req) (s : State) : Result := .next (elvRow s r 0x0B02 fun _ => cmdCoreQuarantineStatus r)

end Sys2Proof.Machine
end

