-- ==== Sys2Proof/Machine/RowsIo.lean ====
section
/-!
DEFINITION. The commands that are an event of the watchdog, the timers, the lanes and their sequencers, the stat port, the
converters, the viewer inputs, the UARTs, the I2C controllers, the GPIO, the crypto engine and the trace collector (16, 18, 19, 20,
21, 22, 23). A command whose event cannot happen in the state it meets changes nothing (log entry 2).
-/

namespace Sys2Proof.Machine

/-! ### Watchdog and timers -/

/-- The count enters the open window (R374). -/
def execWdOpenWindow (s : State) : Result := .next (cueSettle (wdEnterOpen s))

/-- The count reaches 2^n (R374, R375). -/
def execWdExpiry (s : State) : Result := .next (wdEnd s)

/-- A block of 256 WDO ticks has ended (R369); TB advances in RUN and NAP. -/
def execWdWdomeasBlock (ticks : BitVec 24) (s : State) : Result :=
  .next (if s.pwr.mode = .standby then s else { s with wd := { s.wd with meas := ticks } })

/-- A step of timer t that finds COUNT equal to the TOP in force (R381). -/
def execTimerOverflow (t : Fin 8) (s : State) : Result :=
  let k := s.time.tmr[t]
  .next (if tmrDue k && decide (k.count = k.topNow) && s.pwr.mode ≠ .standby then cueSettle (tmrStepNow s t) else s)

/-- A step of timer t that makes COUNT equal to COMPARE (R382). -/
def execTimerMatch (t : Fin 8) (s : State) : Result :=
  let k := s.time.tmr[t]
  .next (if tmrDue k && (tmrStep k).2.2 && s.pwr.mode ≠ .standby then cueSettle (tmrStepNow s t) else s)

/-- A selected edge (R383). -/
def execTimerCapture (t : Fin 8) (s : State) : Result :=
  .next (if s.pwr.mode = .standby then s else tmrCapture s t)

/-! ### Lanes -/

/-- A lane event: the lane is present and its domain is up, with LCLK running. -/
def laneEvent (s : State) (n : Fin 24) (f : State → State) : State :=
  if lanePresent s n && lanesUp s && s.pwr.mode = .run then cueSettle (f s) else s

/-- FRAME_EVENT of the source that LANE_FSRC selects (R402, R403): an edge of VSYNC. A MARK packet brings its own. -/
def execFrameEvent (src : BitVec 2) (s : State) : Result :=
  .next (if src = s.laneBlk.fsrc && decide (src.toNat < 2) then cueSettle (laneFrameEvent s) else s)

/-- A sample falls due (R394). -/
def execLaneSampleRequest (n : Fin 24) (s : State) : Result := .next (laneEvent s n fun s => laneSampleDue s n)

/-- A sample reaches its lane (R395, R397). -/
def execLaneSampleResult (n : Fin 24) (s : State) : Result := .next (laneEvent s n fun s => laneSample s n)

/-- An edge of the lane's capture input (R396). -/
def execLaneCapture (n : Fin 24) (rising : Bool) (s : State) : Result := .next (laneEvent s n fun s => laneCaptureEdge s n rising)

/-- No edge for TACHTO (R396). -/
def execTachTimeout (n : Fin 24) (s : State) : Result := .next (laneEvent s n fun s => laneStall s n)

/-- The next PWM period (R391). -/
def execLanePwmPeriod (n : Fin 24) (s : State) : Result := .next (laneEvent s n fun s => lanePeriod s n)

/-! ### The sequencer (R400) -/

/-- One sequencer word of lane n: the word that its program holds at the slot it fetches now, judged at fetch. -/
def seqRun (s : State) (n : Fin 24) (w : Word) (f : State → State) : State :=
  laneEvent s n fun s => if !seqAt s n w then s
    else if seqBad s w then laneFault (updLane s n fun l => { l with slot := seqSlot l }) n 5 else f s

/-- When the word at hand started, in LCLK periods: at the instant that a WAIT_LC before it named, else now. -/
def seqStart (s : State) (n : Fin 24) : Nat :=
  match s.lane[n].swait with
  | some (.lclk t) => if t = 0 then 8 * s.now else t
  | _ => 8 * s.now

/-- A sequencer word: OP and the rest. -/
def seqWord (op rest : Nat) : Word := natW (op * 2 ^ 28 + rest)

def execStop (n : Fin 24) (s : State) : Result :=
  .next (seqRun s n (seqWord 0 0) fun s => updLane s n fun l => { l with slot := seqSlot l, swait := none, seqrun := false })

def execLevel (n : Fin 24) (k : BitVec 2) (s : State) : Result :=
  .next (seqRun s n (seqWord 1 k.toNat) fun s => seqNext (updLane s n fun l => laneLevel l k) n)

def execWaitLc (n : Fin 24) (periods : BitVec 24) (s : State) : Result :=
  .next (seqRun s n (seqWord 2 periods.toNat) fun s => seqHold s n (.lclk (seqStart s n + periods.toNat)))

def execWaitFrame (n : Fin 24) (s : State) : Result :=
  .next (seqRun s n (seqWord 3 0) fun s => seqHold s n .frame)

def execWaitCap (n : Fin 24) (lane : BitVec 5) (s : State) : Result :=
  .next (seqRun s n (seqWord 4 lane.toNat) fun s => match seqLane s lane.toNat with
    | some m => seqHold s n (.cap m)
    | none => s)

def execWaitPh (n : Fin 24) (lane : BitVec 5) (ph : BitVec 16) (s : State) : Result :=
  .next (seqRun s n (seqWord 5 (lane.toNat * 65536 + ph.toNat)) fun s => match seqLane s lane.toNat with
    | some m => seqHold s n (.phase m ph.toNat)
    | none => s)

def execJump (n : Fin 24) (slot : BitVec 4) (s : State) : Result :=
  .next (seqRun s n (seqWord 6 slot.toNat) fun s => seqGo s n slot.toFin)

def execLoopn (n : Fin 24) (cnt : BitVec 8) (slot : BitVec 4) (s : State) : Result :=
  .next (seqRun s n (seqWord 7 (cnt.toNat * 16 + slot.toNat)) fun s => seqLoop s n cnt.toNat slot.toFin)

def execPost (n : Fin 24) (code : BitVec 8) (s : State) : Result :=
  .next (seqRun s n (seqWord 8 code.toNat) fun s =>
    seqNext (lanePost (updLane s n fun l => { l with evt := l.evt.raise 1 }) n 2 code.toNat) n)

/-- A word as its 32 bits say it: the row stands for the undefined and the malformed ones, which raise SEQ_OP. -/
def execSeqOp (n : Fin 24) (w : Word) (s : State) : Result := .next (seqRun s n w fun s => s)

/-! ### Stat port -/

/-- DATA and MARK packets that arrived whole (R408, R409), and packets discarded (R408, R410). -/
def execStatDataPacket (seq : BitVec 8) (payload : List Byte) (s : State) : Result := .next (cueSettle (statDataIn s seq payload))
def execStatMarkPacket (seq : BitVec 8) (frame : Word) (s : State) : Result := .next (cueSettle (statMarkIn s seq frame))
def execStatBadPacket (s : State) : Result := .next (statBad s)
def execStatOverrun (s : State) : Result := .next (statOver s)

/-! ### Converters and setpoint outputs -/

/-- An event of the ANALOG domain. -/
def anaEvent (s : State) (f : State → State) : State :=
  if anaUp s && s.pwr.mode ≠ .standby then cueSettle (f s) else s

/-- CAL_DONE (R421), CONVERSION_DONE (R416), RANGE_SWITCH and RANGE_SETTLED (R426, R427). -/
def execCalDone (a : Fin 4) (ofs : Int) (gain : Nat) (s : State) : Result := .next (anaEvent s fun s => adcCalEnd s a ofs gain)
def execConversionDone (a : Fin 4) (raw : BitVec 12) (s : State) : Result := .next (anaEvent s fun s => adcConvDone s a raw)
def execRangeSwitch (d : Fin 8) (s : State) : Result := .next (anaEvent s fun s => spdSwitch s d)
def execRangeSettled (d : Fin 8) (s : State) : Result := .next (anaEvent s fun s => spdSettle s d)

/-! ### Viewer inputs -/

/-- A CEC frame on the line (R435), and an early bit period in one (R434). -/
def execCecFrameReceived (blocks : List Byte) (sside : Option Bool) (s : State) : Result :=
  .next (cueSettle (cecReceive s blocks sside))
def execCecRxLineError (initiator dest : BitVec 4) (sside : Option Bool) (s : State) : Result :=
  let _ := initiator
  .next (cecLineError s dest.toNat sside)

/-- An IR frame that has ended at GAP (R443). -/
def execIrFrameEnd (i : Fin 2) (durations : List Nat) (s : State) : Result := .next (cueSettle (irFrame s i durations))

/-- The keypad: its press detector (R452), a sample (R450), a repeat (R451). -/
def execKeypadPressDetect (down : Bool) (s : State) : Result := .next (kpdPress s down)
def execKeypadSample (s : State) : Result := .next (cueSettle (kpdSample s))
def execKeypadRepeat (s : State) : Result := .next (cueSettle (kpdRepeat s))

/-! ### Serial and GPIO -/

/-- UART reception (R456, R458) and transmission (R457, R458). -/
def execUartRxChar (u : Fin 2) (data : Byte) (parityErr framingErr : Bool) (s : State) : Result :=
  .next (cueSettle (uartRx s u data parityErr framingErr))
def execUartIdle (u : Fin 2) (s : State) : Result := .next (cueSettle (uartIdleRx s u))
def execUartTxCharDone (u : Fin 2) (s : State) : Result := .next (cueSettle (uartSent s u))
def execUartCtsChange (u : Fin 2) (high : Bool) (s : State) : Result := .next (cueSettle (uartCtsSet s u high))
def execUartBreakReceived (u : Fin 2) (s : State) : Result := .next (cueSettle (uartBreakRx s u))

/-- The end of an I2C transfer (R462, R463), and its timeout (R462). -/
def execI2cTransferEnd (i : Fin 2) (e : I2cEnd) (s : State) : Result := .next (cueSettle (i2cEnd s i e))
def execI2cStretchTimeout (i : Fin 2) (moved : Nat) (data : List Byte) (s : State) : Result :=
  .next (cueSettle (i2cTimeout s i moved data))

/-- An edge on a pin (R465). -/
def execGpioEdge (pin : Fin 32) (rising : Bool) (s : State) : Result := .next (cueSettle (gpioEdgeSet s pin rising))

/-- A falling edge on GPIO0 or GPIO1 at the detector of AOE (R351, R466). -/
def execGpioWakeEdge (pin : Fin 2) (s : State) : Result := .next (wakeArmed s (5 + pin.val))

/-! ### Crypto and trace -/

/-- The end of a job of either context (R329): the first whose work is done. -/
def execCryJobEnd (s : State) : Result := .next (cueSettle (cryComplete (cryComplete s false) true))

/-- ENTROPY_TEST_FAIL (R322). -/
def execEntropyTestFail (s : State) : Result := .next (entropyFail s)

/-- TRACE_OVF (R476). -/
def execTraceOvf (s : State) : Result := .next (trcOvf s)

end Sys2Proof.Machine
end

