-- ==== Sys2Proof/Machine/RowsPower.lean ====
section
/-!
DEFINITION. Resets, the start-up, power states and domains (13, 17), faults and recovery (24), and the attempts of CEC (21).
-/

namespace Sys2Proof.Machine

/-! ### Resets (R249-R252) -/

/-- A reset, with the host link as the HSEL pin then selects it (R201). -/
def pinReset (s : State) (cause : Byte) (hsel : Bool) : State :=
  let t := deviceReset s cause 0
  { t with link := { t.link with mode := hsel } }

/-- POWER_ON_RESET and NRESET (R250, R251). -/
def execPowerOnReset (hsel : Bool) (s : State) : Result := .next (pinReset s 1 hsel)
def execNreset (hsel : Bool) (s : State) : Result := .next (pinReset s 2 hsel)

/-- ELVUK_RESET (R241, R249): a trap in Elvuk, or the order of an OK IMAGE_REJECT once its caller has the reply. -/
def execElvukReset (trap : Bool) (s : State) : Result :=
  .next (if trap then deviceReset s 4 2
    else match s.elv.reject with
      | some o => if orderDue s o then deviceReset s 4 1 else s
      | none => s)

/-- ESCALATION (R501). -/
def execEscalation (s : State) : Result := .next (match s.fatal with | some code => deviceReset s 5 code | none => s)

/-! ### Start-up (R253-R275) -/

def execFirstStage (fail : Option FlashFail) (s : State) : Result := .next (firstStage s fail)
def execCoreRelease (s : State) : Result := .next (coreRelease s)
def execVerifyPass (us : Word) (s : State) : Result := .next (verifyPass s us.toNat)
def execVerifyFail (s : State) : Result := .next (verifyFail s)

/-! ### Power states (R349-R353) -/

/-- NAP_ENTRY (R349 orders 3 to 6, those still to be made), once Elvuk's commands have completed and unless a wake has abandoned the entry. -/
def execNapEntry (nack : Bool) (s : State) : Result :=
  .next (if napReady s then napEnter s nack else s)

/-- NAP_WAKE (R350, R352): the source that the arbiter of AOE records, of those accepted. -/
def execNapWake (reason : BitVec 4) (s : State) : Result :=
  .next (if s.pwr.wakes.contains reason.toNat && (s.pwr.mode = .nap || s.pwr.entering = some .nap)
    then cueSettle (dbgHeldRun (napLeave s reason)) else s)

def execStandbyEntry (s : State) : Result := .next (standbyEntry s)
def execStandbyWake (reason : BitVec 4) (early : Bool) (rtcPeriods : Nat) (us : Word) (s : State) : Result :=
  .next (standbyWake s reason early rtcPeriods us.toNat)

/-- RTC_ALARM (R351). In STANDBY the row itself brings the seconds to the alarm (R27, R28). -/
def execRtcAlarm (s : State) : Result :=
  .next (if s.pwr.mode = .standby && s.pwr.alarmArmed
    then alarmDue { s with time := { s.time with rtc := max s.time.rtc (s.pwr.alarm.toNat * 32768) } } else alarmDue s)

/-! ### Domains (R344-R348, R355, R361) -/

/-- DOMAIN_CUT (R344 orders 4-6): the command that took the domain down replies. -/
def execDomainCut (code : Fin 32) (s : State) : Result :=
  .next (if cutReady s code then elvFinish (domainDarken s code) (.cut code) stOk else s)

/-- Whether a command still waits for the inrush leave of a core's domain. -/
def upAwaited (s : State) (code : Fin 32) : Bool :=
  match domCore code with | some c => s.elv.jobs.any fun j => j.stage = .leave (rCore c) | none => false

/-- DOMAIN_UP_DONE (R346): a command that waits for it replies, and one that takes the domain down again begins. -/
def execDomainUpDone (code : Fin 32) (s : State) : Result :=
  .next (if s.pwr.coming.contains code && !s.pwr.drain.getLsbD code.val && !domIsUp s code && s.pwr.mode = .run && !upAwaited s code then
      let s := elvFinish (domainUp s code) (.up code) stOk
      cueSettle (if s.elv.jobs.any fun j => j.stage = .cut code then drainStart s code else s)
    else s)

/-- VSET_SETTLED (R361): the POWER_SET_POINT that waits replies. -/
def execVsetSettled (s : State) : Result :=
  .next (elvFinish { s with pwr := { s.pwr with vsetBusy := false } } .vset stOk)

/-- WAKE_RETRY (R355): the inrush of a HELD send's core is asked for again, 1 ms after its refusal. -/
def execWakeRetry (c : Core) (s : State) : Result :=
  .next (match s.pwr.retry[c] with
    | some t => if t + 24000 ≤ s.now then askCore { s with pwr := { s.pwr with retry := putV s.pwr.retry c none } } c else s
    | none => s)

/-! ### CEC (R437-R439) -/

def execCecAttempt (o : CecOutcome) (sside : Option Bool) (s : State) : Result :=
  .next (if s.pwr.mode = .standby || s.cec.tx.isNone then s else cecAttempted (cecSide s sside) o)
def execCecPoll (acked : Bool) (sside : Option Bool) (s : State) : Result :=
  .next (if s.pwr.mode = .standby || s.cec.poll.isNone then s else cecPolled (cecSide s sside) acked)

/-! ### Faults and recovery (R497-R504) -/

/-- EC_POST (R497, R498). -/
def execEcPost (s : State) : Result := .next (cueSettle (ecPostHead s))

/-- The conditions in which the count of R502 does not run. -/
def progressHeld (s : State) (c : Core) : Bool :=
  let k := s.cores[c]
  k.run ≠ .running || k.stopped || coreBlocked s c || s.pwr.drain.getLsbD (2 + c.val) || s.pwr.mode ≠ .run

/-- NO_PROGRESS (R502). -/
def execNoProgress (c : Core) (s : State) : Result :=
  .next (if !progressHeld s c && decide (s.cores[c].stepTb + 2 ^ 20 ≤ s.now) then machineCheck s c 4 0 s.cores[c].pc else s)

/-- Order 5 of R503: what the core holds. -/
def coreForget (s : State) (c : Core) : State :=
  let s := unbindAll s c
  let s := { s with pool := { s.pool with tags := s.pool.tags.map fun t => if t.st = 1 && decide (t.owner.toNat = c.val) then { t with st := 3 } else t } }
  installCut (keyDropOwner s c) (.core c)

/-- QUARANTINE (R503) of a core that has raised a machine check. -/
def execQuarantine (c : Core) (s : State) : Result :=
  .next (if s.cores[c].run = .check && s.fatal.isNone then
      let s := coreForget (coreStop s c 8) c
      let s := domainDarken { s with pwr := { s.pwr with heldUp := s.pwr.heldUp.filter (· ≠ coreDom c) } } (coreDom c)
      let s := elvFinish (s.updCore c fun k => { k with run := .quarantined }) (.cut (coreDom c)) stOk
      cueSettle (linkEvent s 0x8002 [natB c.val, natB s.cores[c].reason.toNat])
    else s)

end Sys2Proof.Machine
end

