-- ==== Sys2Proof/Machine/RowsTwiard.lean ====
section
/-!
DEFINITION. The commands that are one Twiard word of a stage core (04, 05): the row gives the word's fields, and the core runs it at
its pc (log entry 2).
-/

namespace Sys2Proof.Machine

/-- ADDI (R63). -/
def execAddi (c : Core) (p : Pace) (d a : Reg) (imm : BitVec 17) (s : State) : Result := .next (runWord s c p (.imm .addi d a imm))

/-- ANDI (R63). -/
def execAndi (c : Core) (p : Pace) (d a : Reg) (imm : BitVec 17) (s : State) : Result := .next (runWord s c p (.imm .andi d a imm))

/-- ORI (R63). -/
def execOri (c : Core) (p : Pace) (d a : Reg) (imm : BitVec 17) (s : State) : Result := .next (runWord s c p (.imm .ori d a imm))

/-- CMPI (R63, R66). -/
def execCmpi (c : Core) (p : Pace) (a : Reg) (imm : BitVec 17) (s : State) : Result := .next (runWord s c p (.cmpi a imm))

/-- LUI (R63). -/
def execLui (c : Core) (p : Pace) (d : Reg) (imm : BitVec 21) (s : State) : Result := .next (runWord s c p (.lui d imm))

/-- ADD (R64, R66). -/
def execAdd (c : Core) (p : Pace) (d a b : Reg) (f : Bool) (s : State) : Result := .next (runWord s c p (.alu .add d a b f))

/-- SUB (R64, R66). -/
def execSub (c : Core) (p : Pace) (d a b : Reg) (f : Bool) (s : State) : Result := .next (runWord s c p (.alu .sub d a b f))

/-- AND (R64, R66). -/
def execAnd (c : Core) (p : Pace) (d a b : Reg) (f : Bool) (s : State) : Result := .next (runWord s c p (.alu .and d a b f))

/-- OR (R64, R66). -/
def execOr (c : Core) (p : Pace) (d a b : Reg) (f : Bool) (s : State) : Result := .next (runWord s c p (.alu .or d a b f))

/-- XOR (R64, R66). -/
def execXor (c : Core) (p : Pace) (d a b : Reg) (f : Bool) (s : State) : Result := .next (runWord s c p (.alu .xor d a b f))

/-- SHIFTI (R64, R66). -/
def execShifti (c : Core) (p : Pace) (d a : Reg) (f : Bool) (kind : BitVec 2) (amount : BitVec 5) (s : State) : Result := .next (runWord s c p (.shifti d a f kind amount))

/-- SHIFT (R64, R66). -/
def execShift (c : Core) (p : Pace) (d a b : Reg) (f : Bool) (kind : BitVec 2) (s : State) : Result := .next (runWord s c p (.shift d a b f kind))

/-- EXT (R64, R67). -/
def execExt (c : Core) (p : Pace) (d a : Reg) (sign : Bool) (width1 pos : BitVec 5) (s : State) : Result := .next (runWord s c p (.ext d a sign width1 pos))

/-- INS (R64, R67). -/
def execIns (c : Core) (p : Pace) (d a : Reg) (width1 pos : BitVec 5) (s : State) : Result := .next (runWord s c p (.ins d a width1 pos))

/-- MUL (R64, R66). -/
def execMul (c : Core) (p : Pace) (d a b : Reg) (f : Bool) (s : State) : Result := .next (runWord s c p (.alu .mul d a b f))

/-- MULH (R64, R66). -/
def execMulh (c : Core) (p : Pace) (d a b : Reg) (f : Bool) (s : State) : Result := .next (runWord s c p (.alu .mulh d a b f))

/-- MULHU (R64, R66). -/
def execMulhu (c : Core) (p : Pace) (d a b : Reg) (f : Bool) (s : State) : Result := .next (runWord s c p (.alu .mulhu d a b f))

/-- DIV (R64, R65). -/
def execDiv (c : Core) (p : Pace) (d a b r : Reg) (f : Bool) (s : State) : Result := .next (runWord s c p (.div true d a b r f))

/-- DIVU (R64, R65). -/
def execDivu (c : Core) (p : Pace) (d a b r : Reg) (f : Bool) (s : State) : Result := .next (runWord s c p (.div false d a b r f))

/-- LDW (R63). -/
def execLdw (c : Core) (p : Pace) (d a : Reg) (imm : BitVec 17) (s : State) : Result := .next (runWord s c p (.load .w d a imm))

/-- LDH (R63). -/
def execLdh (c : Core) (p : Pace) (d a : Reg) (imm : BitVec 17) (s : State) : Result := .next (runWord s c p (.load .h d a imm))

/-- LDHU (R63). -/
def execLdhu (c : Core) (p : Pace) (d a : Reg) (imm : BitVec 17) (s : State) : Result := .next (runWord s c p (.load .hu d a imm))

/-- LDB (R63). -/
def execLdb (c : Core) (p : Pace) (d a : Reg) (imm : BitVec 17) (s : State) : Result := .next (runWord s c p (.load .b d a imm))

/-- LDBU (R63). -/
def execLdbu (c : Core) (p : Pace) (d a : Reg) (imm : BitVec 17) (s : State) : Result := .next (runWord s c p (.load .bu d a imm))

/-- STW (R63). -/
def execStw (c : Core) (p : Pace) (d a : Reg) (imm : BitVec 17) (s : State) : Result := .next (runWord s c p (.store .w d a imm))

/-- STH (R63). -/
def execSth (c : Core) (p : Pace) (d a : Reg) (imm : BitVec 17) (s : State) : Result := .next (runWord s c p (.store .h d a imm))

/-- STB (R63). -/
def execStb (c : Core) (p : Pace) (d a : Reg) (imm : BitVec 17) (s : State) : Result := .next (runWord s c p (.store .b d a imm))

/-- SWAP (R64, R132). -/
def execSwap (c : Core) (p : Pace) (d a b : Reg) (s : State) : Result := .next (runWord s c p (.atomic .swap d a b))

/-- CAS (R64, R132). -/
def execCas (c : Core) (p : Pace) (d a b : Reg) (s : State) : Result := .next (runWord s c p (.atomic .cas d a b))

/-- FADD (R64, R132). -/
def execFadd (c : Core) (p : Pace) (d a b : Reg) (s : State) : Result := .next (runWord s c p (.atomic .fadd d a b))

/-- FENCE (R107, R131). -/
def execFence (c : Core) (p : Pace) (s : State) : Result := .next (runWord s c p .fence)

/-- QPUT (R64, R171). -/
def execQput (c : Core) (p : Pace) (d a b : Reg) (s : State) : Result := .next (runWord s c p (.qput d a b))

/-- QGET (R64, R177). -/
def execQget (c : Core) (p : Pace) (d a : Reg) (s : State) : Result := .next (runWord s c p (.qget d a))

/-- B (R62, R75). -/
def execB (c : Core) (p : Pace) (cond : BitVec 4) (off : BitVec 21) (s : State) : Result := .next (runWord s c p (.b cond off))

/-- JMP (R62, R75). -/
def execJmp (c : Core) (p : Pace) (off : BitVec 25) (s : State) : Result := .next (runWord s c p (.jmp off))

/-- CALL (R62, R85). -/
def execCall (c : Core) (p : Pace) (off : BitVec 25) (s : State) : Result := .next (runWord s c p (.call off))

/-- JR (R64, R75). -/
def execJr (c : Core) (p : Pace) (a : Reg) (s : State) : Result := .next (runWord s c p (.jr a))

/-- CALLR (R64, R85). -/
def execCallr (c : Core) (p : Pace) (a : Reg) (s : State) : Result := .next (runWord s c p (.callr a))

/-- RET (R64, R85). -/
def execRet (c : Core) (p : Pace) (s : State) : Result := .next (runWord s c p .ret)

/-- RETT (R64, R94). -/
def execRett (c : Core) (p : Pace) (s : State) : Result := .next (runWord s c p .rett)

/-- SYSCALL (R64, R89). -/
def execSyscall (c : Core) (p : Pace) (code : BitVec 16) (s : State) : Result := .next (runWord s c p (.syscall code))

/-- BREAK (R64, R89). -/
def execBreak (c : Core) (p : Pace) (code : BitVec 16) (s : State) : Result := .next (runWord s c p (.brk code))

/-- MFSR (R64, R81). -/
def execMfsr (c : Core) (p : Pace) (d : Reg) (sr : BitVec 12) (s : State) : Result := .next (runWord s c p (.mfsr d sr))

/-- MTSR (R64, R81). -/
def execMtsr (c : Core) (p : Pace) (a : Reg) (sr : BitVec 12) (s : State) : Result := .next (runWord s c p (.mtsr a sr))

/-- RSSAVE (R86). -/
def execRssave (c : Core) (p : Pace) (a : Reg) (s : State) : Result := .next (runWord s c p (.rssave a))

/-- RSLOAD (R86). -/
def execRsload (c : Core) (p : Pace) (a : Reg) (s : State) : Result := .next (runWord s c p (.rsload a))

/-- WAIT (R99). -/
def execWait (c : Core) (p : Pace) (s : State) : Result := .next (runWord s c p .wait)

/-- A pair word (R69-R74). -/
def execPairWord (c : Core) (p : Pace) (sa sb : Slot) (s : State) : Result := .next (runWord s c p (.pair sa sb))

/-- A word as its 32 bits say it: one that decode refuses raises ILLEGAL (R76-R78). -/
def execUndefinedOpcode (c : Core) (p : Pace) (w : Word) (s : State) : Result := .next (runWord s c p (decodeWord w))

end Sys2Proof.Machine
end

