-- ==== Sys2Proof/Machine/Dispatch.lean ====
section
/-!
DEFINITION. Which meaning each command of spec/opcode_table.json has: one arm per constructor of `Instr`, in the table's order.
-/

namespace Sys2Proof.Machine

/-- The effect of one command on everything but the queue of waiting commands. -/
def exec (i : Instr) (s : State) : Host.Outcome State Fault Refusal :=
  match i with
  | .addi c p d a imm => Sys2Proof.Machine.execAddi c p d a imm s
  | .andi c p d a imm => Sys2Proof.Machine.execAndi c p d a imm s
  | .ori c p d a imm => Sys2Proof.Machine.execOri c p d a imm s
  | .cmpi c p a imm => Sys2Proof.Machine.execCmpi c p a imm s
  | .lui c p d imm => Sys2Proof.Machine.execLui c p d imm s
  | .add c p d a b f => Sys2Proof.Machine.execAdd c p d a b f s
  | .sub c p d a b f => Sys2Proof.Machine.execSub c p d a b f s
  | .and c p d a b f => Sys2Proof.Machine.execAnd c p d a b f s
  | .or c p d a b f => Sys2Proof.Machine.execOr c p d a b f s
  | .xor c p d a b f => Sys2Proof.Machine.execXor c p d a b f s
  | .shifti c p d a f kind amount => Sys2Proof.Machine.execShifti c p d a f kind amount s
  | .shift c p d a b f kind => Sys2Proof.Machine.execShift c p d a b f kind s
  | .ext c p d a sign width1 pos => Sys2Proof.Machine.execExt c p d a sign width1 pos s
  | .ins c p d a width1 pos => Sys2Proof.Machine.execIns c p d a width1 pos s
  | .mul c p d a b f => Sys2Proof.Machine.execMul c p d a b f s
  | .mulh c p d a b f => Sys2Proof.Machine.execMulh c p d a b f s
  | .mulhu c p d a b f => Sys2Proof.Machine.execMulhu c p d a b f s
  | .div c p d a b r f => Sys2Proof.Machine.execDiv c p d a b r f s
  | .divu c p d a b r f => Sys2Proof.Machine.execDivu c p d a b r f s
  | .ldw c p d a imm => Sys2Proof.Machine.execLdw c p d a imm s
  | .ldh c p d a imm => Sys2Proof.Machine.execLdh c p d a imm s
  | .ldhu c p d a imm => Sys2Proof.Machine.execLdhu c p d a imm s
  | .ldb c p d a imm => Sys2Proof.Machine.execLdb c p d a imm s
  | .ldbu c p d a imm => Sys2Proof.Machine.execLdbu c p d a imm s
  | .stw c p d a imm => Sys2Proof.Machine.execStw c p d a imm s
  | .sth c p d a imm => Sys2Proof.Machine.execSth c p d a imm s
  | .stb c p d a imm => Sys2Proof.Machine.execStb c p d a imm s
  | .swap c p d a b => Sys2Proof.Machine.execSwap c p d a b s
  | .cas c p d a b => Sys2Proof.Machine.execCas c p d a b s
  | .fadd c p d a b => Sys2Proof.Machine.execFadd c p d a b s
  | .fence c p => Sys2Proof.Machine.execFence c p s
  | .qput c p d a b => Sys2Proof.Machine.execQput c p d a b s
  | .qget c p d a => Sys2Proof.Machine.execQget c p d a s
  | .b c p cond off => Sys2Proof.Machine.execB c p cond off s
  | .jmp c p off => Sys2Proof.Machine.execJmp c p off s
  | .call c p off => Sys2Proof.Machine.execCall c p off s
  | .jr c p a => Sys2Proof.Machine.execJr c p a s
  | .callr c p a => Sys2Proof.Machine.execCallr c p a s
  | .ret c p => Sys2Proof.Machine.execRet c p s
  | .rett c p => Sys2Proof.Machine.execRett c p s
  | .syscall c p code => Sys2Proof.Machine.execSyscall c p code s
  | .break c p code => Sys2Proof.Machine.execBreak c p code s
  | .mfsr c p d sr => Sys2Proof.Machine.execMfsr c p d sr s
  | .mtsr c p a sr => Sys2Proof.Machine.execMtsr c p a sr s
  | .rssave c p a => Sys2Proof.Machine.execRssave c p a s
  | .rsload c p a => Sys2Proof.Machine.execRsload c p a s
  | .wait c p => Sys2Proof.Machine.execWait c p s
  | .pairWord c p sa sb => Sys2Proof.Machine.execPairWord c p sa sb s
  | .undefinedOpcode c p w => Sys2Proof.Machine.execUndefinedOpcode c p w s
  | .listenTrap c slip => Sys2Proof.Machine.execListenTrap c slip s
  | .lineFetchComplete c => Sys2Proof.Machine.execLineFetchComplete c s
  | .storeBufferEntryComplete c timeout => Sys2Proof.Machine.execStoreBufferEntryComplete c timeout s
  | .bufferedBusTrap c slip => Sys2Proof.Machine.execBufferedBusTrap c slip s
  | .lsnBind c slot v => Sys2Proof.Machine.execLsnBind c slot v s
  | .metCtrl c v => Sys2Proof.Machine.execMetCtrl c v s
  | .registerWrite p addr v => Sys2Proof.Machine.execRegisterWrite p addr v s
  | .sequencedClear p addr v => Sys2Proof.Machine.execSequencedClear p addr v s
  | .paceStart p v => Sys2Proof.Machine.execPaceStart p v s
  | .paceDone steps => Sys2Proof.Machine.execPaceDone steps s
  | .bwrGrant arrive nextWindow => Sys2Proof.Machine.execBwrGrant arrive nextWindow s
  | .bwrWindowEdge => Sys2Proof.Machine.execBwrWindowEdge s
  | .bwrCtrl p v => Sys2Proof.Machine.execBwrCtrl p v s
  | .fabTagalloc p m v => Sys2Proof.Machine.execFabTagalloc p m v s
  | .fabricTimeout k => Sys2Proof.Machine.execFabricTimeout k s
  | .transactionAnswer n => Sys2Proof.Machine.execTransactionAnswer n s
  | .dmaStart p ch v => Sys2Proof.Machine.execDmaStart p ch v s
  | .dmaStop p ch => Sys2Proof.Machine.execDmaStop p ch s
  | .dmaChunkDone ch => Sys2Proof.Machine.execDmaChunkDone ch s
  | .openQ p rsv q => Sys2Proof.Machine.execOpenQ p rsv q s
  | .closeQ p rsv q => Sys2Proof.Machine.execCloseQ p rsv q s
  | .configQ p rsv q => Sys2Proof.Machine.execConfigQ p rsv q s
  | .retargetQ p rsv q => Sys2Proof.Machine.execRetargetQ p rsv q s
  | .flushQ p rsv q => Sys2Proof.Machine.execFlushQ p rsv q s
  | .readQ p rsv q => Sys2Proof.Machine.execReadQ p rsv q s
  | .tableQ p rsv q => Sys2Proof.Machine.execTableQ p rsv q s
  | .tableCopyDone => Sys2Proof.Machine.execTableCopyDone s
  | .poolAlloc p => Sys2Proof.Machine.execPoolAlloc p s
  | .poolFree p h => Sys2Proof.Machine.execPoolFree p h s
  | .poolCfg p v => Sys2Proof.Machine.execPoolCfg p v s
  | .poolRes p cls v => Sys2Proof.Machine.execPoolRes p cls v s
  | .poolCap p cls v => Sys2Proof.Machine.execPoolCap p cls v s
  | .poolCtrlClr p v => Sys2Proof.Machine.execPoolCtrlClr p v s
  | .poolWaitLimit n => Sys2Proof.Machine.execPoolWaitLimit n s
  | .writeFrame bytes => Sys2Proof.Machine.execWriteFrame bytes s
  | .readFrame n => Sys2Proof.Machine.execReadFrame n s
  | .readStatus n => Sys2Proof.Machine.execReadStatus n s
  | .linkReset confirm => Sys2Proof.Machine.execLinkReset confirm s
  | .reservedLinkOpcode op n => Sys2Proof.Machine.execReservedLinkOpcode op n s
  | .frameAccept => Sys2Proof.Machine.execFrameAccept s
  | .userCommand r code => Sys2Proof.Machine.execUserCommand r code s
  | .userReply => Sys2Proof.Machine.execUserReply s
  | .userReplyIndirect => Sys2Proof.Machine.execUserReplyIndirect s
  | .userEvent => Sys2Proof.Machine.execUserEvent s
  | .userTimeout ch seq => Sys2Proof.Machine.execUserTimeout ch seq s
  | .ping r => Sys2Proof.Machine.execPing r s
  | .getInfo r => Sys2Proof.Machine.execGetInfo r s
  | .getFeatures r => Sys2Proof.Machine.execGetFeatures r s
  | .getResetHistory r => Sys2Proof.Machine.execGetResetHistory r s
  | .getBootStatus r => Sys2Proof.Machine.execGetBootStatus r s
  | .powerSetState r => Sys2Proof.Machine.execPowerSetState r s
  | .powerGetState r => Sys2Proof.Machine.execPowerGetState r s
  | .powerSetWake r => Sys2Proof.Machine.execPowerSetWake r s
  | .powerSetPoint r nack => Sys2Proof.Machine.execPowerSetPoint r nack s
  | .leaveSetBudget r => Sys2Proof.Machine.execLeaveSetBudget r s
  | .leaveGetStats r => Sys2Proof.Machine.execLeaveGetStats r s
  | .corePower r => Sys2Proof.Machine.execCorePower r s
  | .domainDark r => Sys2Proof.Machine.execDomainDark r s
  | .installBegin r stop fail => Sys2Proof.Machine.execInstallBegin r stop fail s
  | .installData r stop fail => Sys2Proof.Machine.execInstallData r stop fail s
  | .installEnd r stop fail => Sys2Proof.Machine.execInstallEnd r stop fail s
  | .imageConfirm r stop fail => Sys2Proof.Machine.execImageConfirm r stop fail s
  | .imageReject r stop fail => Sys2Proof.Machine.execImageReject r stop fail s
  | .imageStatus r => Sys2Proof.Machine.execImageStatus r s
  | .setRead r => Sys2Proof.Machine.execSetRead r s
  | .setWrite r => Sys2Proof.Machine.execSetWrite r s
  | .setDelete r => Sys2Proof.Machine.execSetDelete r s
  | .setCommit r stop fail => Sys2Proof.Machine.execSetCommit r stop fail s
  | .setStartFresh r stop fail => Sys2Proof.Machine.execSetStartFresh r stop fail s
  | .otpRead r => Sys2Proof.Machine.execOtpRead r s
  | .otpProgram r pulses => Sys2Proof.Machine.execOtpProgram r pulses s
  | .otpReinforce r pulses => Sys2Proof.Machine.execOtpReinforce r pulses s
  | .otpScan r stop => Sys2Proof.Machine.execOtpScan r stop s
  | .lifecycleAdvance r pulses => Sys2Proof.Machine.execLifecycleAdvance r pulses s
  | .authChallenge r nonce => Sys2Proof.Machine.execAuthChallenge r nonce s
  | .authResponse r stop => Sys2Proof.Machine.execAuthResponse r stop s
  | .authDrop r => Sys2Proof.Machine.execAuthDrop r s
  | .authStatus r => Sys2Proof.Machine.execAuthStatus r s
  | .challengeExpiry tap => Sys2Proof.Machine.execChallengeExpiry tap s
  | .cecConfig r => Sys2Proof.Machine.execCecConfig r s
  | .cecSend r => Sys2Proof.Machine.execCecSend r s
  | .cecStandbyFilter r => Sys2Proof.Machine.execCecStandbyFilter r s
  | .irConfig r => Sys2Proof.Machine.execIrConfig r s
  | .keypadConfig r => Sys2Proof.Machine.execKeypadConfig r s
  | .wakeKeys r => Sys2Proof.Machine.execWakeKeys r s
  | .laneFrame r late => Sys2Proof.Machine.execLaneFrame r late s
  | .laneSafeAll r => Sys2Proof.Machine.execLaneSafeAll r s
  | .wdCountRead r => Sys2Proof.Machine.execWdCountRead r s
  | .wdCountClear r => Sys2Proof.Machine.execWdCountClear r s
  | .keyDerive r => Sys2Proof.Machine.execKeyDerive r s
  | .keyRelease r => Sys2Proof.Machine.execKeyRelease r s
  | .coreRestart r => Sys2Proof.Machine.execCoreRestart r s
  | .coreQuarantineStatus r => Sys2Proof.Machine.execCoreQuarantineStatus r s
  | .eraseSector rsv => Sys2Proof.Machine.execEraseSector rsv s
  | .programLine rsv => Sys2Proof.Machine.execProgramLine rsv s
  | .flashOpDone fail => Sys2Proof.Machine.execFlashOpDone fail s
  | .otpCmdRead rsv => Sys2Proof.Machine.execOtpCmdRead rsv s
  | .readStrict rsv => Sys2Proof.Machine.execReadStrict rsv s
  | .otpCmdProgram rsv => Sys2Proof.Machine.execOtpCmdProgram rsv s
  | .otpCmdReinforce rsv => Sys2Proof.Machine.execOtpCmdReinforce rsv s
  | .scanWord rsv => Sys2Proof.Machine.execScanWord rsv s
  | .otpOpDone pulses => Sys2Proof.Machine.execOtpOpDone pulses s
  | .lvRequest rsv => Sys2Proof.Machine.execLvRequest rsv s
  | .lvRelease rsv => Sys2Proof.Machine.execLvRelease rsv s
  | .leaveWaitLimit r => Sys2Proof.Machine.execLeaveWaitLimit r s
  | .powerOnReset hsel => Sys2Proof.Machine.execPowerOnReset hsel s
  | .nreset hsel => Sys2Proof.Machine.execNreset hsel s
  | .firstStage fail => Sys2Proof.Machine.execFirstStage fail s
  | .coreRelease => Sys2Proof.Machine.execCoreRelease s
  | .verifyPass us => Sys2Proof.Machine.execVerifyPass us s
  | .verifyFail => Sys2Proof.Machine.execVerifyFail s
  | .elvukReset trap => Sys2Proof.Machine.execElvukReset trap s
  | .napEntry nack => Sys2Proof.Machine.execNapEntry nack s
  | .napWake reason => Sys2Proof.Machine.execNapWake reason s
  | .standbyEntry => Sys2Proof.Machine.execStandbyEntry s
  | .standbyWake reason early rtcPeriods us => Sys2Proof.Machine.execStandbyWake reason early rtcPeriods us s
  | .domainCut code => Sys2Proof.Machine.execDomainCut code s
  | .domainUpDone code => Sys2Proof.Machine.execDomainUpDone code s
  | .vsetSettled => Sys2Proof.Machine.execVsetSettled s
  | .wakeRetry c => Sys2Proof.Machine.execWakeRetry c s
  | .rtcAlarm => Sys2Proof.Machine.execRtcAlarm s
  | .wdCtrl p v => Sys2Proof.Machine.execWdCtrl p v s
  | .wdServiceKey1 p => Sys2Proof.Machine.execWdServiceKey1 p s
  | .wdServiceKey2 p => Sys2Proof.Machine.execWdServiceKey2 p s
  | .wdOpenWindow => Sys2Proof.Machine.execWdOpenWindow s
  | .wdExpiry => Sys2Proof.Machine.execWdExpiry s
  | .wdWdomeasBlock ticks => Sys2Proof.Machine.execWdWdomeasBlock ticks s
  | .tbLo p => Sys2Proof.Machine.execTbLo p s
  | .rtcFrac p => Sys2Proof.Machine.execRtcFrac p s
  | .timerOverflow t => Sys2Proof.Machine.execTimerOverflow t s
  | .timerMatch t => Sys2Proof.Machine.execTimerMatch t s
  | .timerCapture t => Sys2Proof.Machine.execTimerCapture t s
  | .tmrCount p t v writeFirst => Sys2Proof.Machine.execTmrCount p t v writeFirst s
  | .tmrCompare p t v writeFirst => Sys2Proof.Machine.execTmrCompare p t v writeFirst s
  | .laneCfg p n v => Sys2Proof.Machine.execLaneCfg p n v s
  | .safe p n => Sys2Proof.Machine.execSafe p n s
  | .clrsafe p n => Sys2Proof.Machine.execClrsafe p n s
  | .seqrestart p n => Sys2Proof.Machine.execSeqrestart p n s
  | .laneTgtNext p n v late => Sys2Proof.Machine.execLaneTgtNext p n v late s
  | .laneDuty p n v => Sys2Proof.Machine.execLaneDuty p n v s
  | .swframe p v => Sys2Proof.Machine.execSwframe p v s
  | .frameEvent src => Sys2Proof.Machine.execFrameEvent src s
  | .laneSampleRequest n => Sys2Proof.Machine.execLaneSampleRequest n s
  | .laneSampleResult n => Sys2Proof.Machine.execLaneSampleResult n s
  | .laneCapture n rising => Sys2Proof.Machine.execLaneCapture n rising s
  | .tachTimeout n => Sys2Proof.Machine.execTachTimeout n s
  | .stop n => Sys2Proof.Machine.execStop n s
  | .level n k => Sys2Proof.Machine.execLevel n k s
  | .waitLc n periods => Sys2Proof.Machine.execWaitLc n periods s
  | .waitFrame n => Sys2Proof.Machine.execWaitFrame n s
  | .waitCap n lane => Sys2Proof.Machine.execWaitCap n lane s
  | .waitPh n lane ph => Sys2Proof.Machine.execWaitPh n lane ph s
  | .jump n slot => Sys2Proof.Machine.execJump n slot s
  | .loopn n cnt slot => Sys2Proof.Machine.execLoopn n cnt slot s
  | .post n code => Sys2Proof.Machine.execPost n code s
  | .seqOp n w => Sys2Proof.Machine.execSeqOp n w s
  | .statDataPacket seq payload => Sys2Proof.Machine.execStatDataPacket seq payload s
  | .statMarkPacket seq frame => Sys2Proof.Machine.execStatMarkPacket seq frame s
  | .statBadPacket => Sys2Proof.Machine.execStatBadPacket s
  | .statOverrun => Sys2Proof.Machine.execStatOverrun s
  | .statCtrl p v => Sys2Proof.Machine.execStatCtrl p v s
  | .adcCtrl p a v => Sys2Proof.Machine.execAdcCtrl p a v s
  | .adcStart p a => Sys2Proof.Machine.execAdcStart p a s
  | .adcCal p a => Sys2Proof.Machine.execAdcCal p a s
  | .calDone a ofs gain => Sys2Proof.Machine.execCalDone a ofs gain s
  | .conversionDone a raw => Sys2Proof.Machine.execConversionDone a raw s
  | .spdCode p d v => Sys2Proof.Machine.execSpdCode p d v s
  | .spdRange p d v => Sys2Proof.Machine.execSpdRange p d v s
  | .rangeSwitch d => Sys2Proof.Machine.execRangeSwitch d s
  | .rangeSettled d => Sys2Proof.Machine.execRangeSettled d s
  | .cecFrameReceived blocks sside => Sys2Proof.Machine.execCecFrameReceived blocks sside s
  | .cecAttempt o sside => Sys2Proof.Machine.execCecAttempt o sside s
  | .cecPoll acked sside => Sys2Proof.Machine.execCecPoll acked sside s
  | .irFrameEnd n durations => Sys2Proof.Machine.execIrFrameEnd n durations s
  | .keypadPressDetect down => Sys2Proof.Machine.execKeypadPressDetect down s
  | .keypadSample => Sys2Proof.Machine.execKeypadSample s
  | .keypadRepeat => Sys2Proof.Machine.execKeypadRepeat s
  | .uartRxChar u data parityErr framingErr => Sys2Proof.Machine.execUartRxChar u data parityErr framingErr s
  | .uartIdle u => Sys2Proof.Machine.execUartIdle u s
  | .uartTxdata p u v => Sys2Proof.Machine.execUartTxdata p u v s
  | .uartTxCharDone u => Sys2Proof.Machine.execUartTxCharDone u s
  | .uartBreak p u => Sys2Proof.Machine.execUartBreak p u s
  | .uartFlush p u => Sys2Proof.Machine.execUartFlush p u s
  | .i2cXfer p n v => Sys2Proof.Machine.execI2cXfer p n v s
  | .i2cTxdata p n v => Sys2Proof.Machine.execI2cTxdata p n v s
  | .i2cRxdata p n => Sys2Proof.Machine.execI2cRxdata p n s
  | .i2cTransferEnd n e => Sys2Proof.Machine.execI2cTransferEnd n e s
  | .i2cStretchTimeout n moved data => Sys2Proof.Machine.execI2cStretchTimeout n moved data s
  | .gpioSet p v => Sys2Proof.Machine.execGpioSet p v s
  | .gpioClr p v => Sys2Proof.Machine.execGpioClr p v s
  | .gpioEdge pin rising => Sys2Proof.Machine.execGpioEdge pin rising s
  | .gpioWakeEdge pin => Sys2Proof.Machine.execGpioWakeEdge pin s
  | .cryStart p => Sys2Proof.Machine.execCryStart p s
  | .abort p => Sys2Proof.Machine.execAbort p s
  | .cryFDin p v => Sys2Proof.Machine.execCryFDin p v s
  | .cryFDout p => Sys2Proof.Machine.execCryFDout p s
  | .cryJobEnd => Sys2Proof.Machine.execCryJobEnd s
  | .cryRng p => Sys2Proof.Machine.execCryRng p s
  | .entropyTestFail => Sys2Proof.Machine.execEntropyTestFail s
  | .trcCfg p v => Sys2Proof.Machine.execTrcCfg p v s
  | .trcTask p n v => Sys2Proof.Machine.execTrcTask p n v s
  | .traceOvf => Sys2Proof.Machine.execTraceOvf s
  | .tapReset => Sys2Proof.Machine.execTapReset s
  | .extest => Sys2Proof.Machine.execExtest s
  | .samplePreload pads load => Sys2Proof.Machine.execSamplePreload pads load s
  | .idcode => Sys2Proof.Machine.execIdcode s
  | .dbgAuth dr nonce => Sys2Proof.Machine.execDbgAuth dr nonce s
  | .dbgAuthCapture => Sys2Proof.Machine.execDbgAuthCapture s
  | .nop core addr data => Sys2Proof.Machine.execNop core addr data s
  | .memRead core addr data => Sys2Proof.Machine.execMemRead core addr data s
  | .memWrite core addr data => Sys2Proof.Machine.execMemWrite core addr data s
  | .regRead core addr data => Sys2Proof.Machine.execRegRead core addr data s
  | .regWrite core addr data => Sys2Proof.Machine.execRegWrite core addr data s
  | .halt core addr data => Sys2Proof.Machine.execHalt core addr data s
  | .resume core addr data => Sys2Proof.Machine.execResume core addr data s
  | .step core addr data => Sys2Proof.Machine.execStep core addr data s
  | .wake core addr data => Sys2Proof.Machine.execWake core addr data s
  | .status core addr data => Sys2Proof.Machine.execStatus core addr data s
  | .dbgAccessReservedOp op core addr data => Sys2Proof.Machine.execDbgAccessReservedOp op core addr data s
  | .haltTaken c => Sys2Proof.Machine.execHaltTaken c s
  | .ecPost => Sys2Proof.Machine.execEcPost s
  | .noProgress c => Sys2Proof.Machine.execNoProgress c s
  | .quarantine c => Sys2Proof.Machine.execQuarantine c s
  | .escalation => Sys2Proof.Machine.execEscalation s
  | .unknownCommand r code => Sys2Proof.Machine.execUnknownCommand r code s
  | .uartCtsChange u high => Sys2Proof.Machine.execUartCtsChange u high s
  | .uartBreakReceived u => Sys2Proof.Machine.execUartBreakReceived u s
  | .bypass ir => Sys2Proof.Machine.execBypass ir s
  | .cecRxLineError initiator dest sside => Sys2Proof.Machine.execCecRxLineError initiator dest sside s
  | .lanePwmPeriod n => Sys2Proof.Machine.execLanePwmPeriod n s

end Sys2Proof.Machine
end

