-- ==== Sys2Proof/Machine/TickOps.lean ====
section
/-!
DEFINITION. What passes in one tick of TB with no command waiting (02, R26-R28): time itself, and what the units do by themselves at
their own pace. This is what a step does on an empty queue (log entry 3).
-/

namespace Sys2Proof.Machine

/-- One tick of RTC32, which counts 32,768 periods a second against 24,000,000 ticks (R27, R28). -/
def rtcTick (t : Time) : Time :=
  if t.rtcPhase + 64 < 46875 then { t with rtcPhase := t.rtcPhase + 64 } else { t with rtc := t.rtc + 1, rtcPhase := t.rtcPhase + 64 - 46875 }

/-- The beats of a core in WAIT in Metronome mode over a tick, which is 8 LCLK periods (R114). -/
def metTick (k : CoreState) : CoreState :=
  if k.run = .waiting ∧ k.metEn then
    let p := k.metPhase + 8
    { k with metPhase := p % (k.metNm1.toNat + 1), metBeats := k.metBeats + natW (p / (k.metNm1.toNat + 1)) }
  else k

/-- The count of R502 restarts while a condition holds it. -/
def progressTick (s : State) : State :=
  (List.finRange 8).foldl (fun s c => if progressHeld s c then s.updCore c fun k => { k with stepTb := s.now } else s) s

/-- What waits at the units for the fabric goes on: buffered stores that have not left, log records, stat packets, and an operation of debug
access (R154). -/
def fabricTick (s : State) : State :=
  let s := (List.finRange 8).foldl (fun s c => sbIssue s.cores[c].sb.length s c) s
  dbgHeldRun (statPump s.stat.queue.length (lanePump s.laneBlk.buf.length s))

/-- The units of PR, LANES and the stage cores over one tick. -/
def unitsTick (s : State) : State :=
  let s := trcPortTick s
  let s := { s with tb := s.tb + 1 }
  let s := (List.finRange 8).foldl tmrTick s
  let s := bwrTick (laneTick s)
  let s := if s.pwr.mode = .run then fabricTick s else s
  let s := entropyTick (cryTick s)
  let s := if s.pwr.mode = .run then { s with cores := s.cores.map metTick } else s
  progressTick s

/-- The waits that ended before this tick, and that no command ended, are refused (R192, R356). -/
def waitsTick (s : State) : State :=
  let s := (s.pool.waits.filter (poolExpired s)).foldl (fun s w => if s.pool.waits.contains w then poolWaitEnd s w else s) s
  (s.lv.waiting.filter (lvExpired s)).foldl (fun s w => leaveWaitEnd s w.r) s

/-- One tick. In STANDBY XREF stops and RTC32 alone goes on (R28). -/
def tick (s : State) : State :=
  let s := { s with time := rtcTick s.time }
  if s.pwr.mode = .standby then s
  else cueSettle (elvIntake (napGo (recClean (tapPoll (uartBuildAll (cecPostNext (verifyTick (waitsTick (unitsTick s)))))))))

end Sys2Proof.Machine
end

