-- ==== Sys2Proof/Safety.lean ====
section
/-!
DEFINITION. The terms in which statements are made: what a command's completion is, which part of the state the clocks and the
bus traffic move beside a command's own effect, and when nothing turns a command aside. There is no fault to be safe from: every
command answers a next state.
-/

namespace Sys2Proof.Machine

/-! ### What a command leaves, apart from pace and traffic -/

/-- A stage core without its fetch path (R102-R105, R112), its counters of pace (R113, R117, R120, R502), and which entries of its store
buffer have left for the fabric (R110, R146). -/
def CoreState.arch (k : CoreState) : CoreState :=
  { k with line := none, lineReq := none, lineNext := none, ahead := 0, hid := 0, reached := .seq, owed := 0, stepTb := 0, skipBrk := false
           metBeats := 0, metSlip := 0, metStat := {}, metLate := 0
           sbDue := 0, sb := k.sb.map fun e => { e with out := false } }

/-- The machine without the trace collector (R466-R478), the regulator's counts (R150-R161) and those of the tags (R146, R160), the flash read
buffers (R103) and what `CoreState.arch` leaves out. Everything else of the state stays. -/
def State.arch (s : State) : State :=
  { s with
    cores := s.cores.map CoreState.arch
    trc := {}
    bwr := {}
    fab := { s.fab with peak := Vector.replicate 15 0, wait := Vector.replicate 15 0, asking := Vector.replicate 15 false }
    flc := { s.flc with rbuf := [] } }

/-- Command i, given to s, completes: it answers a next state, which is u but for pace and traffic. -/
def Completes (i : Instr) (s u : State) : Prop := ∃ t, exec i s = .next t ∧ t.arch = u.arch

/-- Command i, given to s, completes with exactly u. -/
def Leaves (i : Instr) (s u : State) : Prop := exec i s = .next u

/-! ### When a word of a stage core runs undisturbed -/

/-- Nothing waits at the Cue engine or at the pool, so the end of a command serves nobody. -/
def quiet (s : State) : Bool := s.cue.held.isEmpty && s.pool.waits.isEmpty

/-- Nothing that AO or the first stage keeps waits to be posted when the Cue engine comes up (R254, R374, R431), no word of memory has a
correctable error, and nothing waits for leave. -/
def unposted (s : State) : Bool :=
  quiet s && s.boot.repost.isEmpty && s.otp.weakWords.isEmpty && s.sec.isEmpty && s.lv.waiting.isEmpty && s.wd.warnHeld.isNone &&
    !s.wd.openHeld && s.cec.buf.isEmpty && (List.finRange 2).all fun i => s.ir[i].heldCode.isNone && s.ir[i].heldErr.isNone

/-- The word at the pc of core c is fetched at once, without a trap and without a corrected error (R89 causes 1-3, R495): its line is there,
or comes, and the word in it is good. -/
def fetchable (s : State) (c : Core) (delay : Nat) : Bool :=
  let k := s.cores[c]
  let a := k.pc.toNat
  let f := fetchLine (askNone s c) c delay
  (decide (regionOf a = .ownCls) || !k.metEn) && (k.world || !secureAddr s a) && f.2 && decide (wordSeen f.1 c = (0, false))

/-- Core c runs its next word undisturbed: it is ready and not inside a word, its fetch succeeds, no failed store is held, no LISTEN trap comes
first (R97), no register of it has an error, no breakpoint matches, no watchpoint is enabled, an overrun raises no METRO_LATE, and
nothing waits. -/
def calm (s : State) (c : Core) (p : Pace) : Bool :=
  let k := s.cores[c]
  coreReady s c && k.blk.isNone && k.held.isNone && (k.flow.isSome || (listenNext s c).isNone) && k.sec.isEmpty && k.ded.isEmpty &&
    fetchable s c p.fetch && (brkHits k).isEmpty &&
    (List.finRange 2).all (fun i => !k.watch[i].ctrl.getLsbD 31) && (!k.metEn || p.late == 0 || !k.metTrap) && quiet s

/-- Core c is calm and its next word is no delay slot. -/
def calmWord (s : State) (c : Core) (p : Pace) : Bool := calm s c p && s.cores[c].flow.isNone

/-- A value that register d may take: the stack pointer stays at or above the limit (R83). -/
def stackOk (k : CoreState) (d : Reg) (v : Word) : Bool := decide (d ≠ 15) || decide (k.dsl.toNat ≤ v.toNat)

/-- Core c after a word that writes v to register d. -/
def wrote (s : State) (c : Core) (d : Reg) (v : Word) : State := s.updCore c fun k => { k.setReg d v with pc := k.pc + 4 }

/-- Core c after a word that writes v to register d, and FL to f when the word's S bit is 1. -/
def wroteFl (s : State) (c : Core) (d : Reg) (v : Word) (sbit : Bool) (f : Fl) : State :=
  s.updCore c fun k => { k.setReg d v with fl := if sbit then f else k.fl, pc := k.pc + 4 }

/-- The access of n bytes at address a by core c goes to its target and is answered OK: the address is in a memory region, aligned,
present, permitted and not dark (R50), no flash operation holds it, and the word it lies in has no error. -/
def memOk (s : State) (c : Core) (acc : Acc) (a : Word) (n : Nat) : Bool :=
  let q := eccWord (physAddr (coreM c) a.toNat)
  decide (a.toNat % n = 0) && (targetOf a.toNat != .periph && targetOf a.toNat != .priv) &&
    decide (staticAns s (coreWho s c) acc a.toNat n = 0) && decide (memAnswer s (coreWho s c) acc a.toNat n = 0) &&
    !flashHeld s a.toNat && !s.sec.contains q && !wordBad s q

/-- No entry of core c's store buffer overlaps the n bytes at a. -/
def noOverlap (s : State) (c : Core) (a : Word) (n : Nat) : Bool := s.cores[c].sb.all fun e => !e.overlaps a.toNat n

/-- The n bytes at address a as core c sees them, as a number, little-endian. -/
def memVal (s : State) (c : Core) (a : Word) (n : Nat) : Word := natW (ofLe (memBytes s.mem (physAddr (coreM c) a.toNat) n))

/-- n bytes written at address a as core c sees it. -/
def memPutAt (s : State) (c : Core) (a : Word) (n : Nat) (v : Word) : State :=
  s.put (physAddr (coreM c) a.toNat) (leBytes n v.toNat)

/-- Core c moved on to the next word. -/
def moved (s : State) (c : Core) : State := s.updCore c fun k => { k with pc := k.pc + 4 }

/-! ### The fabric -/

/-- Transactions of master m of `bytes` bytes in all are admitted as they come (R147, R151-R154): no request waits, `tags` more tags are free, and the
regulator is off or the master stays below its minimum, in a window that may begin meanwhile too. -/
def admits (s : State) (m : Master) (tags bytes : Nat) : Bool :=
  let b := s.bwr.m[m]
  s.fab.waiting.isEmpty && decide (tagsHeld s m + tags ≤ s.fab.alloc[m]) &&
    (!s.bwr.en || (decide (b.charged + bytes ≤ b.cfg.min) && (!s.bwr.dirty || decide (bytes ≤ b.want.min))))

/-- The fabric carries at once what one word of core c can ask of it: two lines, its buffered stores and one access. -/
def coreBus (s : State) (c : Core) : Bool := decide (s.cores[c].sb.length ≤ 8) && admits s (coreM c) 10 100

/-! ### Accesses of a port that a command names -/

/-- The access of port p to the register at addr reaches it: the port can make an access, the fabric carries it at once, a stage core has no store
buffered and none that failed (R111, R128), the address is a register's and aligned, the block is present, world and ownership allow it, and
its domain is up (R15, R16, R50, R301, R340). -/
def reaches (s : State) (p : Port) (addr : Word) (write : Bool) : Bool :=
  let w := portWho s p
  portMay s p && admits s p.m 1 4 && (match portCore p.m with | some c => s.cores[c].sb.isEmpty && s.cores[c].held.isNone | none => true) &&
    decide (addr.toNat % 4 = 0) && match regionOf addr.toNat with
  | .periph blk _ =>
    (match blockAt blk with
    | some b => !b.absent s.variant && !(b.prompterOnly && decide (p.m.val ≠ 8)) && blockMay s b w write && domUp s b.domain
    | none => false)
  | .priv _ => decide (p.m.val < 8) && w.priv
  | _ => false

/-- A write of v to addr by p reaches its register, and nothing waits. -/
def canWrite (s : State) (p : Port) (addr : Word) : Bool := reaches s p addr true && quiet s

/-- A read of addr by p reaches its register, and nothing waits. -/
def canRead (s : State) (p : Port) (addr : Word) : Bool := reaches s p addr false && quiet s

/-- The state in which the master of p has the answer OK to a write. -/
def wroteOk (s : State) (p : Port) : State := setLast s p.m 0 0

/-- An address in the SRAM window. -/
def inSram (a : Nat) : Bool := match regionOf a with | .sram _ => true | _ => false

/-! ### Requests of the host -/

/-- A request with code, seq and args is the next one on channel ch, and Elvuk takes it up next: the device runs and is not on its way
elsewhere, the Curtain is open, no command of that channel runs, no message waits on 0x00C0, nothing waits, and it is that channel's turn
(R210, R214, R229, R236). -/
def hostAsks (s : State) (ch : Fin 4) (seq : BitVec 6) (code : Nat) (args : List Byte) : Bool :=
  decide (s.pwr.mode = .run) && s.pwr.entering.isNone && curtainOpen s && quiet s && (queueOf s 0xC0).msgs.isEmpty &&
    (s.elv.jobs.all fun j => decide (callerParty j.req.who ≠ .chan ch)) && (s.elv.frags[ch]).isEmpty &&
    (match s.link.chan[ch].reqs with
    | q :: _ => q.seq == seq && q.command.toNat == code && q.args == args && q.user.isNone && !q.drop
    | [] => false) && decide (elvTurn s = some ch.val)

/-- The reply frame of a request (R210): channel and sequence, the request's code, the status and the results. -/
def replyFrame (ch : Fin 4) (seq : BitVec 6) (code : Nat) (status : Nat) (res : List Byte) : Perup :=
  { chseq := BitVec.ofNat 2 ch.val ++ seq, command := BitVec.ofNat 16 code, payload := leBytes 2 status ++ res }

/-- The next request of channel ch is answered (R210, R212, R214): its reply waits for the host and is kept among the channel's last three,
and its credit comes back when the host reads it. -/
def answered (s : State) (ch : Fin 4) (seq : BitVec 6) (code : Nat) (status : Nat) (res : List Byte) : State :=
  let p := replyFrame ch seq code status res
  { s with link := { s.link with
    chan := updV s.link.chan ch fun c => { c with reqs := c.reqs.tail, kept := (p :: c.kept).take 3, unread := c.unread ++ [seq] }
    tx := s.link.tx ++ [⟨p, false⟩] } }

/-- As answered, for a request that Elvuk takes up and answers in one row: the round-robin goes on after that channel (R214). -/
def served (s : State) (ch : Fin 4) (seq : BitVec 6) (code : Nat) (status : Nat) (res : List Byte) : State :=
  answered (tookTurn s ch.val) ch seq code status res

/-- Command i, given as the host's next request on channel ch, is carried out at once: it leaves u, with the reply OK and its results. -/
def Replies (i : Instr) (s : State) (ch : Fin 4) (seq : BitVec 6) (code : Nat) (u : State) (res : List Byte) : Prop :=
  Leaves i s (served u ch seq code 0 res)

/-- A command of Elvuk that asks for `units` of leave has them at once: a ticket is free, nothing waits, and the units fit (R355, R356, R359). -/
def leaveReady (s : State) (units : Nat) : Bool :=
  (ticketFree s).isSome && s.lv.waiting.isEmpty && decide (s.lv.held.toList.sum + units ≤ s.lv.budget)

/-- Nothing stands in the way of a command that writes flash: FLASH is up, no operation runs, and no word of memory is bad (R236, R276, R347). -/
def flashReady (s : State) : Bool :=
  s.pwr.dom.getLsbD 10 && !flashUsed s && s.sec.isEmpty && s.ded.isEmpty && s.poison.isEmpty && memWf s.mem

/-- The bytes of memory outside the two areas are as they were, and outside the boot-attempt state and the mirror of the write counter, which
Elvuk keeps in AO (R271, R275). -/
def onlyFlash (s t : State) (lo hi lo' hi' : Nat) : Prop :=
  ∀ a, a < lo ∨ hi ≤ a → a < lo' ∨ hi' ≤ a → a < 0x1C000050 ∨ 0x1C000088 ≤ a → t.byte a = s.byte a

/-- What a command that writes flash with leave may change beside its own state. -/
def flashFrame (s t : State) : Prop :=
  t = { s with mem := t.mem, flc := t.flc, lv := t.lv, link := t.link, install := t.install, sets := t.sets, elv := { s.elv with turn := t.elv.turn } }

/-- A request of stage core c waits at Elvuk as the only one, with TYPE 0, the code, the tag and args, and its reply can be sent: there are buffers, the
core's reply queue is as it is at release, and the core runs (R214, R224, R225, R232). -/
def coreRequests (s : State) (c : Core) (tag : BitVec 16) (code : Nat) (args : List Byte) : Bool :=
  let q : BitVec 16 := 0xA0 + BitVec.ofNat 16 c.val
  decide (s.pwr.mode = .run) && s.pwr.entering.isNone && curtainOpen s && quiet s && (queueOf s 0xC0).msgs.isEmpty && s.elv.jobs.isEmpty &&
    decide (s.elv.inbox = [⟨c, true, 0, leBytes 2 code ++ leBytes 2 tag.toNat ++ args⟩]) && s.elv.spare[c].isSome && poolCan s.pool 1 &&
    coreUp s c && decide (s.cores[c].run = .running) && decide ((queueOf s q).producer = 8) && decide ((queueOf s q).pmode = 1) &&
    decide ((queueOf s q).consumer.toNat = c.val) && (queueOf s q).msgs.isEmpty && !descDark s q && !descBad s q && !cueWaits s 8 &&
    decide (8 ≤ s.cue.k) && memWf s.mem && decide (s.pool.base.toNat % 64 = 0) && decide (s.pool.base.toNat + 64 * poolCount s.pool ≤ 2 ^ 32) &&
    decide (elvTurn s = some 4)

/-- Core c has the reply to its request: one message on its reply queue, with the code, the tag, the status and the results (R225). -/
def coreHears (s t : State) (c : Core) (tag : BitVec 16) (code status : Nat) (res : List Byte) : Prop :=
  t.elv = { s.elv with inbox := [], turn := 4 } ∧ ∃ i < poolCount s.pool, poolTag s.pool i = none ∧
    (queueOf t (0xA0 + BitVec.ofNat 16 c.val)).msgs = [⟨poolHandle s.pool i, true⟩] ∧
    memBytes t.mem ((poolHandle s.pool i).toNat + 4) (6 + res.length) = leBytes 2 code ++ leBytes 2 tag.toNat ++ leBytes 2 status ++ res

/-! ### Messages of hardware sources -/

/-- A hardware event of src has its buffer and is committed at once: nothing waits at the pool or at the Cue engine, a buffer is free, and the fixed queue of
the source accepts the message (R172, R192, R197). -/
def canPost (s : State) (src : HwSrc) : Bool :=
  match src.fixed with
  | none => false
  | some q =>
    let x := queueOf s q
    poolCan s.pool src.cls && quiet s && !cueWaits s src.master && !descDark s q && !descBad s q && decide (8 ≤ s.cue.k) && decide (x.pmode = 1) &&
      (match limitOf x.limit with | some n => decide (x.msgs.length < n) | none => true) && !consumerDark s x && memWf s.mem &&
      decide (s.pool.base.toNat % 64 = 0) && decide (s.pool.base.toNat + 64 * poolCount s.pool ≤ 2 ^ 32)

/-- Between s and t the source has posted one message with a TYPE and a payload: a buffer that was free holds it, with its header, and is the newest entry of
the fixed queue (R171, R197, R532). -/
def posted (s t : State) (src : HwSrc) (type : Nat) (payload : List Byte) : Prop :=
  ∀ q, src.fixed = some q → ∃ i < poolCount s.pool, poolTag s.pool i = none ∧
    (queueOf t q).msgs = (queueOf s q).msgs ++ [⟨poolHandle s.pool i, true⟩] ∧
    memBytes t.mem (poolHandle s.pool i).toNat (4 + payload.length) =
      leBytes 4 (s.tb.toNat % 65536 * 65536 + src.master.toNat * 4096 + type * 64 + payload.length) ++ payload

/-- As canPost, for a completion message of src in a pool class to an open user queue whose producer mode is ANY. -/
def canPostTo (s : State) (src : HwSrc) (cls : Fin 16) (q : BitVec 16) : Bool :=
  let x := queueOf s q
  decide (0x100 ≤ q.toNat) && queueExists s q && x.isOpen && decide (x.pmode = 0) && decide (s.pwr.mode = .run) && s.pwr.entering.isNone &&
    poolCan s.pool cls && quiet s && !cueWaits s src.master && !descDark s q && !descBad s q &&
    (match limitOf x.limit with | some n => decide (x.msgs.length < n) | none => true) && !consumerDark s x && memWf s.mem &&
    decide (s.pool.base.toNat % 64 = 0) && decide (s.pool.base.toNat + 64 * poolCount s.pool ≤ 2 ^ 32)

/-- As posted, for a completion message to queue q. -/
def postedTo (s t : State) (src : HwSrc) (q : BitVec 16) (type : Nat) (payload : List Byte) : Prop :=
  ∃ i < poolCount s.pool, poolTag s.pool i = none ∧
    (queueOf t q).msgs = (queueOf s q).msgs ++ [⟨poolHandle s.pool i, true⟩] ∧
    memBytes t.mem (poolHandle s.pool i).toNat (4 + payload.length) =
      leBytes 4 (s.tb.toNat % 65536 * 65536 + src.master.toNat * 4096 + type * 64 + payload.length) ++ payload

/-! ### Traps -/

/-- Core c has entered a trap (R90-R92): the saved registers, STATE with TL and PRIV 1, and the pc at the vector. -/
def trapped (s : State) (c : Core) (cause : BitVec 8) (detail addr tpc : Word) (inds : Bool) : State :=
  s.updCore c fun k =>
    let secure := k.world || cause == 0x03
    { k with
      tpc := tpc &&& 0xFFFFFFFC
      tfl := k.fl.setWidth 32
      tstate := k.state
      tcause := cause.setWidth 32 ||| (if inds then 0x100 else 0)
      tdetail := detail
      taddr := addr
      state := 0x101 ||| (k.state &&& 0x70) ||| (if secure then 2 else 0)
      pc := (if secure then k.tvecS else k.tvecO) + 64 * cause.setWidth 32
      flow := none }

/-- Command i on core c, whose next word is calm and whose TL is 0, takes the trap. -/
def Traps (i : Instr) (s : State) (c : Core) (cause : BitVec 8) (detail addr : Word) : Prop :=
  Completes i s (trapped s c cause detail addr s.cores[c].pc false)

end Sys2Proof.Machine
end

