-- ==== Sys2Proof/Certificates/Slice0/Obligations.lean ====
section
/-!
DEFINITION. The statements about the model, for the provers.
-/

open Sys2Proof Sys2Proof.Machine

/-! ### Twiard words (04, 05) -/

/-- ADDI, ANDI, ORI, CMPI and LUI on a calm core (R63, R66, R79, R83): the register named, the flags of CMPI, the pc, and nothing else but pace and
traffic. ADD, SUB, AND, OR, XOR, MUL, MULH and MULHU on a calm core (R64, R66, R79, R83): the result, the flags when the S bit is 1, and nothing else
but the pc, pace and traffic. -/
def Obligations.ImmediateAndAluWords : Prop :=
  (∀ (s : State) (c : Core) (p : Pace) (d a : Reg) (imm : BitVec 17) (hi : BitVec 21), calmWord s c p = true →
      let k := s.cores[c]
      let x := k.reg a
      let e : Word := imm.signExtend 32
      (stackOk k d (x + e) = true → Completes (.addi c p d a imm) s (wrote s c d (x + e))) ∧
      (stackOk k d (x &&& e) = true → Completes (.andi c p d a imm) s (wrote s c d (x &&& e))) ∧
      (stackOk k d (x ||| imm.setWidth 32) = true → Completes (.ori c p d a imm) s (wrote s c d (x ||| imm.setWidth 32))) ∧
      (stackOk k d (hi.setWidth 32 <<< 11) = true → Completes (.lui c p d hi) s (wrote s c d (hi.setWidth 32 <<< 11))) ∧
      Completes (.cmpi c p a imm) s
        (wroteFl s c 0 0 true (flMk (x - e == 0) (x - e).msb (decide (e.toNat ≤ x.toNat)) (decide ((x - e).toInt ≠ x.toInt - e.toInt))))) ∧
  (∀ (s : State) (c : Core) (p : Pace) (d a b : Reg) (f : Bool), calmWord s c p = true →
      let k := s.cores[c]
      let x := k.reg a
      let y := k.reg b
      let logic (r : Word) : Fl := flMk (r == 0) r.msb (flC k.fl) (flV k.fl)
      let high : Word := (x.signExtend 64 * y.signExtend 64).extractLsb' 32 32
      let highU : Word := (x.setWidth 64 * y.setWidth 64).extractLsb' 32 32
      (stackOk k d (x + y) = true → Completes (.add c p d a b f) s (wroteFl s c d (x + y) f
        (flMk (x + y == 0) (x + y).msb (decide (2 ^ 32 ≤ x.toNat + y.toNat)) (decide ((x + y).toInt ≠ x.toInt + y.toInt))))) ∧
      (stackOk k d (x - y) = true → Completes (.sub c p d a b f) s (wroteFl s c d (x - y) f
        (flMk (x - y == 0) (x - y).msb (decide (y.toNat ≤ x.toNat)) (decide ((x - y).toInt ≠ x.toInt - y.toInt))))) ∧
      (stackOk k d (x &&& y) = true → Completes (.and c p d a b f) s (wroteFl s c d (x &&& y) f (logic (x &&& y)))) ∧
      (stackOk k d (x ||| y) = true → Completes (.or c p d a b f) s (wroteFl s c d (x ||| y) f (logic (x ||| y)))) ∧
      (stackOk k d (x ^^^ y) = true → Completes (.xor c p d a b f) s (wroteFl s c d (x ^^^ y) f (logic (x ^^^ y)))) ∧
      (stackOk k d (x * y) = true → Completes (.mul c p d a b f) s (wroteFl s c d (x * y) f (logic (x * y)))) ∧
      (stackOk k d high = true → Completes (.mulh c p d a b f) s (wroteFl s c d high f (logic high))) ∧
      (stackOk k d highU = true → Completes (.mulhu c p d a b f) s (wroteFl s c d highU f (logic highU))))

/-- SHIFTI and SHIFT on a calm core (R64, R66): KIND 0 left, 1 right, 2 arithmetic, 3 rotate right; C is the last bit out and stays when the amount is
0. EXT and INS on a calm core (R63, R64): a field that fits in 32 bits is taken with its sign or with zeros, or replaced; one that does not raises
ILLEGAL with WHERE 0 and SUB 3. DIV and DIVU on a calm core (R66, R67): the truncated quotient goes to d and the remainder to r; a zero divisor gives
all ones and the dividend, the one signed overflow gives 0x80000000 and 0, and both set V. -/
def Obligations.ShiftFieldAndDivideWords : Prop :=
  (∀ (s : State) (c : Core) (p : Pace) (d a b : Reg) (f : Bool) (kind : BitVec 2) (amount : BitVec 5), calmWord s c p = true →
      let k := s.cores[c]
      let x := k.reg a
      let val (n : Nat) : Word :=
        if kind = 0 then x <<< n else if kind = 1 then x >>> n else if kind = 2 then x.sshiftRight n else x.rotateRight n
      let out (n : Nat) : Bool := if n = 0 then flC k.fl else if kind = 0 then x.getLsbD (32 - n) else x.getLsbD (n - 1)
      let fl (n : Nat) : Fl := flMk (val n == 0) (val n).msb (out n) (flV k.fl)
      let n := amount.toNat
      let m := (k.reg b).toNat % 32
      (stackOk k d (val n) = true → Completes (.shifti c p d a f kind amount) s (wroteFl s c d (val n) f (fl n))) ∧
      (stackOk k d (val m) = true → Completes (.shift c p d a b f kind) s (wroteFl s c d (val m) f (fl m)))) ∧
  (∀ (s : State) (c : Core) (p : Pace) (d a : Reg) (width1 pos : BitVec 5), calmWord s c p = true →
      let k := s.cores[c]
      let x := k.reg a
      let w := width1.toNat
      let q := pos.toNat
      (q + w + 1 ≤ 32 →
        (let up := x <<< (31 - q - w)
         (stackOk k d (up >>> (31 - w)) = true → Completes (.ext c p d a false width1 pos) s (wrote s c d (up >>> (31 - w)))) ∧
         (stackOk k d (up.sshiftRight (31 - w)) = true →
           Completes (.ext c p d a true width1 pos) s (wrote s c d (up.sshiftRight (31 - w))))) ∧
        (let bit (j : Nat) : Bool := if q ≤ j ∧ j ≤ q + w then x.getLsbD (j - q) else (k.reg d).getLsbD j
         let v : Word := (BitVec.ofBoolListLE ((List.range 32).map bit)).setWidth 32
         stackOk k d v = true → Completes (.ins c p d a width1 pos) s (wrote s c d v))) ∧
      (32 < q + w + 1 → k.tl = false → ∀ sg : Bool,
        Traps (.ext c p d a sg width1 pos) s c 0x01 3 0 ∧ Traps (.ins c p d a width1 pos) s c 0x01 3 0)) ∧
  (∀ (s : State) (c : Core) (p : Pace) (d a b r : Reg) (f : Bool), calmWord s c p = true → (r ≠ d ∨ d = 0) →
      let k := s.cores[c]
      let x := k.reg a
      let y := k.reg b
      let ovr : Bool := x == 0x80000000 && y == 0xFFFFFFFF
      let qs : Word := if y = 0 then 0xFFFFFFFF else if ovr then 0x80000000 else x.sdiv y
      let rs : Word := if y = 0 then x else if ovr then 0 else x.srem y
      let qu : Word := if y = 0 then 0xFFFFFFFF else x / y
      let ru : Word := if y = 0 then x else x % y
      let res (q rm : Word) (v : Bool) : State := s.updCore c fun k =>
        { (k.setReg d q).setReg r rm with fl := if f then flMk (q == 0) q.msb (flC k.fl) v else k.fl, pc := k.pc + 4 }
      (stackOk k d qs = true → stackOk k r rs = true → Completes (.div c p d a b r f) s (res qs rs (y == 0 || ovr))) ∧
      (stackOk k d qu = true → stackOk k r ru = true → Completes (.divu c p d a b r f) s (res qu ru (y == 0))))

/-- LDW, LDH, LDHU, LDB and LDBU on a calm core whose accesses the fabric carries at once, from memory that answers OK and that no buffered store
overlaps (R63, R126): the bytes, little-
endian, extended as the mnemonic says; the core's last answer is OK with the data. A load whose bytes lie whole in the youngest buffered store that
overlaps them takes them from that store, and memory is not asked (R126). -/
def Obligations.LoadWords : Prop :=
  (∀ (s : State) (c : Core) (p : Pace) (d a : Reg) (imm : BitVec 17), calmWord s c p = true → coreBus s c = true →
      let k := s.cores[c]
      let at' : Word := k.reg a + imm.signExtend 32
      let got (n : Nat) : Word := memVal s c at' n
      let res (n : Nat) (v : Word) : State := setLast (wrote s c d v) (coreM c) 0 (got n)
      (memOk s c .read at' 4 = true → noOverlap s c at' 4 = true → Completes (.ldw c p d a imm) s (res 4 (got 4))) ∧
      (memOk s c .read at' 2 = true → noOverlap s c at' 2 = true →
        Completes (.ldh c p d a imm) s (res 2 (((got 2).setWidth 16).signExtend 32)) ∧
        Completes (.ldhu c p d a imm) s (res 2 (((got 2).setWidth 16).setWidth 32))) ∧
      (memOk s c .read at' 1 = true → noOverlap s c at' 1 = true →
        Completes (.ldb c p d a imm) s (res 1 (((got 1).setWidth 8).signExtend 32)) ∧
        Completes (.ldbu c p d a imm) s (res 1 (((got 1).setWidth 8).setWidth 32)))) ∧
  (∀ (s : State) (c : Core) (p : Pace) (d a : Reg) (imm : BitVec 17) (older younger : List SbEntry) (e : SbEntry),
      calmWord s c p = true →
      let k := s.cores[c]
      let at' : Word := k.reg a + imm.signExtend 32
      k.sb = older ++ e :: younger → (younger.all fun y => !y.overlaps at'.toNat 4) = true → e.overlaps at'.toNat 4 = true →
      e.addr = at' → e.bytes = 4 → memOk s c .read at' 4 = true → (targetOf at'.toNat).buffered = true →
      Completes (.ldw c p d a imm) s (setLast (wrote s c d e.data) (coreM c) 0 e.data))

/-- STW, STH and STB on a calm core (R63, R125): into the core's own CLS the bytes are written at once and no other byte of memory changes; towards
SRAM and the Green Room the store enters the buffer, which has room, and memory does not change yet. SWAP, CAS and FADD on a calm core whose store
buffer is empty, on an aligned word of SRAM or the Green Room (R132): the old word goes to d; SWAP stores b, FADD stores the sum, CAS stores b only
when the old word was d, and says so in Z. -/
def Obligations.StoreAndAtomicWords : Prop :=
  (∀ (s : State) (c : Core) (p : Pace) (d a : Reg) (imm : BitVec 17), calmWord s c p = true →
      let k := s.cores[c]
      let at' : Word := k.reg a + imm.signExtend 32
      let v := k.reg d
      let now' (n : Nat) : State := memPutAt (setLast (moved s c) (coreM c) 0 0) c at' n v
      let later (n : Nat) (x : Word) : State :=
        s.updCore c fun k => { k with pc := k.pc + 4, sb := k.sb ++ [⟨at', n, x, k.world, false⟩] }
      (regionOf at'.toNat = .ownCls →
        (memOk s c .write at' 4 = true → Completes (.stw c p d a imm) s (now' 4)) ∧
        (memOk s c .write at' 2 = true → Completes (.sth c p d a imm) s (now' 2)) ∧
        (memOk s c .write at' 1 = true → Completes (.stb c p d a imm) s (now' 1))) ∧
      ((targetOf at'.toNat).buffered = true → k.sb.length < 8 →
        (memOk s c .write at' 4 = true → Completes (.stw c p d a imm) s (later 4 v)) ∧
        (memOk s c .write at' 2 = true → Completes (.sth c p d a imm) s (later 2 ((v.setWidth 16).setWidth 32))) ∧
        (memOk s c .write at' 1 = true → Completes (.stb c p d a imm) s (later 1 ((v.setWidth 8).setWidth 32))))) ∧
  (∀ (s : State) (c : Core) (p : Pace) (d a b : Reg), calmWord s c p = true →
      let k := s.cores[c]
      let at' := k.reg a
      let old := memVal s c at' 4
      let won : Bool := old == k.reg d
      let res (st : State) : State := setLast (st.updCore c fun k => { k.setReg d old with pc := k.pc + 4 }) (coreM c) 0 old
      let flag (st : State) : State := st.updCore c fun k => { k with fl := flMk won (flN k.fl) (flC k.fl) (flV k.fl) }
      k.sb = [] → coreBus s c = true → memOk s c .atomic at' 4 = true →
      Completes (.swap c p d a b) s (res (memPutAt s c at' 4 (k.reg b))) ∧
      Completes (.fadd c p d a b) s (res (memPutAt s c at' 4 (old + k.reg b))) ∧
      Completes (.cas c p d a b) s (flag (res (if won then memPutAt s c at' 4 (k.reg b) else s))))

/-- FENCE on a calm core (R107, R131): when the fabric carries the buffered stores at once it answers with the store buffer empty; with nothing
buffered it only moves on. WAIT on a calm core, for which no LISTEN trap comes first (R97, R99): with TL 1 it only moves on; otherwise the core
waits at it. -/
def Obligations.FenceAndWaitWords : Prop :=
  (∀ (s : State) (c : Core) (p : Pace), calmWord s c p = true →
      (coreBus s c = true → ∃ t, exec (.fence c p) s = .next t ∧ t.cores[c].sb = []) ∧
      (s.cores[c].sb = [] → Completes (.fence c p) s (moved s c))) ∧
  (∀ (s : State) (c : Core) (p : Pace), calmWord s c p = true →
      (s.cores[c].tl = true → Completes (.wait c p) s (moved s c)) ∧
      (s.cores[c].tl = false → Completes (.wait c p) s (s.updCore c fun k => { k with run := .waiting })))

/-- The flow instructions on a calm core (R62, R65, R75, R84, R85, R94): each puts its delay slot next and holds its transfer until the slot ends; the
targets are relative to the instruction's own address or taken from a register, and the return address is that address plus 8. A push on a full return
stack and a pop of an empty one raise their traps, and nothing else happens. The end of a delay slot (R75, R84, R85, R90, R94), for an ADDI in the
slot: the slot's own result stands, and then the transfer that was held takes effect: the jump, the push of a call, the pop of a return, the restore
of RETT, or the trap of SYSCALL and BREAK with the address after the slot. -/
def Obligations.FlowWords : Prop :=
  (∀ (s : State) (c : Core) (p : Pace) (a : Reg) (cond : BitVec 4) (off : BitVec 21) (far : BitVec 25) (code : BitVec 16),
      calmWord s c p = true →
      let k := s.cores[c]
      let pc := k.pc
      let rel (o : Word) : Word := pc + 4 * o
      let held (f : FlowKind) : State := s.updCore c fun k => { k with pc := k.pc + 4, flow := some ⟨pc, f⟩ }
      (cond ≠ 15 → Completes (.b c p cond off) s
        (held (.branch (if condHolds cond k.fl then some (rel (off.signExtend 32)) else none) false))) ∧
      Completes (.jmp c p far) s (held (.branch (some (rel (far.signExtend 32))) false)) ∧
      (k.rs.length < 256 → Completes (.call c p far) s (held (.call (pc + 8) (rel (far.signExtend 32)) false))) ∧
      ((k.reg a).toNat % 4 = 0 →
        Completes (.jr c p a) s (held (.branch (some (k.reg a)) true)) ∧
        (k.rs.length < 256 → Completes (.callr c p a) s (held (.call (pc + 8) (k.reg a) true)))) ∧
      (k.rs ≠ [] → Completes (.ret c p) s (held (.ret (k.rs.headD 0)))) ∧
      (k.tl = false →
        (256 ≤ k.rs.length → Traps (.call c p far) s c 0x06 (BitVec.ofNat 32 k.rs.length) 0 ∧
          ((k.reg a).toNat % 4 = 0 → Traps (.callr c p a) s c 0x06 (BitVec.ofNat 32 k.rs.length) 0)) ∧
        (k.rs = [] → Traps (.ret c p) s c 0x07 0 0)) ∧
      (k.priv = true → (k.world = true ∨ k.tstate.getLsbD 1 = false) →
        Completes (.rett c p) s (held (.rett k.tpc k.tfl k.tstate))) ∧
      (code.getLsbD 15 = false ∨ k.world = true → Completes (.syscall c p code) s (held (.trap 0x0C (code.setWidth 32)))) ∧
      (code.getLsbD 15 = true → k.world = false →
        Completes (.syscall c p code) s (held (.trap 0x03 (3 + code.setWidth 32 <<< 16)))) ∧
      Completes (.break c p code) s (held (.trap 0x0B (code.setWidth 32)))) ∧
  (∀ (s : State) (c : Core) (p : Pace) (d a : Reg) (imm : BitVec 17) (from' t r fl st detail : Word) (ind : Bool) (cause : BitVec 8),
      calm s c p = true →
      let k := s.cores[c]
      let v := k.reg a + imm.signExtend 32
      let pends (f : FlowKind) : Prop := k.flow = some ⟨from', f⟩
      let ends (f : CoreState → CoreState) : Prop :=
        Completes (.addi c p d a imm) s (s.updCore c fun k => f { k.setReg d v with flow := none })
      stackOk k d v = true →
      (pends (.branch none ind) → ends fun k => { k with pc := from' + 8 }) ∧
      (pends (.branch (some t) ind) → ends fun k => { k with pc := t }) ∧
      (pends (.call r t ind) → ends fun k => { k with pc := t, rs := r :: k.rs }) ∧
      (pends (.ret t) → ends fun k => { k with pc := t, rs := k.rs.tail }) ∧
      (pends (.rett t fl st) → ends fun k =>
        { k with pc := t, fl := fl.setWidth 4, state := st
                 listen := k.listen.map fun l => if (st >>> 4 &&& 7).toNat < l.level.toNat then { l with active := false } else l }) ∧
      (pends (.trap cause detail) → k.tl = false → (cause ≠ 0x0B ∨ k.hctrl = false) →
        Completes (.addi c p d a imm) s
          (trapped (s.updCore c fun k => { k.setReg d v with flow := none }) c cause detail 0 (from' + 8) false)))

/-- MFSR and MTSR on a calm privileged core (R81, R82): MFSR reads each assigned register, DEPTH and COREID included; MTSR writes each writable one
with its reserved bits 0, and a write of STATE that lowers LEVEL clears ACTIVE of the slots above it. RSSAVE and RSLOAD on a calm privileged core, on
a block of its own CLS without errors (R86): RSSAVE writes the depth and then the entries, oldest first, zeros above the depth; RSLOAD takes the depth
and that many entries back, and raises RSTACK_OVERFLOW for a depth above 256. -/
def Obligations.SystemRegisterAndReturnStackWords : Prop :=
  (∀ (s : State) (c : Core) (p : Pace) (d a : Reg), calmWord s c p = true → s.cores[c].priv = true → s.cores[c].world = true →
      let k := s.cores[c]
      let v := k.reg a
      let reads (n : BitVec 12) (x : Word) : Prop := stackOk k d x = true → Completes (.mfsr c p d n) s (wrote s c d x)
      let writes (n : BitVec 12) (f : CoreState → CoreState) : Prop :=
        Completes (.mtsr c p a n) s ((moved s c).updCore c f)
      reads 0 k.state ∧ reads 1 k.tpc ∧ reads 2 k.tfl ∧ reads 3 k.tstate ∧ reads 4 k.tcause ∧ reads 5 k.tdetail ∧ reads 6 k.taddr ∧
      reads 8 k.tvecS ∧ reads 9 k.tvecO ∧ reads 10 k.dsl ∧ reads 11 (BitVec.ofNat 32 k.rs.length) ∧
      reads 12 (BitVec.ofNat 32 c.val) ∧
      writes 0 (fun k => { k with
        state := v &&& 0x173
        listen := k.listen.map fun l => if (v >>> 4 &&& 7).toNat < l.level.toNat then { l with active := false } else l }) ∧
      writes 1 (fun k => { k with tpc := v &&& 0xFFFFFFFC }) ∧ writes 2 (fun k => { k with tfl := v &&& 0xF }) ∧
      writes 3 (fun k => { k with tstate := v &&& 0x173 }) ∧ writes 8 (fun k => { k with tvecS := v &&& 0xFFFFF800 }) ∧
      writes 9 (fun k => { k with tvecO := v &&& 0xFFFFF800 }) ∧ writes 10 (fun k => { k with dsl := v &&& 0xFFFFFFFC })) ∧
  (∀ (s : State) (c : Core) (p : Pace) (a : Reg), calmWord s c p = true → s.cores[c].priv = true → s.sec = [] → s.ded = [] → s.poison = [] →
      let k := s.cores[c]
      let at' := k.reg a
      at'.toNat % 4 = 0 → 0x18000000 ≤ at'.toNat → at'.toNat + 1028 ≤ 0x18004000 →
      (∀ i < 257, inTable s (at'.toNat + 4 * i) = false) →
      let base := physAddr (coreM c) at'.toNat
      let w (i : Nat) : Word := s.word (base + 4 * i)
      let depth := (w 0).toNat
      (k.rs.length ≤ 256 → Completes (.rssave c p a) s ((setLast (moved s c) (coreM c) 0 0).put base
        ((natW k.rs.length :: (k.rs.reverse ++ List.replicate (256 - k.rs.length) 0)).flatMap fun x => leBytes 4 x.toNat))) ∧
      (depth ≤ 256 → Completes (.rsload c p a) s (setLast ((moved s c).updCore c fun k =>
        { k with rs := ((List.range depth).map fun i => w (i + 1) &&& 0xFFFFFFFC).reverse }) (coreM c) 0 (w 256))) ∧
      (256 < depth → k.tl = false →
        Completes (.rsload c p a) s (setLast (trapped s c 0x06 (w 0) 0 k.pc false) (coreM c) 0 (w 256))))

/-- A legal pair on a calm core (R69-R74): two slots without a memory access both act on the registers and flags from before the pair; a PUSH to the
own CLS in slot A writes below g15 and moves it down, whatever slot B computes; a POP reads at g15 and moves it up. PUSH and POP beside an idle slot
on a calm core, in its own CLS (R71, R83): PUSH stores s at g15 - 4 and writes g15, POP loads d from g15 and adds 4. -/
def Obligations.PairWords : Prop :=
  (∀ (s : State) (c : Core) (p : Pace) (x y : Slot), calmWord s c p = true → pairBad x y = none →
      let k := s.cores[c]
      let px := slotPlan k x
      let py := slotPlan k y
      px.mem = none → py.mem = none → px.limit k.dsl = none → py.limit k.dsl = none →
      Completes (.pairWord c p x y) s (s.updCore c fun k =>
        { writeRegs k (px.regs ++ py.regs) with fl := ((px.fl).or py.fl).getD k.fl, pc := k.pc + 4 })) ∧
  (∀ (s : State) (c : Core) (p : Pace) (d r : BitVec 4), calmWord s c p = true →
      let k := s.cores[c]
      let sp := k.reg 15
      let idle : Slot := ⟨0, 0, 0, 0⟩
      (4 ≤ sp.toNat → regionOf (sp - 4).toNat = .ownCls → memOk s c .write (sp - 4) 4 = true → stackOk k 15 (sp - 4) = true →
        Completes (.pairWord c p ⟨0x17, 0, r, 0⟩ idle) s
          (memPutAt (setLast (wrote s c 15 (sp - 4)) (coreM c) 0 0) c (sp - 4) 4 (k.reg r))) ∧
      (d ≠ 15 → regionOf sp.toNat = .ownCls → memOk s c .read sp 4 = true → stackOk k 15 (sp + 4) = true →
        Completes (.pairWord c p ⟨0x18, d, 0, 0⟩ idle) s
          (setLast (s.updCore c fun k => { (k.setReg 15 (sp + 4)).setReg d (memVal s c sp 4) with pc := k.pc + 4 }) (coreM c) 0
            (memVal s c sp 4))))

/-- Words that decode refuses raise ILLEGAL (R76, R78, R89, R90) on a calm core with TL 0: any 32 bits with a refusal, with WHERE and SUB in TDETAIL.
What keeps a legal word from running, on a calm core with TL 0 (R83, R87, R89-R92): PRIV for a privileged word with PRIV 0, ALIGN for a misaligned
access or target with its address in TADDR, DSTACK_LIMIT with the value g15 would have taken, and the two return-stack traps. A synchronous trap while
TL is 1 (R93, R501, R502), shown by a word that decode refuses: the core stops in a machine check with reason DOUBLE_TRAP, its trap registers, pc and
STATE keep their values, and the device is about to reset only when no other stage core runs. A load or a store that is answered from its address
alone (R49-R53, R533), on a calm core with TL 0: no effect, the answer to the core, one BUS record, and trap BUS with the answer in TDETAIL and the
address in TADDR. -/
def Obligations.WordsThatTrap : Prop :=
  (∀ (s : State) (c : Core) (p : Pace) (w : Word) (wher sub : BitVec 2), calmWord s c p = true → s.cores[c].tl = false →
      (decodeWord w).illegal = some (wher, sub) →
      Traps (.undefinedOpcode c p w) s c 0x01 (4 * wher.setWidth 32 + sub.setWidth 32) 0) ∧
  (∀ (s : State) (c : Core) (p : Pace) (d a b : Reg) (imm : BitVec 17) (far : BitVec 25),
      calmWord s c p = true → s.cores[c].tl = false →
      let k := s.cores[c]
      let at' : Word := k.reg a + imm.signExtend 32
      (k.priv = false → Traps (.rett c p) s c 0x02 0 0 ∧ Traps (.rssave c p a) s c 0x02 0 0 ∧ Traps (.rsload c p a) s c 0x02 0 0 ∧
        Traps (.mfsr c p d 0) s c 0x02 0 0 ∧ Traps (.mtsr c p a 0) s c 0x02 0 0) ∧
      (at'.toNat % 4 ≠ 0 → Traps (.ldw c p d a imm) s c 0x04 0 at' ∧ Traps (.stw c p d a imm) s c 0x04 0 at') ∧
      (at'.toNat % 2 ≠ 0 → Traps (.ldh c p d a imm) s c 0x04 0 at' ∧ Traps (.ldhu c p d a imm) s c 0x04 0 at' ∧
        Traps (.sth c p d a imm) s c 0x04 0 at') ∧
      ((k.reg a).toNat % 4 ≠ 0 → Traps (.swap c p d a b) s c 0x04 0 (k.reg a) ∧ Traps (.cas c p d a b) s c 0x04 0 (k.reg a) ∧
        Traps (.fadd c p d a b) s c 0x04 0 (k.reg a) ∧ Traps (.jr c p a) s c 0x04 1 (k.reg a) ∧
        Traps (.callr c p a) s c 0x04 1 (k.reg a)) ∧
      (stackOk k 15 at' = false → Traps (.addi c p 15 a imm) s c 0x08 0 at') ∧
      (256 ≤ k.rs.length → Traps (.call c p far) s c 0x06 (BitVec.ofNat 32 k.rs.length) 0) ∧
      (k.rs = [] → Traps (.ret c p) s c 0x07 0 0)) ∧
  (∀ (s : State) (c : Core) (p : Pace) (w : Word), calmWord s c p = true → s.cores[c].tl = true → ((decodeWord w).illegal).isSome = true →
      ∃ t, exec (.undefinedOpcode c p w) s = .next t ∧ t.cores[c].run = .check ∧ t.cores[c].reason = 1 ∧
        (let k := s.cores[c]; let k' := t.cores[c]
         k'.tpc = k.tpc ∧ k'.tfl = k.tfl ∧ k'.tstate = k.tstate ∧ k'.tcause = k.tcause ∧ k'.tdetail = k.tdetail ∧ k'.taddr = k.taddr ∧
         k'.state = k.state ∧ k'.pc = k.pc ∧ k'.g = k.g ∧ k'.fl = k.fl ∧ k'.rs = k.rs) ∧
        (∀ d : Core, d ≠ c → t.cores[d] = s.cores[d]) ∧ t.mem = s.mem ∧
        t.fatal = (if otherRunning s c then s.fatal else some 0x06)) ∧
  (∀ (s : State) (c : Core) (p : Pace) (d a : Reg) (imm : BitVec 17), calmWord s c p = true → s.cores[c].tl = false →
      let k := s.cores[c]
      let at' : Word := k.reg a + imm.signExtend 32
      let ends (acc : Acc) : State :=
        let ans := staticAns s (coreWho s c) acc at'.toNat 4
        let r := ecBuild s 0x01 1 (BitVec.ofNat 4 c.val) k.world (BitVec.ofNat 3 ans) at' 0
        trapped (setLast r (coreM c) (BitVec.ofNat 3 ans) 0) c 0x05 (BitVec.ofNat 32 ans) at' k.pc false
      at'.toNat % 4 = 0 → targetOf at'.toNat ≠ .periph →
      (staticAns s (coreWho s c) .read at'.toNat 4 ≠ 0 → Completes (.ldw c p d a imm) s (ends .read)) ∧
      (staticAns s (coreWho s c) .write at'.toNat 4 ≠ 0 → Completes (.stw c p d a imm) s (ends .write)))

/-! ### Queue words, bus answers and the events of a core (05, 06, 07, 09) -/

/-- QPUT on a calm core with nothing buffered, when the Cue engine decides at once (R171-R173): a refusal changes only d, which takes the result code,
and the count of refusals; a commit appends the message, passes the buffer to the queue and writes MASTER and STAMP into its header. QGET on a calm
core (R137, R177, R178): from a queue it may take from, the oldest message's handle goes to d, Z is 0, and the buffer is the core's; from an empty
one, and from queue 0, d is 0 and Z is 1. N, C and V stay. -/
def Obligations.QueueWords : Prop :=
  (∀ (s : State) (c : Core) (p : Pace) (d a b : Reg), calmWord s c p = true →
      let k := s.cores[c]
      let q : BitVec 16 := (k.reg a).setWidth 16
      let h := k.reg b
      let me : BitVec 4 := BitVec.ofNat 4 c.val
      let code := sendCheck s q h me k.world none
      k.sb = [] → cueWaits s me = false → cueBad s q = false →
      (2 ≤ code → Completes (.qput c p d a b) s
        { wrote s c d (BitVec.ofNat 32 code) with cue := { s.cue with refused := s.cue.refused + 1 } }) ∧
      (code = 0 → s.pwr.mode = .run → s.pwr.entering = none →
        let x := queueOf s q
        let head : Word := s.tb.setWidth 16 ++ me ++ (s.word h.toNat).setWidth 12
        let tags := s.pool.tags.map fun t => if some t.idx = poolIndex s.pool h then { t with st := 2, queue := x.num } else t
        Completes (.qput c p d a b) s
          { (wrote s c d 0).put h.toNat (leBytes 4 head.toNat) with
            pool := { s.pool with tags := tags }
            cue := { s.cue with queues := queueIns s.cue.queues { x with msgs := x.msgs ++ [⟨h, k.world⟩] }, commits := s.cue.commits + 1 } })) ∧
  (∀ (s : State) (c : Core) (p : Pace) (d a : Reg), calmWord s c p = true → s.cue.table = none → s.cue.halt = false →
      let k := s.cores[c]
      let q : BitVec 16 := (k.reg a).setWidth 16
      let x := queueOf s q
      let may : Prop := q ≠ 0 ∧ queueExists s q = true ∧ x.isOpen = true ∧ ¬(isDevice q = true ∧ x.pmode = 3) ∧
        (x.consumer = 15 ∨ x.consumer.toNat = c.val) ∧ (x.secure = false ∨ k.world = true) ∧ descDark s q = false ∧ descBad s q = false
      let took (v : Word) (z : Bool) : State :=
        s.updCore c fun k => { k.setReg d v with fl := flMk z (flN k.fl) (flC k.fl) (flV k.fl), pc := k.pc + 4 }
      (q = 0 ∨ (may ∧ x.msgs = []) → Completes (.qget c p d a) s (took 0 true)) ∧
      (may → ∀ (g : Msg), x.msgs.head? = some g →
        let mine (t : Tag) : Tag :=
          if some t.idx = poolIndex s.pool g.handle then { t with st := 1, owner := BitVec.ofNat 4 c.val, queue := 0 } else t
        Completes (.qget c p d a) s { took g.handle false with
          pool := { s.pool with tags := s.pool.tags.map mine }
          cue := { s.cue with queues := queueIns s.cue.queues { x with msgs := x.msgs.tail } } }))

/-- LISTEN_TRAP (R90, R95, R97-R99): the core enters the trap of the slot that comes next, at that slot's level and in its world, and the slot is
ACTIVE; from WAIT the restart address is the word after it. A word whose turn it would be does not run then (R97), shown by an ADDI. What happens to
a core's fetch path and store buffer between words (R102-R107, R125-R128): a line arrives with its words as they are in memory then, or is
discarded as wrong-path; the oldest store that has left for the fabric, or can leave, is performed; one that times out is recorded, takes the
younger ones with it and is held; a held failure becomes trap BUS, at a boundary before the word. -/
def Obligations.CoreEvents : Prop :=
  (∀ (s : State) (c : Core) (p : Pace) (n : Fin 8) (slip : Nat) (d a : Reg) (imm : BitVec 17),
      let k := s.cores[c]
      let l := k.listen[n]
      let secure : Bool := k.world || l.world
      let entered : State := s.updCore c fun k => { k with
        tpc := (if k.run = .waiting then k.pc + 4 else k.pc) &&& 0xFFFFFFFC
        tfl := k.fl.setWidth 32
        tstate := k.state
        tcause := BitVec.ofNat 32 (0x10 + n.val)
        tdetail := l.queue.setWidth 32
        taddr := 0
        state := 0x101 ||| (l.level.setWidth 32 <<< 4) ||| (if secure then 2 else 0)
        pc := (if secure then k.tvecS else k.tvecO) + BitVec.ofNat 32 (64 * (0x10 + n.val))
        run := .running
        listen := updV k.listen n fun l => { l with active := true } }
      listenNext s c = some n → k.flow = none → k.held = none → k.stopped = false → coreInWord s c = false →
      (coreUp s c = true → (k.run = .running ∨ k.run = .waiting) → Completes (.listenTrap c slip) s entered) ∧
      (coreReady s c = true → Completes (.addi c p d a imm) s entered)) ∧
  (∀ (s : State) (c : Core) (p : Pace) (slip : Nat) (d a : Reg) (imm : BitVec 17),
      let k := s.cores[c]
      let me : BitVec 4 := BitVec.ofNat 4 c.val
      let leaves (e : SbEntry) : Prop := e.out = true ∨ (k.sb.length ≤ 8 ∧ admits s (coreM c) 9 32 = true)
      (∀ (r : LineReq), k.lineReq = some r → lineHeld s c r.num = false → ∃ t, exec (.lineFetchComplete c) s = .next t ∧
        (let seen (i : Nat) : BitVec 3 × Bool :=
           let a := 32 * r.num + 4 * i
           (BitVec.ofNat 3 (fetchAns s c a), s.sec.contains (eccWord (physAddr (coreM c) a)))
         t.cores[c] = { k with lineReq := none, lineNext := if r.wrong then none else some ⟨r.num, (List.range 8).map seen⟩ }) ∧
        (∀ d : Core, d ≠ c → t.cores[d] = s.cores[d]) ∧ t = { s with cores := t.cores, flc := t.flc }) ∧
      (∀ (e : SbEntry) (rest : List SbEntry), k.sb = e :: rest → leaves e → e.bytes = 4 →
        memAnswer s ⟨⟨coreM c, 0⟩, e.secure, true⟩ .write e.addr.toNat 4 = 0 →
        let q := physAddr (coreM c) e.addr.toNat
        Completes (.storeBufferEntryComplete c false) s
          (setLast { s.updCore c (fun k => { k with sb := rest }) with
              mem := memPut s.mem q (leBytes 4 e.data.toNat)
              sec := s.sec.filter (· ≠ eccWord q), ded := s.ded.filter (· ≠ eccWord q), poison := s.poison.filter (· ≠ eccWord q) }
            (coreM c) 0 0)) ∧
      (∀ (e : SbEntry) (rest : List SbEntry), k.sb = e :: rest → leaves e → k.held = none →
        Completes (.storeBufferEntryComplete c true) s
          (setLast ((ecBuild s 0x02 1 me e.secure 5 e.addr (BitVec.ofNat 32 s.fab.limit)).updCore c fun k =>
              { k with sb := [], held := some { addr := e.addr, answer := 5, dropped := BitVec.ofNat 3 rest.length } }) (coreM c) 5 0)) ∧
      (∀ (h : HeldFail), k.held = some h → k.tl = false → k.flow = none → k.stopped = false → coreInWord s c = false →
        let traps : State := trapped (s.updCore c fun k => { k with held := none }) c 0x05
          (h.answer.setWidth 32 ||| 0x10 ||| (if h.more then 0x20 else 0) ||| h.dropped.setWidth 32 <<< 8) h.addr k.pc false
        (coreUp s c = true → k.run = .running → Completes (.bufferedBusTrap c slip) s traps) ∧
        (coreReady s c = true → Completes (.addi c p d a imm) s traps)))

/-- Writes of a core's own LSN_BIND and MET_CTRL (R95, R96, R114, R179): a bind that the Cue engine accepts binds the queue to the slot and makes the
core its consumer, one that it refuses sets REFUSED, and a write with EN 0 only names the queue; MET_CTRL starts and stops Metronome mode.
REGISTER_WRITE (R42, R49, R50, R53, R58): a write that reaches CUE_ARG0, CUE_ARG1, FAB_TIMEOUT or DMA_SRC stores the value and is answered OK; a write
to an address in no block is answered DECODE with one BUS record and has no effect, and takes trap BUS when the master is a stage core. SEQUENCED_CLEAR (R55) of EC_EVT, CUE_EVT and POOL_EVT: a
clear whose top four bits are the set count, from a master that has read the register at that count, clears the bits it names and MISS; any other sets
MISS and clears nothing. -/
def Obligations.RegisterAccesses : Prop :=
  (∀ (s : State) (c : Core) (n : Fin 8) (v : Word),
      let k := s.cores[c]
      let p : Port := ⟨coreM c, 0⟩
      let l := k.listen[n]
      let q : BitVec 16 := v.setWidth 16
      let x := queueOf s q
      let takes : Prop := q ≠ 0 ∧ queueExists s q = true ∧ x.isOpen = true ∧ ¬(isDevice q = true ∧ x.pmode = 3) ∧ x.bound = none ∧
        (x.consumer = 15 ∨ x.consumer.toNat = c.val) ∧ (l.world = true ∨ x.secure = false) ∧ l.level ≠ 0
      let slot (s : State) (en ref : Bool) : State :=
        wroteOk (s.updCore c fun k => { k with listen := updV k.listen n fun l => { l with en := en, refused := ref, queue := q } }) p
      (canWrite s p (0xE0000000 + 0x10 * BitVec.ofNat 32 n.val) = true → l.en = false → (k.world = true ∨ l.world = false) →
        (v.getLsbD 31 = false → Completes (.lsnBind c n v) s (slot s false false)) ∧
        (v.getLsbD 31 = true → ¬takes → Completes (.lsnBind c n v) s (slot s false true)) ∧
        (v.getLsbD 31 = true → takes → Completes (.lsnBind c n v) s (slot (setQueue s { x with
          bound := some (coreM c, n), claimed := decide (x.consumer = 15), consumer := BitVec.ofNat 4 c.val }) true false))) ∧
      (canWrite s p 0xE0000100 = true →
        (k.metEn = false → Completes (.metCtrl c v) s (wroteOk (s.updCore c fun k =>
          { k with metEn := v.getLsbD 31, metNm1 := v.setWidth 6, metTrap := v.getLsbD 8
                   metPhase := if v.getLsbD 31 then 0 else k.metPhase }) p)) ∧
        (k.metEn = true → v.setWidth 6 = k.metNm1 → Completes (.metCtrl c v) s (wroteOk (s.updCore c fun k =>
          { k with metEn := v.getLsbD 31, metTrap := v.getLsbD 8 }) p)))) ∧
  (∀ (s : State) (p : Port) (v addr : Word) (ch : Fin 16) (blk off : Nat),
      let src : Word := 0x40090000 + 0x40 * BitVec.ofNat 32 ch.val
      (canWrite s p 0x40060004 = true → Completes (.registerWrite p 0x40060004 v) s
        (wroteOk { s with cue := { s.cue with arg0 := putV s.cue.arg0 p.m v } } p)) ∧
      (canWrite s p 0x40060008 = true → Completes (.registerWrite p 0x40060008 v) s
        (wroteOk { s with cue := { s.cue with arg1 := putV s.cue.arg1 p.m v } } p)) ∧
      (canWrite s p 0x40050000 = true → (portWho s p).secure = true → 24 ≤ (v.setWidth 16).toNat →
        Completes (.registerWrite p 0x40050000 v) s (wroteOk { s with fab := { s.fab with limit := (v.setWidth 16).toNat } } p)) ∧
      (canWrite s p src = true → s.dma[ch].busy = false → Completes (.registerWrite p src v) s
        (wroteOk { s with dma := updV s.dma ch fun k => { k with src := v &&& 0xFFFFFFFC } } p)) ∧
      (portMay s p = true → quiet s = true → addr.toNat % 4 = 0 → regionOf addr.toNat = .periph blk off → blockAt blk = none →
        let told : State := setLast (ecBuild s 0x01 1 (BitVec.ofNat 4 p.m.val) (portWho s p).secure 1 addr 0) p.m 1 0
        (8 ≤ p.m.val → Completes (.registerWrite p addr v) s told) ∧
        (∀ c : Core, p.m = coreM c →
          let k := s.cores[c]
          k.sb = [] → k.held = none → k.flow = none → k.tl = false →
          Completes (.registerWrite p addr v) s (trapped told c 0x05 1 addr k.pc false)))) ∧
  (∀ (s : State) (p : Port) (v : Word),
      let fresh (q : Sqc) : Sqc :=
        if (v >>> 28).toNat = q.count % 16 ∧ q.seen[p.m] = some q.count then { q with bits := q.bits &&& ~~~(v.setWidth 27), miss := false }
        else { q with miss := true }
      (canWrite s p 0x40080004 = true →
        Completes (.sequencedClear p 0x40080004 v) s (wroteOk { s with ec := { s.ec with evt := fresh s.ec.evt } } p)) ∧
      (canWrite s p 0x40060028 = true →
        Completes (.sequencedClear p 0x40060028 v) s (wroteOk { s with cue := { s.cue with evt := fresh s.cue.evt } } p)) ∧
      (canWrite s p 0x40070018 = true →
        Completes (.sequencedClear p 0x40070018 v) s (wroteOk { s with pool := { s.pool with evt := fresh s.pool.evt } } p)))

/-! ### Registers, the pace monitor, the fabric and DMA (02, 03, 07, 08) -/

/-- The pace monitor (R25, R26): START opens a window of 2^WINLOG2 ticks unless one is open; when it is over, the steps counted and their length in
picoseconds, rounded to nearest, appear with DONE. The regulator's control and the tag allocations (R147, R150, R157, R161): BWR_CTRL with a legal
window sets EN and the window to come; FAB_TAGALLOC sets an allocation that fits the tags of the part and reports one that does not; a window edge
latches what each master was charged and starts the next window. -/
def Obligations.PaceAndRegulator : Prop :=
  (∀ (s : State) (p : Port) (v : Word) (steps : BitVec 24) (k t : Nat),
      let n := (v >>> 4 &&& 0x1F).toNat
      (canWrite s p 0x40000020 = true → 6 ≤ n → n ≤ 16 →
        Completes (.paceStart p v) s (wroteOk { s with sys := { s.sys with
          winlog2 := BitVec.ofNat 5 n, paceRun := s.sys.paceRun.or (some (n, s.tb.toNat)) } } p)) ∧
      (s.sys.paceRun = some (k, t) → t + 2 ^ k ≤ s.tb.toNat →
        let a := 125000 * 2 ^ k
        let b := 3 * steps.toNat
        let ps := if steps = 0 then 0xFFFF else min 0xFFFF ((2 * a + b) / (2 * b))
        Leaves (.paceDone steps) s { s with sys := { s.sys with
          paceRun := none, paceCount := steps, paceStep := BitVec.ofNat 16 ps, paceStat := s.sys.paceStat.raise 0 } })) ∧
  (∀ (s : State) (p : Port) (m : Master) (v : Word),
      let win := (v.setWidth 11).toNat
      let n := (v.setWidth 12).toNat
      let tagAt : Word := 0x40050100 + 4 * BitVec.ofNat 32 m.val
      (canWrite s p 0x40051000 = true → (portWho s p).secure = true → 12 ≤ win → win ≤ 1536 →
        ∃ t, exec (.bwrCtrl p v) s = .next t ∧ t.bwr.en = v.getLsbD 31 ∧ t.bwr.wantWin = win ∧ t.last = putV s.last p.m (0, 0) ∧
          (v.getLsbD 31 = true → s.bwr.en = false → t.bwr.start = s.tb.toNat ∧ t.bwr.num = 0 ∧ t.bwr.window = win) ∧
          (¬(v.getLsbD 31 = true ∧ s.bwr.en = false) → s.tb.toNat ≤ s.bwr.start + s.bwr.window → t.bwr.clr = (s.bwr.clr || v.getLsbD 30)) ∧
          t = { s with bwr := t.bwr, fab := t.fab, last := t.last }) ∧
      (canWrite s p tagAt = true → (portWho s p).secure = true → masterPresent s.variant m = true → n ≠ 0 →
        (((putV s.fab.alloc m n).toList.sum ≤ tagCount s.variant →
          Completes (.fabTagalloc p m v) s (wroteOk { s with fab := { s.fab with alloc := putV s.fab.alloc m n } } p)) ∧
         (tagCount s.variant < (putV s.fab.alloc m n).toList.sum →
          Completes (.fabTagalloc p m v) s (wroteOk { s with fab := { s.fab with status := s.fab.status.raise 0 } } p)))) ∧
      (s.bwr.start + s.bwr.window ≤ s.tb.toNat → s.tb.toNat < s.bwr.start + s.bwr.window + s.bwr.wantWin → ∃ t, exec .bwrWindowEdge s = .next t ∧ t.bwr.start = s.bwr.start + s.bwr.window ∧
        t.bwr.num = s.bwr.num + 1 ∧ t.bwr.total = 0 ∧ t.bwr.window = s.bwr.wantWin ∧
        (∀ i : Master, t.bwr.m[i].last = BitVec.ofNat 32 s.bwr.m[i].charged ∧ t.bwr.m[i].charged = 0 ∧
          t.bwr.m[i].cfg = (if s.bwr.dirty then s.bwr.m[i].want else s.bwr.m[i].cfg)) ∧
        t = { s with bwr := t.bwr, fab := t.fab }))

/-- BWR_GRANT (R149, R152-R155, R300): whatever arrives, no transaction is made, at most one is admitted, and only one that is answered as it is
admitted leaves the lists; a single request of SRAM, of a master that has a free tag while the regulator is off or the master below its
minimum, is admitted at once with the world its master has, and nothing but the fabric and the regulator moves. TRANSACTION_ANSWER and FABRIC_TIMEOUT
(R51, R52, R146, R148): an accepted word write or read of SRAM is performed, and the master learns OK and the data; one whose limit has passed
is answered TIMEOUT with its record and has no effect, and a stage core that runs takes trap BUS; a DMA channel whose access its target holds ends as
ERROR with TIMEOUT. -/
def Obligations.FabricArbitration : Prop :=
  (∀ (s : State) (arrive : List Txn) (next : Bool), quiet s = true → ∃ t, exec (.bwrGrant arrive next) s = .next t ∧
      (let key (q : Issued) : Master × Fin 16 × BitVec 2 × Word × Word := (q.t.m, q.t.ch, q.t.kind, q.t.addr, q.t.data)
       let new := arrive.filter fun x => masterPresent s.variant x.m
       let before := s.fab.accepted.map (fun q => key q.1) ++ s.fab.waiting.map key ++ new.map fun x => (x.m, x.ch, x.kind, x.addr, x.data)
       let after := t.fab.accepted.map (fun q => key q.1) ++ t.fab.waiting.map key
       t.fab.accepted.length ≤ s.fab.accepted.length + 1 ∧ (after.Perm before ∨ ∃ q, (q :: after).Perm before))) ∧
  (∀ (s : State) (x : Txn) (next : Bool),
      let w := portWho s ⟨x.m, x.ch⟩
      quiet s = true → s.fab.waiting = [] → masterPresent s.variant x.m = true → x.m.val ≠ 13 → x.kind ≤ 1 → x.bytes = 4 → inSram x.addr.toNat = true →
      accept s w (if x.kind = 0 then .read else .write) x.addr.toNat 4 = 0 → admits s x.m 1 4 = true → s.tb.toNat < s.bwr.start + s.bwr.window →
      ∃ t, exec (.bwrGrant [x] next) s = .next t ∧ t.fab.accepted = s.fab.accepted ++ [(⟨x, w.secure, w.priv⟩, s.tb.toNat)] ∧
        t.fab.waiting = [] ∧ t = { s with fab := t.fab, bwr := t.bwr }) ∧
  (∀ (s : State) (i : Nat) (q : Issued) (since : Nat),
      let x := q.t
      let w : Who := ⟨⟨x.m, x.ch⟩, q.secure, q.priv⟩
      let a := x.addr.toNat
      let gone : State := { s with fab := { s.fab with accepted := s.fab.accepted.eraseIdx i } }
      let late : State := setLast (ecBuild gone 0x02 1 (BitVec.ofNat 4 x.m.val) w.secure 5 x.addr (BitVec.ofNat 32 s.fab.limit)) x.m 5 0
      s.fab.accepted[i]? = some (q, since) → quiet s = true →
      (x.m.val ≠ 13 → x.bytes = 4 → a % 4 = 0 → inSram a = true → s.sec.contains a = false →
        (∀ c : Core, x.m = coreM c → s.cores[c].sb = [] ∧ s.cores[c].held = none) →
        (x.kind = 1 → memAnswer s w .write a 4 = 0 → wordBad s a = false →
          Completes (.transactionAnswer i) s (setLast (gone.put a (leBytes 4 x.data.toNat)) x.m 0 0)) ∧
        (x.kind = 0 → memAnswer s w .read a 4 = 0 → Completes (.transactionAnswer i) s (setLast gone x.m 0 (s.word a)))) ∧
      (since + s.fab.limit ≤ s.tb.toNat → x.kind ≠ 2 →
        (8 ≤ x.m.val → Leaves (.fabricTimeout i) s late) ∧
        (∀ c : Core, x.m = coreM c →
          let k := s.cores[c]
          k.run = .running → k.tl = false → k.flow = none → coreInWord s c = false →
          Completes (.fabricTimeout i) s (trapped late c 0x05 5 x.addr k.pc false)))) ∧
  (∀ (s : State) (ch : Fin 16) (since : Nat) (a : Word),
      let k := s.dma[ch]
      let me : Who := portWho s ⟨9, ch⟩
      k.held = some (since, a) → since + s.fab.limit ≤ s.tb.toNat → k.queue = 0 → quiet s = true →
      Leaves (.fabricTimeout (s.fab.accepted.length + s.fab.blocked.length + 8 + ch.val)) s
        { setLast (ecBuild s 0x02 1 9 me.secure 5 a (BitVec.ofNat 32 s.fab.limit)) 9 5 0 with
          dma := updV s.dma ch fun k => { k with
            busy := false, stopReq := false, result := 2, answer := 5, status := k.status.raise 1, count := k.count + BitVec.ofNat 32 (4 * k.put)
            buf := [], put := 0, adm := 0, held := none } })

/-- DMA_START, DMA_STOP and DMA_CHUNK_DONE (R138-R140, R300): a start of an idle channel takes the modes and the starter's world; a stop of a busy one
is noted; the last chunk of a block of at most eight words of SRAM has every word copied, ends the channel with DONE and sets its event. -/
def Obligations.DmaChannel : Prop :=
  ∀ (s : State) (p : Port) (ch : Fin 16) (v : Word) (n : Nat),
    let k := s.dma[ch]
    let ctrl : Word := 0x4009000C + 0x40 * BitVec.ofNat 32 ch.val
    let upd (f : DmaCh → DmaCh) : State := { s with dma := updV s.dma ch f }
    (canWrite s p ctrl = true → k.busy = false → k.len ≠ 0 → v.getLsbD 3 = false → v.getLsbD 5 = false →
      Completes (.dmaStart p ch v) s (wroteOk (upd fun k => { k with
        srcFix := v.getLsbD 2, dstFix := v.getLsbD 4, busy := true, count := 0, stopReq := false, secure := (portWho s p).secure
        by_ := some p.m, buf := [], put := 0, adm := 0, held := none, result := 0, answer := 0 }) p)) ∧
    (canWrite s p ctrl = true → k.busy = true → Completes (.dmaStop p ch) s (wroteOk (upd fun k => { k with stopReq := true }) p)) ∧
    (let w := portWho s ⟨9, ch⟩
     let src := k.src.toNat
     let dst := k.dst.toNat
     let ok (acc : Acc) (a : Nat) : Prop := a % 4 = 0 ∧ inSram a = true ∧ memAnswer s w acc a 4 = 0
     quiet s = true → s.sec = [] → s.ded = [] → s.poison = [] → s.pwr.mode = .run → k.busy = true → k.count = 0 → k.queue = 0 →
     k.buf = [] → k.put = 0 → k.adm = 0 → k.held = none → admits s 9 1 64 = true → k.len = BitVec.ofNat 32 (4 * n) → 1 ≤ n → n ≤ 8 → k.srcFix = false → k.dstFix = false →
     (∀ i < n, ok .read (src + 4 * i) ∧ ok .write (dst + 4 * i)) →
     Completes (.dmaChunkDone ch) s (setLast
       { upd (fun k => { k with busy := false, stopReq := false, result := 0, answer := 0, status := k.status.raise 0, count := k.len
                                buf := [], put := 0, adm := 0, held := none }) with
         mem := memPut s.mem dst (memBytes s.mem src (4 * n)) } 9 0 0))

/-! ### The Cue engine and the buffer pool (09, 10) -/

/-- The commands of CUE_CMD on a user queue (R167, R180): OPEN, CLOSE, CONFIG, RETARGET, FLUSH and READ, each with its settings from CUE_ARG0, its
result in the queue or in CUE_RDATA, and the status OK for the queue in the master's CUE_CSTAT. TABLE and TABLE_COPY_DONE (R162, R167): a legal move
starts when every user queue is closed, empty and unbound; at the end of the copy the new table is in use, user queues are as never opened, DONE is
reported, and no byte outside the table left behind has changed. -/
def Obligations.CueEngine : Prop :=
  (∀ (s : State) (p : Port) (q : BitVec 16), canWrite s p 0x40060000 = true → s.cue.table = none →
      0x100 ≤ q.toNat → queueExists s q = true →
      let a0 := s.cue.arg0[p.m]
      let x := queueOf s q
      let wake := a0.getLsbD 31
      let pmode : BitVec 2 := a0.extractLsb' 28 2
      let prod : BitVec 4 := a0.extractLsb' 24 4
      let cons : BitVec 4 := a0.extractLsb' 20 4
      let limit : BitVec 4 := a0.extractLsb' 0 4
      let fine : Prop := a0 &&& 0x000FFFC0 = 0
      let ok (s : State) : State := wroteOk { s with cue := { s.cue with cstat := putV s.cue.cstat p.m (q, 0) } } p
      let open' : Prop := x.isOpen = true ∧ (x.secure = false ∨ (portWho s p).secure = true) ∧ descBad s q = false
      (x.isOpen = false → x.msgs = [] → fine → pmode ≠ 3 → prod ≠ 15 →
        Completes (.openQ p 0 q) s (ok (setQueue s ⟨q, true, wake, a0.getLsbD 30, pmode, prod, cons, limit, none, false, []⟩))) ∧
      (open' → x.bound = none → Completes (.closeQ p 0 q) s (ok (setQueue s { x with isOpen := false }))) ∧
      (open' → fine → Completes (.configQ p 0 q) s (ok (setQueue s { x with wake := wake, limit := limit }))) ∧
      (open' → x.bound = none → fine → pmode ≠ 3 → prod ≠ 15 →
        Completes (.retargetQ p 0 q) s (ok (setQueue s { x with pmode := pmode, producer := prod, consumer := cons }))) ∧
      (open' → Completes (.flushQ p 0 q) s (ok (setQueue
        { s with pool := { s.pool with tags := s.pool.tags.filter fun t => !(x.msgs.any fun g => poolIndex s.pool g.handle == some t.idx) } }
        { x with msgs := [] }))) ∧
      (open' → Completes (.readQ p 0 q) s (ok { s with cue := { s.cue with
        rdata0 := putV s.cue.rdata0 p.m (queueWord x), rdata1 := putV s.cue.rdata1 p.m (BitVec.ofNat 32 x.msgs.length) } }))) ∧
  (∀ (s : State) (p : Port) (j : TableJob),
      let base := s.cue.arg0[p.m]
      let k := (s.cue.arg1[p.m]).toNat
      (canWrite s p 0x40060000 = true → s.cue.table = none → 8 ≤ k → k ≤ 16 → base.toNat % (8 * 2 ^ k) = 0 →
        sramOn s base.toNat (8 * 2 ^ k) = true → overlaps base.toNat (8 * 2 ^ k) s.pool.base.toNat (64 * poolCount s.pool) = false →
        (∀ x ∈ s.cue.queues, 0x100 ≤ x.num.toNat → x.isOpen = false ∧ x.msgs = [] ∧ x.bound = none) →
        Completes (.tableQ p 0 0) s (wroteOk { s with cue := { s.cue with
          table := some ⟨p.m, base, k⟩, cstat := putV s.cue.cstat p.m (0, 1) } } p)) ∧
      (s.cue.table = some j → quiet s = true → memWf s.mem = true → ∃ t, exec .tableCopyDone s = .next t ∧
        t.cue = { s.cue with table := none, tbase := j.base, k := j.k, moves := s.cue.moves + 1
                             queues := s.cue.queues.filter fun x => isDevice x.num
                             cstat := putV s.cue.cstat j.m (0, 0), evt := s.cue.evt.raise 1 } ∧
        (∀ a, a < s.cue.tbase.toNat ∨ s.cue.tbase.toNat + 8 * 2 ^ s.cue.k ≤ a → t.byte a = s.byte a) ∧
        t = { s with mem := t.mem, cue := t.cue }))

/-- POOL_ALLOC (R185, R190-R192): a request that its class may take gets a buffer that was FREE, whichever it is; the buffer is OWNED by the reader,
and no other buffer's tag changes. POOL_FREE (R198, R199): the owner's free returns the buffer to FREE; a handle that names no buffer, a buffer that
is FREE and one that is another's leave the tags as they are, with the result code and a POOL record whose ADDR is the handle. POOL_WAIT_LIMIT (R192,
R194, R196): a POOL_ALLOC read that has waited for the limit of its class reads the refusal, with its wait, and no buffer. The pool's configuration
(R183, R189, R193, R196): POOL_CFG takes a place in SRAM that is ON and clear of the descriptor table while every buffer is FREE; POOL_RES and
POOL_CAP set a class's numbers, and a reservation that does not fit is refused with its event; CLR zeroes the statistics. -/
def Obligations.BufferPool : Prop :=
  (∀ (s : State) (p : Port) (cls : Fin 16), canRead s p 0x40070004 = true → allocClass s p.m = some cls → poolCan s.pool cls = true →
      ∃ t, exec (.poolAlloc p) s = .next t ∧ ∃ i < poolCount s.pool, poolTag s.pool i = none ∧
        t.last[p.m] = (0, poolHandle s.pool i) ∧ t.pool.tags = ⟨i, 1, BitVec.ofNat 4 p.m.val, cls, 0⟩ :: s.pool.tags ∧
        t.pool.cls[cls].grants = s.pool.cls[cls].grants + 1 ∧ t.pool.astat = putV s.pool.astat p.m (0, 0) ∧
        t.arch = { s with pool := t.pool, last := t.last }.arch) ∧
  (∀ (s : State) (p : Port) (h : Word), canWrite s p 0x40070008 = true →
      let code (s : State) (r : BitVec 2) : State := wroteOk { s with pool := { s.pool with fstat := putV s.pool.fstat p.m r } } p
      let rec' (d : Word) : State := ecBuild s 0x08 1 (BitVec.ofNat 4 p.m.val) (portWho s p).secure 0 h d
      let drop (i : Nat) : State := { s with pool := { s.pool with tags := s.pool.tags.filter fun t => t.idx ≠ i } }
      (poolIndex s.pool h = none → Completes (.poolFree p h) s (code (rec' 3) 3)) ∧
      (∀ i, poolIndex s.pool h = some i →
        (poolTag s.pool i = none → Completes (.poolFree p h) s (code (rec' 1) 1)) ∧
        (∀ t, poolTag s.pool i = some t →
          (t.st = 1 → t.owner.toNat = p.m.val → Completes (.poolFree p h) s (code (drop i) 0)) ∧
          (¬(t.st = 1 ∧ t.owner.toNat = p.m.val) → Completes (.poolFree p h) s
            (code (rec' ((if t.st = 2 then t.queue else 0) ++ t.owner ++ (BitVec.ofNat 4 t.cls.val) ++ t.st ++ (2 : BitVec 6))) 2))))) ∧
  (∀ (s : State) (w : PoolWait) (m : Master) (b : Blocked),
      s.pool.waits = [w] → w.who = .read m → m.val ≠ 14 → s.cue.held = [] → w.arrival + s.pool.cls[w.cls].waitlim ≤ s.now →
      s.fab.blocked = [b] → b.port.m = m → b.kind = .poolAlloc → (b.core = none ∨ b.what = .port) →
      Leaves (.poolWaitLimit 0) s { s with
        fab := { s.fab with blocked := [] }
        last := putV s.last m (0, 2)
        pool := { s.pool with
          waits := [], cls := updV s.pool.cls w.cls fun k => { k with refusals := k.refusals + 1 }
          astat := putV s.pool.astat m (BitVec.ofNat 16 (min (s.now - w.arrival) 0xFFFF), 2) } }) ∧
  (∀ (s : State) (p : Port) (cls : Fin 16) (v : Word),
      let base : Word := v &&& 0xFFFFC000
      let n := (v.setWidth 7).toNat
      let r := (v.setWidth 15).toNat
      let at' (o : Nat) : Word := BitVec.ofNat 32 (0x40070100 + 0x20 * cls.val + o)
      let set (f : PoolClass → PoolClass) : Pool := { s.pool with cls := updV s.pool.cls cls f }
      (canWrite s p 0x40070000 = true → n ≠ 0 → n ≤ poolMax s.variant → s.pool.tags = [] →
        sramOn s base.toNat (n * 16384) = true → overlaps base.toNat (n * 16384) s.cue.tbase.toNat (8 * 2 ^ s.cue.k) = false →
        Completes (.poolCfg p v) s (wroteOk { s with pool := { s.pool with base := base, n256 := n } } p)) ∧
      (canWrite s p (at' 0) = true → (2 ≤ cls.val ∨ p.m.val = 8) →
        let q := set fun k => { k with res := r }
        (poolSumRes q ≤ poolCount q → poolShared q ≤ poolCount q - poolSumRes q → Completes (.poolRes p cls v) s (wroteOk { s with pool := q } p)) ∧
        (poolCount q < poolSumRes q →
          Completes (.poolRes p cls v) s (wroteOk { s with pool := { s.pool with evt := s.pool.evt.raise 1 } } p))) ∧
      (canWrite s p (at' 4) = true → (2 ≤ cls.val ∨ p.m.val = 8) →
        Completes (.poolCap p cls v) s (wroteOk { s with pool := set fun k => { k with cap := r } } p)) ∧
      (canWrite s p 0x40070020 = true → Completes (.poolCtrlClr p v) s (wroteOk { s with pool := { s.pool with
        cls := s.pool.cls.map fun k => { k with grants := 0, delays := 0, refusals := 0, hwdrop := 0, peak := 0 } } } p)))

/-! ### The host link (11) -/

/-- WRITE_FRAME (R207-R209): the bytes of any frame with at most 1,024 payload bytes pass every check, and the frame that the receive FIFO then holds
has the fields of the frame that was sent. A frame that does not start with 0xA7 is rejected with SYNC and counted. -/
def Obligations.FrameRoundTrip : Prop :=
  ∀ (s : State) (p : Perup) (bytes : List Byte), linkServes s = true →
    let zeros (l : List Byte) : List Byte := if s.link.mode then [] else List.replicate l.length 0
    (p.payload.length ≤ 1024 → s.link.rx.length < 2 →
      Leaves (.writeFrame p.bytes) s { s with link := { s.link with out := zeros p.bytes, bus := .driven, rx := s.link.rx ++ [p] } }) ∧
    (bytes ≠ [] → bytes.head? ≠ some 0xA7 → Leaves (.writeFrame bytes) s { s with link := { s.link with
      out := zeros bytes, bus := if s.link.mode = true ∧ 2 ≤ s.link.rx.length then .nackFrame else .driven
      lastErr := 1, err := true, errEver := true, evt := s.link.evt.raise 1, errFrame := s.link.errFrame + 1 } })

/-- READ_FRAME, READ_STATUS, LINK_RESET and an operation byte without action (R204, R212, R216, R219): a frame read whole leaves the FIFO, and the
first read of a reply returns its credit; the status is eight bytes and clears its two sticky flags; LINK_RESET empties the transmit FIFO and starts
every channel again; another operation byte is counted. FRAME_ACCEPT (R211, R212): the expected sequence with a credit left is accepted as a request;
without one it is rejected with NO_CREDIT; a repeat of one of the last three places its kept reply again; any other sequence is rejected. -/
def Obligations.HostLink : Prop :=
  (∀ (s : State) (n : Nat) (op : Byte), linkServes s = true →
      let k := s.link
      let link (k : Link) : State := { s with link := k }
      let drive (bs : List Byte) : Link := { k with out := (if k.mode then [] else [0]) ++ bs, bus := .driven }
      let zeros (n : Nat) (nack : LinkBus) : Link :=
        { k with out := if k.mode then [] else List.replicate n 0, bus := if k.mode then nack else .driven }
      (k.tx = [] → Leaves (.readFrame n) s (link (drive (List.replicate n 0)))) ∧
      (∀ f rest, k.tx = f :: rest →
        (n < f.frame.bytes.length → Leaves (.readFrame n) s (link (drive (f.frame.bytes.take n))))) ∧
      (∀ f rest, k.tx = f :: rest → f.frame.bytes.length ≤ n →
        let k' : Link := { drive (f.frame.bytes ++ List.replicate (n - f.frame.bytes.length) 0) with tx := rest }
        (f.event = true → Leaves (.readFrame n) s (link k')) ∧
        (f.event = false → k.chan[f.frame.chan].unread.contains f.frame.seq = true → Leaves (.readFrame n) s (link { k' with
          chan := updV k.chan f.frame.chan fun c => { c with unread := c.unread.erase f.frame.seq, credits := c.credits + 1 } }))) ∧
      (let flags : Byte := (0 : BitVec 3) ++ BitVec.ofBool (decide (2 ≤ k.rx.length)) ++ BitVec.ofBool k.err ++ BitVec.ofBool k.evtLost ++
         BitVec.ofBool (decide (s.sys.phase ≠ 2)) ++ BitVec.ofBool (!k.tx.isEmpty)
       let e (c : Fin 4) : Byte := k.chan[c].e.setWidth 8
       let credits := k.chan[(0 : Fin 4)].credits + 4 * k.chan[(1 : Fin 4)].credits + 16 * k.chan[(2 : Fin 4)].credits + 64 * k.chan[(3 : Fin 4)].credits
       let tells := [flags, BitVec.ofNat 8 credits, e 0, e 1, e 2, e 3, BitVec.ofNat 8 (min k.tx.length 255), k.lastErr.setWidth 8]
       Leaves (.readStatus 8) s (link { drive tells with evtLost := false, err := false }) ∧
       (8 ≤ n → Leaves (.readStatus n) s (link { drive (tells ++ List.replicate (n - 8) 0) with evtLost := false, err := false })) ∧
       Leaves (.readStatus 0) s (link (drive []))) ∧
      Leaves (.linkReset [0x4C, 0x52]) s (link { zeros 2 .driven with tx := [], lastErr := 0, evt := k.evt.raise 0, chan := k.chan.map fun c => { c with
        e := 0, kept := [], unread := [], credits := 3 - c.reqs.length, reqs := c.reqs.map fun q => { q with drop := true } } }) ∧
      (op = 0 ∨ 4 < op.toNat → Leaves (.reservedLinkOpcode op n) s (link { zeros n .nackOpcode with errFrame := k.errFrame + 1 }))) ∧
  (∀ (s : State) (p : Perup) (rest : List Perup), linkServes s = true → s.link.rx = p :: rest →
      let k : Link := { s.link with rx := rest }
      let link (k : Link) : State := { s with link := k }
      let c := s.link.chan[p.chan]
      let behind := (c.e - p.seq).toNat
      (p.seq = c.e → 0 < c.credits → Leaves .frameAccept s (link { k with chan := updV k.chan p.chan fun c => { c with
        e := c.e + 1, credits := c.credits - 1, reqs := c.reqs ++ [⟨p.seq, p.command, p.payload, false, none⟩] } })) ∧
      (p.seq = c.e → c.credits = 0 → Leaves .frameAccept s (link { k with
        lastErr := 8, err := true, errEver := true, evt := k.evt.raise 1, errSeq := k.errSeq + 1 })) ∧
      (1 ≤ behind → behind ≤ 3 → ∀ r, (c.kept.find? fun r => r.seq = p.seq) = some r →
        Leaves .frameAccept s (link { k with errDup := k.errDup + 1, tx := k.tx ++ [⟨r, false⟩] })) ∧
      (3 < behind → Leaves .frameAccept s (link { k with
        lastErr := 7, err := true, errEver := true, evt := k.evt.raise 1, errSeq := k.errSeq + 1 })))

/-- USER_COMMAND (R222, R227): a USER command of at most 54 argument bytes, for which a buffer is free, becomes one message on queue 0x0090 + c, with
the code, the channel, the sequence and the mark of the last fragment before its arguments, and then waits for firmware. USER_REPLY,
USER_REPLY_INDIRECT, USER_EVENT and USER_TIMEOUT (R220, R228): firmware's answer reaches the host as the reply to its pending USER request, with its
status and its results; an event becomes a frame; after USERTO the host receives FAILED and the event bit is set. -/
def Obligations.UserCommands : Prop :=
  (∀ (s : State) (ch : Fin 4) (seq : BitVec 6) (code : BitVec 16) (args : List Byte),
      let q : BitVec 16 := 0x90 + BitVec.ofNat 16 ch.val
      hostAsks s ch seq code.toNat args = true → 0x7F00 ≤ code.toNat → code.toNat ≤ 0x7FFF → args.length ≤ 54 → poolCan s.pool 1 = true →
      userFits s ch 1 = true → cueWaits s 8 = false → descDark s q = false → descBad s q = false → 8 ≤ s.cue.k →
      (queueOf s q).pmode = 1 → (queueOf s q).producer = 8 → memWf s.mem = true → s.pool.base.toNat % 64 = 0 →
      s.pool.base.toNat + 64 * poolCount s.pool ≤ 2 ^ 32 →
      ∃ t, exec (.userCommand ⟨.host ch seq, args⟩ code) s = .next t ∧
        (t.link.chan[ch].reqs.map (·.user)).head? = some (some s.now) ∧ t.link.tx = s.link.tx ∧ t.elv = { s.elv with turn := ch.val } ∧ t.cores = s.cores ∧
        ∃ i < poolCount s.pool, poolTag s.pool i = none ∧ poolTag t.pool i = some ⟨i, 2, 8, 1, q⟩ ∧
          (queueOf t q).msgs = (queueOf s q).msgs ++ [⟨poolHandle s.pool i, true⟩] ∧
          memBytes t.mem ((poolHandle s.pool i).toNat + 4) (6 + args.length) =
            leBytes 2 code.toNat ++ [BitVec.ofNat 8 ch.val, seq.setWidth 8, 0x80, 0] ++ args) ∧
  (∀ (s : State) (x : ElvMail) (ch : Fin 4) (q : LinkReq) (rest : List LinkReq) (b0 b1 s0 s1 : Byte) (a n : Nat) (tail : List Byte) (since : Nat),
      let idle : Prop := s.pwr.mode = .run ∧ s.pwr.entering = none ∧ s.sys.phase = 2 ∧ quiet s = true ∧ (queueOf s 0xC0).msgs = [] ∧
        s.elv.inbox = [x] ∧ (elvJob s (.core x.core)).isNone = true ∧ elvTurn s = some 4
      let taken : State := { s with elv := { s.elv with inbox := [], turn := 4 } }
      let fields : List Byte := [b0, b1, BitVec.ofNat 8 ch.val, q.seq.setWidth 8, s0, s1]
      let status := s0.toNat + 256 * s1.toNat
      (idle → s.link.chan[ch].reqs = q :: rest → q.user.isSome = true → q.drop = false →
        (x.type = 2 → x.body = fields ++ tail → Leaves .userReply s (answered taken ch q.seq q.command.toNat status tail)) ∧
        (x.type = 3 → x.body = fields ++ leBytes 4 a ++ leBytes 2 n → a < 2 ^ 32 → n ≤ 1022 → elvArea s a n x.secure = none →
          Leaves .userReplyIndirect s (answered taken ch q.seq q.command.toNat status (memBytes s.mem a n)))) ∧
      (idle → x.type = 4 → s.link.up = true → (s.link.tx.filter (·.event)).length < 16 →
        Leaves .userEvent s { taken with link := { s.link with
          evtSeq := s.link.evtSeq + 1, tx := s.link.tx ++ [⟨⟨s.link.evtch ++ s.link.evtSeq, 0x8004, x.body⟩, true⟩] } }) ∧
      (s.link.chan[ch].reqs = q :: rest → q.user = some since → q.drop = false → since + s.link.userto * 24000 ≤ s.now →
        let t := answered s ch q.seq q.command.toNat 0x600 []
        Leaves (.userTimeout ch q.seq) s { t with link := { t.link with evt := t.link.evt.raise 2 } }))

/-! ### Commands of Elvuk (12) -/

/-- The queries (R240, R244-R246, R377): PING returns its arguments, GET_INFO, GET_FEATURES, GET_RESET_HISTORY, GET_BOOT_STATUS, POWER_GET_STATE,
LEAVE_GET_STATS without its clear, IMAGE_STATUS, AUTH_STATUS on channel 3, WD_COUNT_READ and CORE_QUARANTINE_STATUS reply with what they are asked
for, and change nothing but the link; GET_BOOT_STATUS brings a dark FLASH up for its read and returns it dark (R347). -/
def Obligations.QueriesReply : Prop :=
  ∀ (s : State) (ch : Fin 4) (seq : BitVec 6) (args : List Byte) (first count : Nat),
    let r (args : List Byte) : Req := ⟨.host ch seq, args⟩
    let asks (code : Nat) (args : List Byte) : Prop := hostAsks s ch seq code args = true
    let le4 (n : Nat) : List Byte := leBytes 4 n
    (asks 0x0001 args → args.length ≤ 56 → Replies (.ping (r args)) s ch seq 0x0001 s args) ∧
    (asks 0x0002 [] → Replies (.getInfo (r [])) s ch seq 0x0002 s
      (le4 0x4E420B24 ++ le4 0x10 ++ [Config.elvukVersion 0, Config.elvukVersion 1, Config.elvukVersion 2, 0] ++
        [s.boot.life.setWidth 8, s.dbg.level.setWidth 8, 0, 1, (match s.boot.slot with | none => 0xFF | some false => 0 | some true => 1), 0, 0, 0] ++
        le4 s.boot.version.toNat)) ∧
    (asks 0x0003 [] → Replies (.getFeatures (r [])) s ch seq 0x0003 s
      (le4 (sysFeat0 s.variant).toNat ++ le4 (sysFeat1 s.variant).toNat ++ le4 (sysMasters s.variant).toNat ++ le4 (if hasCry s.variant then 0 else 1))) ∧
    (asks 0x0004 [BitVec.ofNat 8 first, BitVec.ofNat 8 count] → first ≤ 7 → 1 ≤ count → first + count ≤ 8 →
      Replies (.getResetHistory (r [BitVec.ofNat 8 first, BitVec.ofNat 8 count])) s ch seq 0x0004 s
        (memBytes s.mem 0x1C000000 2 ++ memBytes s.mem (0x1C000010 + 8 * first) (8 * count))) ∧
    (asks 0x0005 [] →
      (s.pwr.dom.getLsbD 10 = true → Replies (.getBootStatus (r [])) s ch seq 0x0005 s (bootStatusBytes s)) ∧
      (s.pwr.dom.getLsbD 10 = false → ∃ t, exec (.getBootStatus (r [])) s = .next t ∧
        t.link = (served s ch seq 0x0005 0 (bootStatusBytes s)).link ∧ t.mem = s.mem ∧ t.pwr.dom = s.pwr.dom ∧ t.pwr.evt = s.pwr.evt.raise 0)) ∧
    (asks 0x0102 [] → Replies (.powerGetState (r [])) s ch seq 0x0102 s
      ([0, 0] ++ leBytes 2 s.pwr.setPoint.toNat ++ le4 (domWord s).toNat ++ le4 (sramWord s).toNat ++ le4 s.pwr.wakeMask.toNat)) ∧
    (asks 0x0106 [0] → Replies (.leaveGetStats (r [0])) s ch seq 0x0106 s
      (leBytes 2 s.lv.budget ++ leBytes 2 s.lv.held.toList.sum ++ leBytes 2 s.lv.peak ++
        ([0, 1, 2, 3] : List (Fin 4)).flatMap fun c => le4 s.lv.grants[c].toNat ++ le4 s.lv.delays[c].toNat ++ le4 s.lv.refusals[c].toNat)) ∧
    (asks 0x0206 [] → Replies (.imageStatus (r [])) s ch seq 0x0206 s
      ([BitVec.ofNat 8 s.install.state, BitVec.ofNat 8 s.install.stage] ++ le4 s.install.bytes ++ leBytes 2 s.install.last)) ∧
    (asks 0x0504 [] → ch = 3 → Replies (.authStatus (r [])) s ch seq 0x0504 s
      [s.dbg.level.setWidth 8, s.dbg.slot, s.dbg.source.setWidth 8, BitVec.ofNat 8 s.dbg.failures, if 8 ≤ s.dbg.failures then 1 else 0]) ∧
    (asks 0x0901 [] → s.boot.life ≠ 0 → Replies (.wdCountRead (r [])) s ch seq 0x0901 s (memBytes s.mem 0x1C000000 2)) ∧
    (asks 0x0B02 [] → s.boot.life ≠ 0 → Replies (.coreQuarantineStatus (r [])) s ch seq 0x0B02 s
      (((List.finRange 8).map fun c : Fin 8 => BitVec.ofNat 8 (if coreCount s.variant ≤ c.val then 3
        else if s.cores[c].run = .check ∨ s.cores[c].run = .quarantined then 1 else if s.cores[c].run = .off then 2 else 0)) ++
        (List.finRange 8).map fun c : Fin 8 => s.cores[c].reason))

/-- The commands that set a unit up (R240, R246, R351, R354, R377, R431, R439, R442, R449, R452): POWER_SET_WAKE, LEAVE_SET_BUDGET, CEC_CONFIG without
addresses, CEC_STANDBY_FILTER, IR_CONFIG, KEYPAD_CONFIG, WAKE_KEYS and WD_COUNT_CLEAR leave the settings they are given, and reply. LANE_FRAME and
LANE_SAFE_ALL (R246, R399, R405): every lane that the mask names takes its target for the next frame, and LANE_LATE tells on which side of the frame
event they came; every lane that may drive its output goes to SAFE. -/
def Obligations.SetupAndLaneCommands : Prop :=
  (∀ (s : State) (ch : Fin 4) (seq : BitVec 6) (args : List Byte) (n secs : Nat),
      let asks (code : Nat) (args : List Byte) : Prop := hostAsks s ch seq code args = true
      let r (args : List Byte) : Req := ⟨.host ch seq, args⟩
      let byte (i : Nat) : Byte := args.getD i 0
      let half (i : Nat) : Nat := argN args i 2
      (let a := leBytes 4 n ++ leBytes 4 secs
       let v : Word := if secs = 0 then 0 else BitVec.ofNat 32 (s.time.rtc / 32768 + secs)
       asks 0x0103 a → n < 128 → secs < 2 ^ 32 → Replies (.powerSetWake (r a)) s ch seq 0x0103
         { s with pwr := { s.pwr with wakeMask := BitVec.ofNat 32 n, alarm := v, alarmArmed := decide (v ≠ 0), alarmPending := false } } (leBytes 4 n)) ∧
      (asks 0x0105 (leBytes 2 n) → 40 ≤ n → n ≤ 400 → s.lv.waiting = [] → s.lv.held.toList.sum ≤ n →
        Replies (.leaveSetBudget (r (leBytes 2 n))) s ch seq 0x0105 { s with lv := { s.lv with budget := n } } (leBytes 2 s.lv.budget)) ∧
      (asks 0x0601 args → s.boot.life ≠ 0 → args.length = 6 → half 0 = 0 → byte 5 = 0 → s.cec.tx = none → s.cec.poll = none →
        Replies (.cecConfig (r args)) s ch seq 0x0601
          { s with cec := { s.cec with en := true, mask := 0, phys := BitVec.ofNat 32 ((byte 4).toNat * 65536 + half 2) } } [0, 0]) ∧
      (asks 0x0603 args → s.boot.life ≠ 0 → (byte 0).toNat ≤ 16 → args.length = 1 + (byte 0).toNat →
        Replies (.cecStandbyFilter (r args)) s ch seq 0x0603
          { s with cec := { s.cec with fcount := (byte 0).toNat, fopc := packWords 4 (args.drop 1) } } []) ∧
      (asks 0x0701 args → s.boot.life ≠ 0 → args.length = 16 → (byte 0).toNat ≤ 1 → (byte 1).toNat ≤ 3 → irField (r args) = true → irRange (r args) = true →
        Replies (.irConfig (r args)) s ch seq 0x0701
          { s with ir := updV s.ir (Fin.ofNat 2 (byte 0).toNat) fun k => { k with dec := (byte 1).setWidth 3, param := packWords 4 (args.drop 2) } } []) ∧
      (asks 0x0702 args → s.boot.life ≠ 0 → args.length = 30 → byte 1 = 0 → kpdRange s (r args) = true →
        Replies (.keypadConfig (r args)) s ch seq 0x0702 { s with kpd := { s.kpd with
          en := true, ain := (byte 0).setWidth 5, th := Vector.ofFn fun j : Fin 14 => BitVec.ofNat 16 (half (2 + 2 * j.val)) } } []) ∧
      (asks 0x0703 args → s.boot.life ≠ 0 → (byte 0).toNat ≤ 8 → args.length = 4 + 4 * (byte 0).toNat → (byte 1).toNat < 64 → half 2 = 0 →
        Replies (.wakeKeys (r args)) s ch seq 0x0703 { s with
          irWake := packWords 8 (args.drop 4), irWakeN := (byte 0).toNat, kpd := { s.kpd with wakemask := (byte 1).setWidth 6 } } []) ∧
      (asks 0x0902 [] → s.boot.life ≠ 0 →
        Replies (.wdCountClear (r [])) s ch seq 0x0902 (s.put 0x1C000000 [0, 0]) (memBytes s.mem 0x1C000000 2))) ∧
  (∀ (s : State) (ch : Fin 4) (seq : BitVec 6) (mask : BitVec 24) (ts : List (BitVec 20)) (late : Bool),
      let args : List Byte := leBytes 4 mask.toNat ++ ts.flatMap fun t => leBytes 4 t.toNat
      let named : List (Fin 24) := (List.finRange 24).filter fun n => mask.getLsbD n.val
      let side := late && decide (s.laneBlk.lastFrame = some s.now)
      (hostAsks s ch seq 0x0801 args = true → s.boot.life ≠ 0 → mask ≠ 0 → ts.length = named.length → mask.toNat < 2 ^ laneCount s.variant →
        lanesUp s = true →
        ∃ t, exec (.laneFrame ⟨.host ch seq, args⟩ late) s = .next t ∧
          (∀ n : Fin 24, t.lane[n] = match (named.zip ts).find? fun p => p.1 = n with
            | some p => { s.lane[n] with tgtNext := p.2.toNat } | none => s.lane[n]) ∧
          t.laneBlk = { s.laneBlk with late := if side then s.laneBlk.late ||| mask else s.laneBlk.late &&& ~~~mask, lastNext := some s.now } ∧
          t = { served s ch seq 0x0801 0 [if side then 1 else 0, 0, 0, 0] with lane := t.lane, laneBlk := t.laneBlk }) ∧
      (hostAsks s ch seq 0x0802 [] = true → s.boot.life ≠ 0 →
        let moves (n : Fin 24) : Bool := decide (n.val < laneCount s.variant) && decide (s.lane[n].st ≠ 0) && decide (s.lane[n].st ≠ 3)
        ∃ t, exec (.laneSafeAll ⟨.host ch seq, []⟩) s = .next t ∧
          (∀ n : Fin 24, t.lane[n] = if moves n then { s.lane[n] with
            st := 3, fault := 0, integ := 0, out := 0, pdmOut := false, seqrun := false, swait := none, high := 0, clrPend := false, asked := false } else s.lane[n]) ∧
          t = { served s ch seq 0x0802 0 (leBytes 4 (((List.finRange 24).filter moves).map fun n => 2 ^ n.val).sum) with lane := t.lane }))

/-- POWER_SET_STATE, POWER_SET_POINT and DOMAIN_DARK (R240, R340, R344, R347, R349, R353, R361): the order to sleep follows the reply; VSET takes the
code of the set point and the reply waits until it has settled; a domain that stays as it is asked to be is answered at once, one that changes starts
to come up or to drain. -/
def Obligations.PowerCommands : Prop :=
  ∀ (s : State) (ch : Fin 4) (seq : BitVec 6) (mv : Nat) (code : Fin 32) (nack : Bool),
    let who : Caller := .host ch seq
    let asks (code : Nat) (args : List Byte) : Prop := hostAsks s ch seq code args = true
    let waits (s : State) (code : Nat) (args : List Byte) (stage : ElvStage) (res : List Byte) : State :=
      { s with elv := { s.elv with turn := ch.val, jobs := s.elv.jobs ++ [⟨⟨who, args⟩, code, stage, none, none, res, none⟩] } }
    let power (f : Pwr → Pwr) : State := { s with pwr := f s.pwr }
    let replied := served s ch seq 0x0101 0 []
    (asks 0x0101 [0, 0] → Replies (.powerSetState ⟨who, [0, 0]⟩) s ch seq 0x0101 s []) ∧
    (asks 0x0101 [1, 0] → Leaves (.powerSetState ⟨who, [1, 0]⟩) s
      { replied with pwr := { s.pwr with entering := some .nap }, elv := { s.elv with nap := some ⟨who, s.now⟩, turn := ch.val } }) ∧
    (asks 0x0101 [2, 0] → s.pwr.wakeMask ≠ 0 → Leaves (.powerSetState ⟨who, [2, 0]⟩) s
      { replied with elv := { s.elv with standby := some ⟨who, s.now⟩, turn := ch.val } }) ∧
    (asks 0x0104 (leBytes 2 mv) → 620 ≤ mv → mv < 65536 → otpHalf s 0x49 false 620 ≤ mv → mv ≤ otpHalf s 0x49 true 1100 → 900 ≤ mv ∨ otpRuns s = false →
      (vsetI2c s = false ∨ nack = false → Leaves (.powerSetPoint ⟨who, leBytes 2 mv⟩ nack) s
        (waits (power fun p => { p with vset := some (BitVec.ofNat 16 (vsetCode s mv)), setPoint := BitVec.ofNat 16 mv, vsetBusy := true })
          0x0104 (leBytes 2 mv) .vset (leBytes 2 (vsetLevel s (vsetCode s mv)) ++ leBytes 2 (vsetTime s mv)))) ∧
      (vsetI2c s = true → nack = true → Leaves (.powerSetPoint ⟨who, leBytes 2 mv⟩ nack) s
        (served (power fun p => { p with evt := p.evt.raise 2 }) ch seq 0x0104 0x600 []))) ∧
    (s.boot.life ≠ 0 → 11 ≤ code.val → code.val ≤ 13 → domPresent s.variant code = true → s.pwr.drain.getLsbD code.val = false →
      s.pwr.coming.contains code = false → s.elv.jobs = [] → s.fab.accepted = [] →
      let a (v : Byte) : List Byte := [BitVec.ofNat 8 code.val, v]
      let up := s.pwr.dom.getLsbD code.val
      (asks 0x0108 (a 2) → up = true → Replies (.domainDark ⟨who, a 2⟩) s ch seq 0x0108 s []) ∧
      (asks 0x0108 (a 0) → up = false → Replies (.domainDark ⟨who, a 0⟩) s ch seq 0x0108 s []) ∧
      (asks 0x0108 (a 2) → up = false → Leaves (.domainDark ⟨who, a 2⟩) s
        (waits (power fun p => { p with coming := p.coming ++ [code] }) 0x0108 (a 2) (.up code) [])) ∧
      (asks 0x0108 (a 0) → up = true → Leaves (.domainDark ⟨who, a 0⟩) s
        (waits (power fun p => { p with drain := p.drain ||| BitVec.ofNat 32 (2 ^ code.val) }) 0x0108 (a 0) (.cut code) [])))

/-- CORE_POWER and CORE_RESTART (R240, R246, R344, R345, R355, R506): a core that stays on or off answers at once; one that is switched on takes 35
units of leave and starts to come up; one that is switched off stops and drains; a quarantined core is brought up again, with its messages and its
PARKED buffers gone. -/
def Obligations.CoreCommands : Prop :=
  ∀ (s : State) (ch : Fin 4) (seq : BitVec 6) (c : Core),
    let who : Caller := .host ch seq
    let asks (code : Nat) (args : List Byte) : Prop := hostAsks s ch seq code args = true
    let waits (s : State) (code : Nat) (args : List Byte) (stage : ElvStage) : State :=
      { s with elv := { s.elv with turn := ch.val, jobs := s.elv.jobs ++ [⟨⟨who, args⟩, code, stage, none, none, [], none⟩] } }
    let dom : Fin 32 := ⟨2 + c.val, by omega⟩
    let up := s.pwr.dom.getLsbD dom.val
    let inrush : Fin 41 := ⟨33 + c.val, by omega⟩
    let held := putV s.lv.held inrush 35
    let granted : Leave := { s.lv with
      held := held, peak := max s.lv.peak held.toList.sum, grants := updV s.lv.grants (1 : Fin 4) (· + 1)
      rwait := putV s.lv.rwait inrush 0, rstat := putV s.lv.rstat inrush 1 }
    let fits : Prop := s.lv.held.toList.sum + 35 ≤ s.lv.budget
    let on : List Byte := [BitVec.ofNat 8 c.val, 1]
    let off : List Byte := [BitVec.ofNat 8 c.val, 0]
    let only : List Byte := [BitVec.ofNat 8 c.val]
    s.boot.life ≠ 0 → c.val < coreCount s.variant → s.pwr.drain.getLsbD dom.val = false → s.pwr.coming.contains dom = false → s.elv.jobs = [] →
    s.lv.waiting = [] → s.lv.held[inrush] = 0 →
    (s.cores[c].run ≠ .check → s.cores[c].run ≠ .quarantined →
      (asks 0x0107 on → up = true → Replies (.corePower ⟨who, on⟩) s ch seq 0x0107 s []) ∧
      (asks 0x0107 on → up = false → fits → Leaves (.corePower ⟨who, on⟩) s
        (waits { s with lv := granted, pwr := { s.pwr with coming := s.pwr.coming ++ [dom] } } 0x0107 on (.up dom))) ∧
      (asks 0x0107 off → up = false → Replies (.corePower ⟨who, off⟩) s ch seq 0x0107 s []) ∧
      (asks 0x0107 off → up = true → s.fab.accepted = [] → s.fab.blocked = [] → s.cores[c].sb = [] → cryOwner s false ≠ some (coreM c) →
        Leaves (.corePower ⟨who, off⟩) s (waits { s with
          pwr := { s.pwr with drain := s.pwr.drain ||| BitVec.ofNat 32 (2 ^ dom.val) }
          cores := updV s.cores c fun k => { k with run := .off } } 0x0107 off (.cut dom)))) ∧
    (asks 0x0B01 only → s.cores[c].run = .quarantined → s.boot.life ≠ 2 → fits → ∃ t, exec (.coreRestart ⟨who, only⟩) s = .next t ∧
      t.lv = granted ∧ t.pwr = { s.pwr with coming := s.pwr.coming ++ [dom] } ∧ t.elv = (waits s 0x0B01 only (.up dom)).elv ∧
      (∀ g ∈ t.pool.tags, ¬(g.st = 3 ∧ g.owner.toNat = c.val)) ∧ (queueOf t (0xA0 + BitVec.ofNat 16 c.val)).msgs = [] ∧
      t = { s with lv := t.lv, pwr := t.pwr, elv := t.elv, pool := t.pool, cue := t.cue })

/-- INSTALL_BEGIN and INSTALL_DATA (R241, R285, R286): a session opens on the slot that does not run and its bank is erased whole; each piece of the
body is programmed as far as it fills lines of 32 bytes, after the 256 header bytes, which are held back. INSTALL_END (R241, R285, R287) on a part
without a boot record: a body whose hash and signature verify has its header programmed and the first record written, and the session ends DONE; one
that does not verify ends FAILED, with no byte of the header programmed. -/
def Obligations.InstallSession : Prop :=
  (∀ (s : State) (ch : Fin 4) (seq : BitVec 6) (n : Nat) (k : Session) (d : List Byte),
      let target := installTarget s
      let base := slotBase target
      (hostAsks s ch seq 0x0201 (leBytes 4 n) = true → n % 4 = 0 → 256 ≤ n → n ≤ flashBank s.variant → runsTrial s = false → flashReady s = true →
        leaveReady s 40 = true → s.install.session = none → (∀ b, recInUse s = some b → ¬(b.state = 1 ∧ b.trial = if target then 1 else 0)) →
        ∃ t, exec (.installBegin ⟨.host ch seq, leBytes 4 n⟩ none none) s = .next t ∧
          t.install.session = some ⟨.chan ch, target, n, 0, [], []⟩ ∧ t.install.state = 1 ∧ t.install.stage = 1 ∧ t.install.bytes = 0 ∧ t.install.last = 0 ∧
          t.link = (answered s ch seq 0x0201 0 [if target then 1 else 0]).link ∧ (∀ i < flashBank s.variant, t.byte (base + i) = 0xFF) ∧
          onlyFlash s t base (base + flashBank s.variant) 0 0 ∧ flashFrame s t) ∧
      (hostAsks s ch seq 0x0202 (leBytes 4 k.got ++ d) = true → s.install.session = some k → k.who = .chan ch → flashReady s = true →
        leaveReady s 25 = true → 4 ≤ d.length → d.length ≤ 1020 → d.length % 4 = 0 → k.got + d.length ≤ k.length → k.length ≤ flashBank s.variant →
        k.part.length + 256 ≤ k.got ∨ (k.got = k.head.length ∧ k.part = []) →
        let body := k.part ++ d.drop (256 - k.head.length)
        let a := slotBase k.slot + max k.got 256 - k.part.length
        let whole := body.length / 32 * 32
        ∃ t, exec (.installData ⟨.host ch seq, leBytes 4 k.got ++ d⟩ none none) s = .next t ∧
          t.install.session = some { k with got := k.got + d.length, head := k.head ++ d.take (256 - k.head.length), part := body.drop whole } ∧
          t.install.bytes = k.got + d.length ∧ t.install.last = 0 ∧ t.link = (answered s ch seq 0x0202 0 (leBytes 4 (k.got + d.length))).link ∧
          memBytes t.mem a whole = body.take whole ∧ onlyFlash s t a (a + whole) 0 0 ∧ flashFrame s t)) ∧
  (∀ (s : State) (ch : Fin 4) (seq : BitVec 6) (k : Session),
      let base := slotBase k.slot
      let first : BootRec := ⟨1, if k.slot then 1 else 0, 0xFF, 0, 0, 0, 0, 1, 1, 1, 2⟩
      hostAsks s ch seq 0x0203 [] = true → s.install.session = some k → k.who = .chan ch → flashReady s = true → leaveReady s 40 = true →
      recInUse s = none → k.got = k.length → k.head.length = 256 → k.part = [] →
      ∃ t, exec (.installEnd ⟨.host ch seq, []⟩ none none) s = .next t ∧ t.install.session = none ∧ flashFrame s t ∧
        (if installHeadOk s k && bodyOk s k.slot (headerOf k.head) && signOk k.head then
          t.install.state = 3 ∧ t.install.last = 0 ∧
          t.link = (answered s ch seq 0x0203 0 ([if k.slot then 1 else 0, 0] ++ leBytes 4 (headerOf k.head).version.toNat)).link ∧
          memBytes t.mem base 256 = k.head ∧ memBytes t.mem 0x200000 32 = first.bytes ∧ (∀ i < 4064, t.byte (0x200020 + i) = 0xFF) ∧
          onlyFlash s t base (base + 256) 0x200000 0x201000
        else
          t.install.state = 4 ∧ t.install.last = 0x601 ∧ t.link = (answered s ch seq 0x0203 0x601 []).link ∧ onlyFlash s t 0 0 0 0))

/-- IMAGE_CONFIRM, IMAGE_REJECT and SET_START_FRESH (R241, R242, R281, R283, R284, R294): on a running trial each writes one boot record into the copy
not in use, with the next sequence and the fields it changes, and nothing else of flash changes; a reset is ordered by the reject. -/
def Obligations.TrialDecisions : Prop :=
  ∀ (s : State) (ch : Fin 4) (seq : BitVec 6) (reason : Nat) (used : Bool) (b : BootRec) (slot : Nat) (run : Bool),
    let who : Caller := .host ch seq
    let a := recAddr (!used) slot
    let trial (units : Nat) : Prop := s.boot.life ≠ 0 ∧ flashReady s = true ∧ leaveReady s units = true ∧ s.boot.slot = some run ∧ runsTrial s = true ∧
      recCopy s = some (used, b) ∧ recBlank s (!used) = some slot ∧ (recBlank s used).isSome = true
    let writes (t : State) (code : Nat) (r : BootRec) : Prop :=
      memBytes t.mem a 32 = { r with seq := b.seq + 1 }.bytes ∧ t.link = (answered s ch seq code 0 []).link ∧ onlyFlash s t a (a + 32) 0 0
    trial 25 →
    (hostAsks s ch seq 0x0204 [] = true → ∃ t, exec (.imageConfirm ⟨who, []⟩ none none) s = .next t ∧ flashFrame s t ∧ writes t 0x0204 { b with
      state := 0, active := if run then 1 else 0, trial := 0xFF, attempts := 0, cgen := b.sgen, base := if b.setmode = 1 then b.sgen else b.base }) ∧
    (hostAsks s ch seq 0x0205 [BitVec.ofNat 8 reason] = true → reason ≤ 2 → ∃ t, exec (.imageReject ⟨who, [BitVec.ofNat 8 reason]⟩ none none) s = .next t ∧
      flashFrame s { t with elv := s.elv } ∧ t.elv = { s.elv with reject := some ⟨who, s.now⟩, turn := ch.val } ∧
      writes t 0x0205 { b with reject := BitVec.ofNat 8 (reason + 1) }) ∧
    (hostAsks s ch seq 0x0305 [] = true → b.nextgen.toNat ≤ b.cgen.toNat + 1 → ∃ t, exec (.setStartFresh ⟨who, []⟩ none none) s = .next t ∧ flashFrame s t ∧
      writes t 0x0305 { b with setmode := 1, sgen := b.nextgen, nextgen := b.nextgen + 1 })

/-- SET_READ, SET_WRITE, SET_DELETE and SET_COMMIT (R242, R243, R291, R295): a read replies the winning record's schema, length and decrypted data; a
write and a delete are staged in the caller's batch, in order, and change nothing else, but that a dark FLASH comes up for the command (R347); a commit of one staged record appends its entry and a COMMIT
with its MAC at the end of the log, and empties the batch. -/
def Obligations.SettingsCommands : Prop :=
  ∀ (s : State) (ch : Fin 4) (seq : BitVec 6) (key schema : BitVec 16) (d : List Byte) (b : BootRec) (i q off : Nat),
    let who : Caller := .host ch seq
    let le2 (v : BitVec 16) : List Byte := leBytes 2 v.toNat
    let batch := batchOf s (.chan ch)
    let staged (c : Staged) : State :=
      { s with sets := { s.sets with batches := (s.sets.batches.filter fun x => x.1 ≠ .chan ch) ++ [(.chan ch, batch ++ [c])] } }
    let size (l : List Staged) : Nat := (l.map fun c => 6 + match c.data with | some d => d.length | none => 0).sum
    let record : Staged := ⟨key, schema, some d⟩
    let delete : Staged := ⟨key, 0, none⟩
    let stages (i : Instr) (code : Nat) (c : Staged) : Prop :=
      let n := leBytes 2 (size (batch ++ [c]))
      (s.pwr.dom.getLsbD 10 = true → Replies i s ch seq code (staged c) n) ∧
      (s.pwr.dom.getLsbD 10 = false → ∃ t, exec i s = .next t ∧ t.sets = (staged c).sets ∧ t.link = (served s ch seq code 0 n).link ∧ t.mem = s.mem ∧
        t.pwr.dom = s.pwr.dom ∧ t.pwr.evt = s.pwr.evt.raise 0)
    s.boot.life ≠ 0 → recInUse s = some b → key ≠ 0 → key.toNat < 0xFF00 →
    (hostAsks s ch seq 0x0301 (le2 key) = true → flashReady s = true → ∀ c, setLookup s key.toNat = some c →
      Replies (.setRead ⟨who, le2 key⟩) s ch seq 0x0301 s
        (leBytes 2 c.e.schema ++ leBytes 2 c.e.len ++ aesCtr s.key.setEnc (beBytes 16 (Config.setCounter c.e.seq c.e.off).toNat) c.e.data)) ∧
    (hostAsks s ch seq 0x0302 (le2 key ++ le2 schema ++ leBytes 2 d.length ++ d) = true → d.length ≤ 1016 → s.boot.slot.isSome = true →
      s.boot.schMin.toNat ≤ schema.toNat → schema.toNat ≤ s.boot.schMax.toNat → size (batch ++ [record]) ≤ 1024 →
      stages (.setWrite ⟨who, le2 key ++ le2 schema ++ leBytes 2 d.length ++ d⟩) 0x0302 record) ∧
    (hostAsks s ch seq 0x0303 (le2 key) = true → size (batch ++ [delete]) ≤ 1024 →
      stages (.setDelete ⟨who, le2 key⟩) 0x0303 delete) ∧
    (let gen := if runsTrial s then b.sgen.toNat else b.cgen.toNat
     let len := 12 + (d.length + 3) / 4 * 4
     let a := 0x201000 + 2048 * i + off
     let entry := entryBytes key.toNat schema.toNat 1 (aesCtr s.key.setEnc (beBytes 16 (Config.setCounter q off).toNat) d)
     let mac := (hmac s.key.setMac (leBytes 4 gen ++ entry)).take 16
     hostAsks s ch seq 0x0304 [] = true → flashReady s = true → leaveReady s 25 = true → batch = [record] → d.length ≤ 1016 →
     (logEnd s (setSectors s)).pos = some (i, q, off) → off + len + 36 ≤ 2048 → i < 24 →
     ∃ t, exec (.setCommit ⟨who, []⟩ none none) s = .next t ∧ flashFrame s t ∧ t.install = s.install ∧ t.link = (answered s ch seq 0x0304 0 [1, 0]).link ∧
       t.sets.batches = (s.sets.batches.filter fun x => x.1 ≠ .chan ch) ∧
       memBytes t.mem a (len + 36) = entry ++ entryBytes 0xFFFF 0 3 (leBytes 4 gen ++ leBytes 4 1 ++ mac) ∧ onlyFlash s t a (a + len + 36) 0 0)

/-- OTP_READ, OTP_PROGRAM, OTP_REINFORCE, OTP_SCAN and LIFECYCLE_ADVANCE (R244, R245, R297, R332-R339): reads and scans reply what the cells give and
change nothing but the records that a scan makes of the weak words; the cells are as the pulses left them, the reply says whether they passed, were marginal or failed, and with how many tries; the first
advance writes the marker of DEVELOP. -/
def Obligations.OtpCommands : Prop :=
  ∀ (s : State) (ch : Fin 4) (seq : BitVec 6) (w n : Nat) (data : Word) (pulses : List Pulse),
    let who : Caller := .host ch seq
    let stored (t : State) (y : OtpWord) : Prop :=
      t.otp = { s.otp with cells := otpIns s.otp.cells y, fresh := y.w :: s.otp.fresh.filter (· ≠ y.w) } ∧ t = { s with otp := t.otp, lv := t.lv, link := t.link, elv := { s.elv with turn := ch.val } }
    let idle : Prop := otpRuns s = false ∧ vddLow s = false ∧ leaveReady s 30 = true
    let status (code : Nat) : Nat := if code = 0 then 0 else if code = 2 then 0x603 else 0x600
    let first (code : Nat) : Byte := if code = 0 then 0 else if code = 2 then 1 else 2
    (let a := leBytes 2 w ++ leBytes 2 n
     (hostAsks s ch seq 0x0401 a = true → 1 ≤ n → n ≤ 255 → w + n ≤ 1024 → 0x18 ≤ w ∨ w + n ≤ 0x10 → s.otp.busy = none →
       ∀ l, otpReadAll s w n = some l → Replies (.otpRead ⟨who, a⟩) s ch seq 0x0401 s l) ∧
     (hostAsks s ch seq 0x0404 a = true → 1 ≤ n → n ≤ 1024 → w + n ≤ 1024 → otpRuns s = false →
       let weak := ((List.range n).map (w + ·)).filter fun i => 2 ≤ otpClass (otpWordOf s.otp i)
       let tells := leBytes 2 weak.length ++ (weak.take 16).flatMap (leBytes 2)
       let rec' (i : Nat) : EcRec :=
         let c := otpClass (otpWordOf s.otp i)
         ⟨0x0A, if c = 4 then 1 else 0, 15, true, 0, BitVec.ofNat 32 i, BitVec.ofNat 32 c, s.tb.setWidth 32⟩
       (weak = [] → Replies (.otpScan ⟨who, a⟩ none) s ch seq 0x0404 s tells) ∧
       (s.ec.fifo.length + weak.length ≤ 32 → ∃ t, exec (.otpScan ⟨who, a⟩ none) s = .next t ∧ t.ec.fifo = s.ec.fifo ++ weak.map rec' ∧
         t = { served s ch seq 0x0404 0 tells with ec := t.ec }))) ∧
    (let a := leBytes 2 w ++ leBytes 4 data.toNat
     hostAsks s ch seq 0x0402 a = true → w < 1024 → data ≠ 0 → otpMay s.boot.life w = true → idle →
     (∀ y code tries, otpProgram (otpWordOf s.otp w) data pulses = some (y, code, tries) → code ≠ 3 →
       ∃ t, exec (.otpProgram ⟨who, a⟩ pulses) s = .next t ∧ stored t y ∧
         t.link = (answered s ch seq 0x0402 (status code) [first code, BitVec.ofNat 8 tries]).link)) ∧
    (hostAsks s ch seq 0x0403 (leBytes 2 w) = true → w < 1024 → (otpWordOf s.otp w).normal ≠ 0 → otpMay s.boot.life w = true → idle →
     (∀ y code tries, otpReinforce (otpWordOf s.otp w) pulses = some (y, code, tries) →
       ∃ t, exec (.otpReinforce ⟨who, leBytes 2 w⟩ pulses) s = .next t ∧ stored t y ∧
         t.link = (answered s ch seq 0x0403 (status code) [first code, BitVec.ofNat 8 tries]).link)) ∧
    (let marker : Word := 0x4C564544
     hostAsks s ch seq 0x0405 [1, 0x4C, 0x43, 0x41] = true → s.boot.life = 0 → otpCharged s 0x10 8 = true → otpCharged s 0x18 8 = true → idle →
     (∀ y tries, otpProgram (otpWordOf s.otp 0) marker pulses = some (y, 0, tries) →
       ∃ t, exec (.lifecycleAdvance ⟨who, [1, 0x4C, 0x43, 0x41]⟩ pulses) s = .next t ∧ stored t y ∧
         t.link = (answered s ch seq 0x0405 0 [(lifeDecode (otpLoad t)).1.setWidth 8]).link))

/-- AUTH_CHALLENGE, AUTH_RESPONSE, AUTH_DROP and CHALLENGE_EXPIRY (R244, R305-R309): a challenge keeps its nonce and its level; a response spends it,
and one whose signature or key fails counts as a failure, while a good one opens a session at the lower of the levels asked and permitted; the drop
ends session and challenges; ten seconds end a challenge. -/
def Obligations.Authorisation : Prop :=
  ∀ (s : State) (seq : BitVec 6) (level : BitVec 2) (nonce args : List Byte) (c : Challenge) (tap : Bool),
    let who : Caller := .host 3 seq
    let dbg (d : Dbg) : State := { s with dbg := d }
    (hostAsks s 3 seq 0x0501 [level.setWidth 8] = true → level = 1 ∨ level = 2 → s.dbg.failures < 8 → s.key.stopped = false → 8 ≤ s.key.reserve →
      Replies (.authChallenge ⟨who, [level.setWidth 8]⟩ nonce) s 3 seq 0x0501
        { s with key := { s.key with reserve := s.key.reserve - 8 }, dbg := { s.dbg with chHost := some ⟨nonce, level, s.now⟩ } } nonce) ∧
    (hostAsks s 3 seq 0x0502 args = true → args.length = 128 → s.dbg.failures < 8 → s.dbg.chHost = some c → authHeld s = false →
      (hasCry s.variant = true → leaveReady s 15 = true) →
      let slot := debugSlot s (args.take 64)
      let good := ecdsaVerify (sha256 (authMessage c false)) (args.take 64) ((args.drop 64).take 64) && slot.isSome
      let granted := min c.level.toNat (match slot with | some x => x.2 | none => 0)
      ∃ t, exec (.authResponse ⟨who, args⟩ none) s = .next t ∧ t.dbg.chHost = none ∧
        (good = false → t.dbg = { s.dbg with chHost := none, failures := s.dbg.failures + 1 } ∧ t.link = (answered s 3 seq 0x0502 0x601 []).link ∧
          t = { s with dbg := t.dbg, lv := t.lv, link := t.link, elv := { s.elv with turn := 3 } }) ∧
        (good = true → s.dbg.level = 0 → s.boot.life ≠ 2 → t.dbg.level.toNat = granted ∧ t.dbg.source = 2 ∧
          t.link = (answered s 3 seq 0x0502 0 [BitVec.ofNat 8 granted, BitVec.ofNat 8 (match slot with | some x => x.1 | none => 0)]).link)) ∧
    (hostAsks s 3 seq 0x0503 [] = true → ∃ t, exec (.authDrop ⟨who, []⟩) s = .next t ∧ t.dbg.level = 0 ∧ t.dbg.source = 0 ∧ t.dbg.slot = 0xFF ∧
      t.dbg.chHost = none ∧ t.dbg.chTap = none ∧ t.link = (answered s 3 seq 0x0503 0 []).link) ∧
    (c.issued + 240000000 ≤ s.now → (if tap then s.dbg.chTap else s.dbg.chHost) = some c →
      Leaves (.challengeExpiry tap) s (dbg (if tap then { s.dbg with chTap := none } else { s.dbg with chHost := none })))

/-- KEY_DERIVE, KEY_RELEASE, CEC_SEND and a code that is no command (R232, R246, R320, R438): a core's key is derived into a slot that was free, and
its handle names that slot; the release frees the slot of a handle that the core holds; a frame to send waits for its attempts; an unknown code has no
effect but its status. -/
def Obligations.KeysFramesAndUnknownCodes : Prop :=
  ∀ (s : State) (ch : Fin 4) (seq : BitVec 6) (c : Core) (tag : BitVec 16) (purpose : BitVec 2) (label data : List Byte) (src dst : BitVec 4)
    (code : Nat) (i : Fin 16),
    (let a : List Byte := [purpose.setWidth 8, 0, 0, 0] ++ label
     coreRequests s c tag 0x0A01 a = true → purpose ≠ 3 → label.length = 16 → s.boot.life ≠ 0 → ¬(s.boot.life = 2 ∧ s.dbg.level = 2) →
     (hasCry s.variant = true → leaveReady s 15 = true) → ((List.finRange 16).find? fun i => !s.key.slots[i].held) = some i →
     let g := if 4095 ≤ s.key.slots[i].gen then 1 else s.key.slots[i].gen + 1
     ∃ t, exec (.keyDerive ⟨.core c true tag, a⟩) s = .next t ∧
       t.key = { s.key with slots := putV s.key.slots i ⟨true, g, purpose, c,
         kdf s.key.drv label (if s.boot.life = 3 then 0x5254524E else 0) (purpose.setWidth 8) (if purpose = 0 then 128 else 256)⟩ } ∧
       coreHears s t c tag 0x0A01 0 (leBytes 2 (g * 16 + i.val))) ∧
    (let k := s.key.slots[i]
     let h := leBytes 2 (k.gen * 16 + i.val)
     coreRequests s c tag 0x0A02 h = true → s.boot.life ≠ 0 → k.held = true → k.owner = c → k.gen ≤ 4095 →
     ∃ t, exec (.keyRelease ⟨.core c true tag, h⟩) s = .next t ∧
       t.key = { s.key with slots := putV s.key.slots i ⟨false, k.gen, 0, 0, []⟩ } ∧ coreHears s t c tag 0x0A02 0 []) ∧
    (let a : List Byte := [dst.setWidth 8, src.setWidth 8] ++ data
     hostAsks s ch seq 0x0602 a = true → s.boot.life ≠ 0 → data.length ≤ 15 → src ≠ 15 → s.cec.mask.getLsbD src.toNat = true → s.cec.tx = none →
     s.cec.poll = none → Leaves (.cecSend ⟨.host ch seq, a⟩) s { s with
       cec := { s.cec with tx := some ⟨(src ++ dst) :: data, 0⟩ }
       elv := { s.elv with turn := ch.val, jobs := s.elv.jobs ++ [⟨⟨.host ch seq, a⟩, 0x0602, .cecSend, none, none, [], none⟩] } }) ∧
    (hostAsks s ch seq code data = true → elvCodes.contains code = false → isUser code = false → code < 65536 →
      Leaves (.unknownCommand ⟨.host ch seq, data⟩ (BitVec.ofNat 16 code)) s (served s ch seq code 0x202 []))

/-! ### The controllers and the leave arbiter (14, 16, 17) -/

/-- The flash controller (R271, R276-R278): ERASE_SECTOR and PROGRAM_LINE start on the sector and on the line of FLC_ADDR and count in the write
counter; FLASH_OP_DONE leaves the sector erased or the line with its eight words, or what the failure left, which is never what it should be (log
entry 56), with the result and the event, and no byte outside them changes but the counter's mirror. The OTP
controller (R333-R339): each command starts on the word it names; at its end a read gives the word's data or says that it is a secret or cannot be
corrected, a scan gives its class, a program of a blank word whose first pulse reads right at both margins passes with one try, and a reinforcement
that reads right passes. -/
def Obligations.FlashAndOtpControllers : Prop :=
  (∀ (s : State) (k : Fin 3) (left : FlashLeft),
      let a := s.flc.addr.toNat
      let p : Port := ⟨8, 0⟩
      let sector := if k = 2 then 2048 else 4096
      let line := (s.flc.data.toList.map fun w => leBytes 4 w.toNat).flatten
      let start (o : FlcOp) : State := wroteOk { s with flc := { s.flc with busy := some o, result := 0, wcount := s.flc.wcount + 1 } } p
      let ended (t : State) (bad : Bool) : State :=
        { t with flc := { t.flc with busy := none, result := if bad then 2 else 0, status := s.flc.status.raise (if bad then 1 else 0) } }.put
          0x1C000080 (leBytes 8 s.flc.wcount.toNat)
      let free (lo n : Nat) (l : List Nat) : List Nat := l.filter fun x => x < lo || lo + n ≤ x
      let filled (lo n : Nat) (bs : List Byte) (bad : Bool) : State := { s with
        mem := memPut s.mem lo bs, sec := free lo n s.sec, poison := free lo n s.poison
        ded := (if bad then (List.range (n / 8)).map fun i => lo + 8 * i else []) ++ free lo n s.ded }
      (flashArray s a = some k → canWrite s p 0x4F000000 = true → s.flc.busy = none →
        Completes (.eraseSector 0) s (start (.erase (a / sector * sector))) ∧ Completes (.programLine 0) s (start (.program (a / 32 * 32) line))) ∧
      (quiet s = true → s.fab.blocked = [] → s.elv.clean = none →
        (∀ lo, s.flc.busy = some (.erase lo) → lo % 8 = 0 →
          let n := if lo < 0x200000 then 4096 else 2048
          Completes (.flashOpDone none) s (ended { s with
            mem := s.mem.filter (fun c => c.1 < lo || lo + n ≤ c.1), sec := free lo n s.sec, ded := free lo n s.ded, poison := free lo n s.poison } false) ∧
          (left.bytes.length = n → lo < 0x200000 → lo % flashBank s.variant ≠ 0 →
            Completes (.flashOpDone (some left)) s (ended (filled lo n left.bytes left.poison) true)) ∧
          ∃ t, exec (.flashOpDone (some left)) s = .next t ∧ t.flc = (ended s true).flc ∧
            ∀ a, a < lo ∨ lo + n ≤ a → a < 0x1C000080 ∨ 0x1C000088 ≤ a → t.byte a = s.byte a) ∧
        (∀ lo bs, s.flc.busy = some (.program lo bs) → bs.length = 32 → lo % 8 = 0 →
          Completes (.flashOpDone none) s (ended (filled lo 32 bs false) false) ∧
          (left.bytes.length = 32 → left.bytes ≠ bs ∨ left.poison = true → Completes (.flashOpDone (some left)) s (ended (filled lo 32 left.bytes left.poison) true))))) ∧
  (∀ (s : State) (w : BitVec 10) (pulses : List Pulse) (d : Word),
      let p : Port := ⟨8, 0⟩
      let start (op : BitVec 4) : State := wroteOk { s with otp := { s.otp with busy := some (op, w.toNat) } } p
      let x := otpWordOf s.otp w.toNat
      let ended (o : Otp) (result tries : BitVec 4) (bit : Nat) : State :=
        { s with otp := { o with busy := none, result := result, tries := tries, status := s.otp.status.raise bit } }
      let code : BitVec 39 := otpCode d
      let stored (y : OtpWord) : Otp := { s.otp with cells := otpIns s.otp.cells y, fresh := w.toNat :: s.otp.fresh.filter (· ≠ w.toNat) }
      let runs (op : BitVec 4) : Prop := s.otp.busy = some (op, w.toNat)
      (canWrite s p 0x4F010000 = true → s.otp.busy = none → let r : BitVec 28 := w.setWidth 28
        Completes (.otpCmdRead r) s (start 1) ∧ Completes (.readStrict r) s (start 2) ∧ Completes (.scanWord r) s (start 5) ∧
        (vddLow s = false → Completes (.otpCmdProgram r) s (start 3) ∧ Completes (.otpCmdReinforce r) s (start 4))) ∧
      (runs 1 → (w.toNat < 0x10 ∨ 0x17 < w.toNat) → x.normal = code → Leaves (.otpOpDone pulses) s (ended { s.otp with rdata := d } 0 0 0)) ∧
      (runs 2 → (w.toNat < 0x10 ∨ 0x17 < w.toNat) → x.strict = code → Leaves (.otpOpDone pulses) s (ended { s.otp with rdata := d } 0 0 0)) ∧
      (runs 1 → 0x10 ≤ w.toNat → w.toNat ≤ 0x17 → Leaves (.otpOpDone pulses) s (ended { s.otp with rdata := 0 } 5 0 1)) ∧
      (runs 5 → x.charge = 0 → Leaves (.otpOpDone pulses) s (ended { s.otp with cls := 0 } 0 0 0)) ∧
      (runs 5 → x.charge ≠ 0 → x.normal = code → Leaves (.otpOpDone pulses) s (ended { s.otp with cls := if x.strict = x.charge then 1 else 2 } 0 0 0)) ∧
      (runs 3 → x.charge = 0 → x.normal = 0 → x.strict = 0 → s.otp.wdata = d → pulses = [⟨code, code⟩] →
        Leaves (.otpOpDone pulses) s (ended (stored ⟨x.w, code, code, code⟩) 0 1 0)) ∧
      (runs 3 → x.normal ≠ 0 → Leaves (.otpOpDone pulses) s (ended (stored x) 3 0 1)) ∧
      (runs 4 → d ≠ 0 → x.normal = code → x.charge = code → x.strict &&& ~~~code = 0 → pulses = [⟨code, code⟩] →
        Leaves (.otpOpDone pulses) s (ended (stored ⟨x.w, code, code, code⟩) 0 1 0)))

/-- LV_REQUEST, LV_RELEASE and LEAVE_WAIT_LIMIT (R354-R356, R359): a ticket that fits is granted and counted, one that does not fit waits behind the
others, a release returns its units; a request on a ticket that holds or waits, and a release of one that holds nothing, only name their reason in
LV_CSTAT; a request that has waited for the limit of its class is refused: the converter or the stat port it was for is told so, and a core that a HELD
send waits for is asked for again later. -/
def Obligations.LeaveArbiter : Prop :=
  ∀ (s : State) (ticket : Fin 8) (units : Nat) (cls : BitVec 2) (w : LvWait),
    let p : Port := ⟨8, 0⟩
    let r : Fin 41 := ⟨ticket.val, by omega⟩
    let word : BitVec 28 := BitVec.ofNat 28 (units + 4096 * ticket.val + 2 ^ 20 * cls.toNat)
    let lv (l : Leave) : State := wroteOk { s with lv := { l with cstat := 0 } } p
    let turned (n : BitVec 4) : State := wroteOk { s with lv := { s.lv with cstat := n } } p
    let held := putV s.lv.held r units
    let c : Fin 4 := cls.toFin
    (canWrite s p 0x40020000 = true → 1 ≤ units → units ≤ 400 →
      (s.lv.held[r] = 0 → (∀ x ∈ s.lv.waiting, x.r ≠ r) → units ≤ s.lv.budget →
        ((∀ x ∈ s.lv.waiting, cls.toNat < x.cls.toNat) → s.lv.held.toList.sum + units ≤ s.lv.budget → Completes (.lvRequest word) s (lv { s.lv with
          held := held, peak := max s.lv.peak held.toList.sum, grants := updV s.lv.grants c (· + 1), rwait := putV s.lv.rwait r 0
          rstat := putV s.lv.rstat r 1 })) ∧
        (s.lv.budget < s.lv.held.toList.sum + units → s.lv.waitlim[c] ≠ 0 →
          Completes (.lvRequest word) s (lv { s.lv with waiting := s.lv.waiting ++ [⟨r, units, cls, s.now⟩] }))) ∧
      (s.lv.held[r] ≠ 0 ∨ (∃ x ∈ s.lv.waiting, x.r = r) → Completes (.lvRequest word) s (turned 2)) ∧
      (s.lv.held[r] = 0 → Completes (.lvRelease word) s (turned 3)) ∧
      (s.lv.held[r] ≠ 0 → s.lv.waiting = [] → Completes (.lvRelease word) s (lv { s.lv with held := putV s.lv.held r 0 }))) ∧
    (s.lv.waiting = [w] → quiet s = true → w.arrival + s.lv.waitlim[w.cls.toFin] ≤ s.now → s.elv.jobs = [] → s.elv.clean ≠ some w.r →
      let refused : State := { s with lv := { s.lv with
        waiting := [], refusals := updV s.lv.refusals w.cls.toFin (· + 1), evt := s.lv.evt.raise 0
        rwait := putV s.lv.rwait w.r (s.now - w.arrival), rstat := putV s.lv.rstat w.r 3 } }
      (∀ a : Fin 4, w.r.val = 17 + a.val → Leaves (.leaveWaitLimit w.r) s { refused with adc := updV s.adc a fun k => { k with
        en := false, leaveWait := false, scan := none, reqs := [], kpdReq := false, evt := k.evt.raise 2 } }) ∧
      (w.r.val = 32 → Leaves (.leaveWaitLimit w.r) s { refused with stat := { s.stat with en := false, leaveWait := false, evt := s.stat.evt.raise 3 } }) ∧
      (∀ d : Core, w.r.val = 33 + d.val → let code : Fin 32 := ⟨2 + d.val, by omega⟩
        (s.pwr.heldUp.contains code = true → Leaves (.leaveWaitLimit w.r) s { refused with pwr := { s.pwr with
          evt := s.pwr.evt.raise 1, heldUp := s.pwr.heldUp.filter (· ≠ code), retry := putV s.pwr.retry d (some s.now) } }) ∧
        (s.pwr.heldUp.contains code = false → Leaves (.leaveWaitLimit w.r) s refused)))

/-! ### Resets, start-up and power (13, 17, 25) -/

/-- POWER_ON_RESET, NRESET, ELVUK_RESET and ESCALATION (R14, R47, R48, R249-R252, R431, R501): every unit outside AO is at its reset value; AO's registers,
the write counter, the RTC and the alarm among them, outlive every reset but power-on; the cause and its detail wait to be recorded, and of resets that
come together (no tick between them, log entry 58) the first in the order of R252. Unless the reset cuts an operation of flash or OTP, or finds an
earlier reset unrecorded, memory keeps the flash arrays and the Green Room, and the OTP cells stay; elsewhere memory reads as reset. What the CEC engine
and the keypad keep is the model's reading (log entry 58). -/
def Obligations.ResetsKeepAo : Prop :=
  ∀ (s : State) (hsel : Bool) (code : BitVec 8) (o : ElvOrder), memWf s.mem = true →
    let rank (cause : Byte) : Nat := [1, 2, 3, 5].idxOf cause.toNat
    let together : Prop := s.boot.stage = .reset ∧ s.tb = 0
    let first (cause detail : Byte) : ResetCause :=
      if together ∧ rank s.boot.cause.cause ≤ rank cause then s.boot.cause else ⟨cause, detail⟩
    let uncut : Prop := flashRunning s = none ∧ s.otp.busy = none ∧ s.elv.jobs = [] ∧ (s.boot.stage ≠ .reset ∨ together)
    let w : Wd := { s.wd with meas := 0 }
    let down (t : State) (c : ResetCause) (mode : Bool) : Prop :=
      t.boot.cause = c ∧ t.boot.stage = .reset ∧ t.tb = 0 ∧ t.sys = {} ∧ t.ec = {} ∧ t.lv = {} ∧ t.cores = Vector.replicate 8 {} ∧
      t.elv = {} ∧ t.key = {} ∧ t.trc = {} ∧ t.link.up = false ∧ t.link.mode = mode ∧ t.dbg.level = 0 ∧ t.pool = (State.base s.variant).pool ∧
      t.cue = (State.base s.variant).cue ∧ t.fab = (State.base s.variant).fab ∧ t.dma = Vector.replicate 16 {} ∧ t.lane = Vector.replicate 24 {} ∧
      t.adc = Vector.replicate 4 {} ∧ t.spd = Vector.replicate 8 {} ∧ t.uart = Vector.replicate 2 {} ∧ t.i2c = Vector.replicate 2 {} ∧ t.cry = {} ∧
      t.part = {} ∧ t.gpio.pads = s.gpio.pads ∧ t.variant = s.variant ∧ t.pending = s.pending ∧ t.pwr.mode = .run ∧
      t.pwr.dom = (State.base s.variant).pwr.dom ∧ t.pwr.sram = (State.base s.variant).pwr.sram ∧ t.fatal = none ∧
      (uncut → t.otp.cells = s.otp.cells ∧
        ∀ a < 0x20000000, t.byte a = if a < 0x210000 ∨ (0x1C000000 ≤ a ∧ a < 0x1C008000) then s.byte a else unlisted a) ∧
      (if c.cause = 1 then t.time.rtc = 0 ∧ t.flc.wcount = 0 ∧ t.pwr.wakeMask = 0 ∧ t.wd = {} ∧ t.dbg.failures = 0 ∧ t.cec = {} ∧ t.kpd = {}
       else t.time.rtc = s.time.rtc ∧ t.flc.wcount = s.flc.wcount ∧ t.pwr.wakeMask = s.pwr.wakeMask ∧ t.pwr.alarm = s.pwr.alarm ∧
        t.pwr.alarmArmed = s.pwr.alarmArmed ∧ t.pwr.evt = s.pwr.evt ∧ t.dbg.failures = s.dbg.failures ∧ t.boot.secs = s.time.rtc / 32768 ∧
        t.cec = { s.cec with tx := none, poll := none } ∧ t.ir = s.ir ∧ t.irWake = s.irWake ∧
        t.kpd = { s.kpd with cand := .none, runs := 0, repAt := s.kpd.repAt - s.now } ∧
        t.wd = if w.en then { w with count := 0, grace := true, gwake := false, openHeld := w.warn } else w)
    (∃ t, exec (.powerOnReset hsel) s = .next t ∧ down t (first 1 0) hsel) ∧
    (∃ t, exec (.nreset hsel) s = .next t ∧ down t (first 2 0) hsel) ∧
    (∃ t, exec (.elvukReset true) s = .next t ∧ down t (first 4 2) s.link.mode) ∧
    (s.elv.reject = some o → orderDue s o = true → ∃ t, exec (.elvukReset false) s = .next t ∧ down t (first 4 1) s.link.mode) ∧
    (s.fatal = some code → ∃ t, exec .escalation s = .next t ∧ down t (first 5 code) s.link.mode)

/-- FIRST_STAGE and CORE_RELEASE (R47, R221, R253-R258, R261, R266, R269, R319): the reset is recorded in the history, the keys are locked and the
root key is gone, the link is up and the lifecycle decoded; a blank part has no candidate, and the Curtain then opens with no slot; a candidate has
its cores released at the image entry behind a closed Curtain. VERIFY_PASS and VERIFY_FAIL (R262, R266-R269): an image that verifies has the Curtain
opened with it running on; one that does not has every stage core, every firmware-owned block and SRAM back at reset, and the next candidate runs, or
the Curtain opens with none. -/
def Obligations.StartUp : Prop :=
  (∀ (s : State) (c : Bool) (rest : List Bool), memWf s.mem = true →
      (s.boot.stage = .reset → s.boot.cause.cause ≠ 1 → s.boot.cause.cause ≠ 3 → ∃ t, exec (.firstStage none) s = .next t ∧
        t.boot.stage = .release ∧ t.link.up = true ∧ t.key.lock = true ∧ t.key.root = [] ∧ t.sys = s.sys ∧ t.tb = s.tb ∧ t.pending = s.pending ∧
        memBytes t.mem 0x1C000010 2 = [s.boot.cause.cause, s.boot.cause.detail] ∧ memBytes t.mem 0x1C000014 4 = leBytes 4 s.boot.secs ∧
        argN (memBytes t.mem 0x1C000012 2) 0 2 = (argN (memBytes s.mem 0x1C000012 2) 0 2 + 1) % 65536 ∧
        memBytes t.mem 0x1C000018 56 = memBytes s.mem 0x1C000010 56 ∧ memBytes t.mem 0x1C000060 32 = List.replicate 32 0 ∧
        t.boot.life = (lifeDecode (otpLoad s)).1 ∧ (t.boot.life = 0 → t.boot.cands = [])) ∧
      (s.boot.stage = .release → unposted s = true → s.boot.standby = false → s.boot.quick = false →
        (s.boot.cands = [] → ∃ t, exec .coreRelease s = .next t ∧ t.sys.phase = 2 ∧ t.boot.stage = .done ∧ t.boot.slot = none ∧ t.tb = s.tb ∧
          t.pwr.dom = s.pwr.dom &&& 0xFC03 ∧ t.byte 0x1C000050 = 0xFF) ∧
        (s.boot.cands = c :: rest → ∃ t, exec .coreRelease s = .next t ∧ t.sys.phase = 0 ∧ t.sys.slot = c ∧ t.boot.stage = .verify ∧
          t.boot.slot = some c ∧ t.byte 0x1C000050 = (if c then 1 else 0) ∧
          (∀ d : Core, d.val < coreCount s.variant → t.cores[d] = { s.cores[d] with
            run := .running, stepTb := s.now, pc := BitVec.ofNat 32 (slotBase c + (headerOf (memBytes s.mem (slotBase c) 256)).entry) })))) ∧
  (∀ (s : State) (c : Bool) (us : Word) (rest : List Bool), s.boot.stage = .verify → s.boot.slot = some c → memWf s.mem = true → unposted s = true →
      s.boot.standby = false →
      (slotVerifies s c = true → s.boot.hashStop = false → s.boot.hashed < s.boot.bodyLen →
        s.boot.bodyLen = (headerOf (memBytes s.mem (slotBase c) 256)).length - 256 → ∃ t, exec (.verifyPass us) s = .next t ∧ t.sys.phase = 2 ∧ t.boot.stage = .done ∧ t.boot.slot = some c ∧
        t.sys.kibDone = BitVec.ofNat 13 (((headerOf (memBytes s.mem (slotBase c) 256)).length - 256) / 1024) ∧
        t.cores = s.cores ∧ t.tb = s.tb ∧ t.key = s.key ∧ memBytes t.mem 0x1C000058 4 = leBytes 4 us.toNat) ∧
      (slotVerifies s c = false → s.boot.cands = [c] → ∃ t, exec .verifyFail s = .next t ∧ t.sys.phase = 2 ∧ t.boot.stage = .done ∧ t.boot.slot = none ∧
        t.tb = s.tb ∧ (∀ d : Core, t.cores[d].pc = 0 ∧ t.cores[d].run = ({} : CoreState).run ∧ t.cores[d].g = Vector.replicate 16 0) ∧
        t.elv = {} ∧ t.cry = {} ∧ t.dma = Vector.replicate 16 {} ∧ (∀ a < 0x200000, t.byte (0x10000000 + a) = 0)) ∧
      (slotVerifies s c = false → s.boot.cands = c :: (!c) :: rest → slotHeaderOk s (!c) = true → ∃ t, exec .verifyFail s = .next t ∧
        t.sys.phase = 0 ∧ t.boot.stage = .verify ∧ t.boot.slot = some (!c) ∧ t.tb = s.tb ∧ (∀ a < 0x200000, t.byte (0x10000000 + a) = 0) ∧
        (∀ d : Core, d.val < coreCount s.variant → t.cores[d].run = .running ∧ t.cores[d].g = Vector.replicate 16 0 ∧
          t.cores[d].pc = BitVec.ofNat 32 (slotBase (!c) + (headerOf (memBytes s.mem (slotBase (!c)) 256)).entry))))

/-- NAP_ENTRY, NAP_WAKE, STANDBY_ENTRY, STANDBY_WAKE and RTC_ALARM (R28, R349-R353): in NAP the cores stand at a word boundary, running lanes are HELD
and banks that hold no messages are retained, and the wake takes all of it back and records its reason; STANDBY keeps AO only, and its wake brings the
first stage. -/
def Obligations.SleepAndWake : Prop :=
  ∀ (s : State) (reason : BitVec 4) (early : Bool) (periods : Nat) (us : Word),
    (s.pwr.mode = .run → s.pwr.entering = some .nap → s.pwr.wakes = [] → s.elv.jobs = [] → s.flc.busy = none → s.pwr.alarmPending = false →
      (s.otp.busy = none ∨ 900 ≤ napMv s) → (∀ c : Core, s.cores[c].sb = [] ∧ coreInWord s c = false) → (∀ a : Fin 4, s.adc[a].calib = false) →
      ∃ t, exec (.napEntry false) s = .next t ∧
      t.pwr.mode = .nap ∧ t.pwr.entering = none ∧ t.pwr.napVset = s.pwr.vset ∧ t.pwr.vset = some (BitVec.ofNat 16 (vsetCode s (napMv s))) ∧
      t.elv = { s.elv with nap := none } ∧ (∀ c : Core, t.cores[c] = if coreUp s c then { s.cores[c] with stopped := true } else s.cores[c]) ∧
      (∀ n : Fin 24, t.lane[n] = if s.lane[n].st = 2
        then { s.lane[n] with asked := false, st := 4, seqrun := false, swait := none, high := 0, pdmOut := false }
        else { s.lane[n] with asked := false }) ∧
      (∀ a : Fin 4, t.adc[a] = { s.adc[a] with
        scan := none, reqs := [], kpdReq := false, startWait := s.adc[a].trig = 3 && s.adc[a].scan.isSome }) ∧
      (∀ b : Fin 16, t.pwr.sram[b] = if s.pwr.sram[b] = 2 ∧ s.pwr.drain.getLsbD (16 + b.val) = false ∧ bankPinned s b = false then 1 else s.pwr.sram[b]) ∧
      t = { s with pwr := t.pwr, elv := t.elv, cores := t.cores, lane := t.lane, adc := t.adc }) ∧
    (s.pwr.mode = .nap → s.pwr.entering = none → s.pwr.wakes.contains reason.toNat = true → quiet s = true → s.pwr.heldUp = [] →
      ∃ t, exec (.napWake reason) s = .next t ∧
      t.pwr.mode = .run ∧ t.pwr.reason = reason.setWidth 16 ∧ t.pwr.early = false ∧ t.pwr.wakes = [] ∧ t.pwr.vset = s.pwr.napVset ∧
      t.pwr.napBanks = [] ∧ (∀ b ∈ s.pwr.napBanks, s.pwr.sram[b] = 1 → t.pwr.sram[b] = 2) ∧ t.tb = s.tb ∧
      (∀ n : Fin 24, t.lane[n].edge = s.lane[n].edge + (s.now - s.pwr.stillAt)) ∧
      (s.dbg.heldOp = none → ∀ c : Core, t.cores[c] = if s.cores[c].stopped then { s.cores[c] with stopped := false, stepTb := s.now } else s.cores[c])) ∧
    (standbyReady s = true → memWf s.mem = true → ∃ t, exec .standbyEntry s = .next t ∧ t.pwr.mode = .standby ∧ t.pwr.dom = 1 ∧
      t.pwr.sram = Vector.replicate 16 0 ∧ t.tb = s.tb ∧ t.pwr.recTb = s.tb ∧ t.pwr.recRtc = s.time.rtc ∧ t.time.rtc = s.time.rtc ∧
      t.pwr.wakeMask = s.pwr.wakeMask ∧ t.cores = Vector.replicate 8 {} ∧ t.elv = {} ∧ t.link.up = false ∧ t.flc.wcount = s.flc.wcount ∧
      memBytes t.mem 0x1C000080 8 = leBytes 8 s.flc.wcount.toNat ∧
      (∀ a < 0x20000000, ¬(a < 0x210000) → ¬(0x1C000000 ≤ a ∧ a < 0x1C008000) → t.byte a = 0)) ∧
    (s.pwr.mode = .standby → s.pwr.wakes.contains reason.toNat = true → ∃ t, exec (.standbyWake reason early periods us) s = .next t ∧
      t.pwr.mode = .run ∧ t.boot.stage = .release ∧ t.boot.standby = true ∧ t.link.up = true ∧ t.pwr.reason = reason.setWidth 16 ∧ t.pwr.wakes = [] ∧
      t.pwr.early = (early || s.pwr.early) ∧
      (early = false → s.pwr.early = false → t.time.rtc = s.time.rtc + periods ∧
        t.tb = BitVec.ofNat 64 (s.pwr.recTb.toNat + ((s.time.rtc + periods - s.pwr.recRtc) * 732421875 + 999999) / 1000000 + 1))) ∧
    (s.pwr.mode = .run → s.pwr.entering = none → s.pwr.alarmArmed = true → s.pwr.alarm.toNat ≤ s.time.rtc / 32768 →
      Leaves .rtcAlarm s { s with pwr := { s.pwr with alarmArmed := false, alarmPending := true } })

/-- DOMAIN_CUT, DOMAIN_UP_DONE, VSET_SETTLED and WAKE_RETRY (R340, R344-R346, R355, R361): a drained domain of LANES, ANALOG or STAT is cut and its
registers are at reset; a domain that comes up is up; a settled supply ends BUSY and replies to the command that waits; a refused inrush is asked for
again after 1 ms. -/
def Obligations.DomainsAndSupply : Prop :=
  ∀ (s : State) (code : Fin 32) (c : Core) (j : ElvJob) (since : Nat) (ch : Fin 4) (q : LinkReq) (rest : List LinkReq),
    let bit : BitVec 16 := BitVec.ofNat 16 (2 ^ code.val)
    let dom : Fin 32 := ⟨2 + c.val, by omega⟩
    let inrush : Fin 41 := ⟨33 + c.val, by omega⟩
    let held := putV s.lv.held inrush 35
    (11 ≤ code.val → code.val ≤ 13 → s.pwr.drain.getLsbD code.val = true → s.pwr.mode = .run → s.lv.waiting = [] → quiet s = true → s.elv.jobs = [] →
      ∃ t, exec (.domainCut code) s = .next t ∧
        t.pwr = { s.pwr with drain := s.pwr.drain &&& ~~~BitVec.ofNat 32 (2 ^ code.val), dom := s.pwr.dom &&& ~~~bit, evt := s.pwr.evt.raise 0 } ∧
        (code.val = 11 → t.lane = Vector.replicate 24 {} ∧ t.laneBlk = {}) ∧ (code.val = 12 → t.adc = Vector.replicate 4 {} ∧ t.spd = Vector.replicate 8 {}) ∧
        (code.val = 13 → t.stat = {}) ∧
        (∀ r : Fin 41, t.lv.held[r] = if (code.val = 11 ∧ 29 ≤ r.val ∧ r.val < 32) ∨ (code.val = 12 ∧ 17 ≤ r.val ∧ r.val < 29) ∨ (code.val = 13 ∧ r.val = 32)
          then 0 else s.lv.held[r]) ∧
        t = { s with pwr := t.pwr, lane := t.lane, laneBlk := t.laneBlk, adc := t.adc, spd := t.spd, stat := t.stat, lv := t.lv }) ∧
    (10 ≤ code.val → code.val ≤ 13 → s.pwr.coming.contains code = true → s.pwr.drain.getLsbD code.val = false → s.pwr.dom.getLsbD code.val = false →
      s.pwr.mode = .run → s.elv.jobs = [] → quiet s = true →
      Leaves (.domainUpDone code) s { s with pwr := { s.pwr with dom := s.pwr.dom ||| bit, coming := s.pwr.coming.filter (· ≠ code) } }) ∧
    (s.elv.jobs = [j] → j.stage = .vset → j.delayed = none → j.req.who = .host ch q.seq → s.link.chan[ch].reqs = q :: rest → q.drop = false →
      q.command.toNat = j.code → quiet s = true →
      Leaves .vsetSettled s (answered { s with pwr := { s.pwr with vsetBusy := false }, elv := { s.elv with jobs := [] } } ch q.seq j.code 0 j.res)) ∧
    (s.pwr.retry[c] = some since → since + 24000 ≤ s.now → c.val < coreCount s.variant → s.pwr.dom.getLsbD dom.val = false → s.lv.waiting = [] →
      s.lv.held[inrush] = 0 → s.lv.held.toList.sum + 35 ≤ s.lv.budget →
      Leaves (.wakeRetry c) s { s with
        pwr := { s.pwr with retry := putV s.pwr.retry c none, coming := s.pwr.coming ++ [dom] }
        lv := { s.lv with
          held := held, peak := max s.lv.peak held.toList.sum, grants := updV s.lv.grants (1 : Fin 4) (· + 1)
          rwait := putV s.lv.rwait inrush 0, rstat := putV s.lv.rstat inrush 1 } })

/-! ### Watchdog, time base and timers (18) -/

/-- The watchdog (R366-R376): WD_CTRL starts it, or restarts it inside its window and is noted outside; the two keys in order service it inside the
window and reset the device outside; the count entering the window warns when it is asked to; its end resets the device in RUN, and wakes it into a
period of grace from NAP or STANDBY; a watchdog that debug at
FULL holds does not expire. -/
def Obligations.WatchdogCommands : Prop :=
  ∀ (s : State) (p : Port) (v : Word) (ticks : BitVec 24),
    let d := s.wd
    let wd (d : Wd) : State := { s with wd := d }
    let n := (v.setWidth 5).toNat
    let start := 2 ^ d.period.toNat - 2 ^ d.period.toNat / 2 ^ (d.window.toNat + 1)
    let inside : Bool := d.grace || decide (start ≤ d.count)
    let set (d : Wd) : Wd := { d with
      period := v.setWidth 5, window := v.extractLsb' 8 2, warn := v.getLsbD 16, count := 0, grace := false, gwake := false }
    let alone : Prop := s.boot.stage = .reset → s.tb ≠ 0
    let resets (t : State) (detail : Byte) : Prop := t.boot.stage = .reset ∧ t.boot.cause = ⟨3, detail⟩ ∧ t.tb = 0 ∧ t.cores = Vector.replicate 8 {}
    let expired (held : Option (List Byte)) : Wd := { d with count := 0, grace := true, gwake := true, warnHeld := held }
    let warning : List Byte := [1, d.period.setWidth 8, 0, 0] ++ leBytes 4 0 ++ leBytes 8 s.tb.toNat
    (canWrite s p 0x40040000 = true → 8 ≤ n → n ≤ 24 → v.extractLsb' 8 2 ≠ 3 →
      (d.en = false → Completes (.wdCtrl p v) s (wroteOk (wd { set d with en := true }) p)) ∧
      (d.en = true → inside = true → Completes (.wdCtrl p v) s (wroteOk (wd { set d with last := true }) p)) ∧
      (d.en = true → inside = false → Completes (.wdCtrl p v) s (wroteOk (wd { d with evt := d.evt.raise 0, last := false }) p))) ∧
    (canWrite s p 0x40040004 = true → d.en = true →
      Completes (.wdServiceKey1 p) s (wroteOk (wd { d with armed := true }) p) ∧
      (d.armed = true → inside = true →
        Completes (.wdServiceKey2 p) s (wroteOk (wd { d with count := 0, armed := false, grace := false, gwake := false, last := true }) p)) ∧
      (d.armed = true → inside = false → s.dbg.level ≠ 2 → alone → ∃ t, exec (.wdServiceKey2 p) s = .next t ∧ resets t 2) ∧
      (d.armed = false → Completes (.wdServiceKey2 p) s (wroteOk (wd { d with armed := false, evt := d.evt.raise 1 }) p))) ∧
    (d.en = true → s.dbg.level ≠ 2 →
      (inside = false → quiet s = true → d.warn = false → Leaves .wdOpenWindow s (wd { d with count := start })) ∧
      (inside = false → canPost s .watchdog = true → d.warn = true → s.pwr.mode = .run → ∃ t, exec .wdOpenWindow s = .next t ∧
        t.wd = { d with count := start } ∧ posted s t .watchdog 0 ([0, d.period.setWidth 8, 0, 0] ++ leBytes 4 start ++ leBytes 8 s.tb.toNat) ∧
        t = { s with wd := t.wd, mem := t.mem, pool := t.pool, cue := t.cue }) ∧
      (s.pwr.mode = .run → s.pwr.entering = none → alone → ∃ t, exec .wdExpiry s = .next t ∧ resets t (if d.gwake then 1 else 0)) ∧
      (d.gwake = true → alone → ∃ t, exec .wdExpiry s = .next t ∧ resets t 1) ∧
      (s.pwr.mode = .standby → d.gwake = false →
        Leaves .wdExpiry s { s with wd := expired (some warning), pwr := { s.pwr with wakes := s.pwr.wakes ++ [8] } }) ∧
      (s.pwr.mode = .nap → d.gwake = false → canPost s .watchdog = true → ∃ t, exec .wdExpiry s = .next t ∧
        t.wd = expired none ∧ t.pwr = { s.pwr with wakes := s.pwr.wakes ++ [8] } ∧ posted s t .watchdog 0 warning ∧
        t = { s with wd := t.wd, pwr := t.pwr, mem := t.mem, pool := t.pool, cue := t.cue })) ∧
    (d.en = true → s.dbg.level = 2 → Leaves .wdExpiry s s) ∧
    (s.pwr.mode ≠ .standby → Leaves (.wdWdomeasBlock ticks) s (wd { d with meas := ticks }))

/-- The time base and the timers (R379-R386): a read of TB_LO or of RTC_FRAC latches the upper part for its reader; a step matches and overflows
with its event, and with a message when QEN selects it; a capture takes COUNT, and its event comes with the step of its tick; a write of COUNT or COMPARE that meets the event is ordered with it, and says on
which side it fell. -/
def Obligations.TimeBaseAndTimers : Prop :=
  ∀ (s : State) (p : Port) (t : Fin 8) (v : Word) (first : Bool),
    let k := s.time.tmr[t]
    let time (x : Time) : State := { s with time := x }
    let tmr (k : Tmr) : State := time { s.time with tmr := putV s.time.tmr t k }
    let count : Word := 0x40030104 + 0x40 * BitVec.ofNat 32 t.val
    let compare : Word := 0x4003010C + 0x40 * BitVec.ofNat 32 t.val
    let due : Prop := k.en = true ∧ k.stepped = false ∧ k.presc.toNat ≤ k.pre ∧ k.capDue = false
    let wraps : Tmr := { k with count := 0, topNow := k.top, en := !k.oneshot, pre := 0, evt := k.evt.raise 0, stepped := true }
    let meets : Tmr := { k with count := k.count + 1, pre := 0, evt := k.evt.raise 1, stepped := true }
    let calm : Prop := s.pwr.mode ≠ .standby ∧ quiet s = true ∧ ∀ a : Fin 4, s.adc[a].trig ≠ 2
    (canRead s p 0x40030000 = true → Completes (.tbLo p) s
      (setLast (time { s.time with tbShadow := putV s.time.tbShadow p.m (s.tb.extractLsb' 32 32) }) p.m 0 (s.tb.extractLsb' 0 32))) ∧
    (canRead s p 0x40030010 = true → Completes (.rtcFrac p) s
      (setLast (time { s.time with rtcShadow := putV s.time.rtcShadow p.m (BitVec.ofNat 32 (s.time.rtc / 32768)) }) p.m 0 (BitVec.ofNat 32 (s.time.rtc % 32768)))) ∧
    (due → calm →
      (k.count = k.topNow → k.compare ≠ 0 → k.qen.getLsbD 0 = false → Leaves (.timerOverflow t) s (tmr wraps)) ∧
      (k.count = k.topNow → k.compare ≠ 0 → k.qen.getLsbD 0 = true → canPost s (.timer t) = true → ∃ u, exec (.timerOverflow t) s = .next u ∧
        u.time = { s.time with tmr := putV s.time.tmr t wraps } ∧
        posted s u (.timer t) 0 ([BitVec.ofNat 8 t.val, 1, 0, 0] ++ leBytes 4 0 ++ leBytes 8 s.tb.toNat) ∧
        u = { s with time := u.time, mem := u.mem, pool := u.pool, cue := u.cue }) ∧
      (k.count ≠ k.topNow → k.count + 1 = k.compare → k.qen.getLsbD 1 = false → Leaves (.timerMatch t) s (tmr meets))) ∧
    (s.pwr.mode ≠ .standby → k.capsrc ≠ 0 → s.variant ≠ .t ∨ 4 ≤ k.capsrc.toNat ∨ k.pin.toNat < 16 →
      Leaves (.timerCapture t) s (tmr { k with capture := k.count, capDue := true })) ∧
    (canWrite s p count = true →
      (k.en = false ∨ k.stepped = true ∨ k.pre < k.presc.toNat ∨ k.count ≠ k.topNow →
        Completes (.tmrCount p t v first) s (wroteOk (tmr { k with count := v, order := true }) p)) ∧
      (due → k.count = k.topNow →
        (first = true → Completes (.tmrCount p t v first) s (wroteOk (tmr { k with count := v, order := true, pre := 0, stepped := true }) p)) ∧
        (first = false → k.compare ≠ 0 → k.qen = 0 → calm →
          Completes (.tmrCount p t v first) s (wroteOk (tmr { wraps with count := v, order := false }) p)))) ∧
    (canWrite s p compare = true →
      (k.en = false ∨ k.stepped = true ∨ k.pre < k.presc.toNat ∨ first = true → Completes (.tmrCompare p t v first) s (wroteOk (tmr { k with compare := v, corder := true }) p)) ∧
      (due → first = false → k.count ≠ k.topNow → k.count + 1 = k.compare → k.qen = 0 → calm →
        Completes (.tmrCompare p t v first) s (wroteOk (tmr { meets with compare := v, corder := false }) p)))

/-! ### Lanes and the stat port (19) -/

/-- The controls of a lane (R388, R389, R393, R399, R400, R404): LANE_CFG takes a lane from OFF to RUN on a grant of its group's leave, or to HELD
behind a closed Curtain, and back to OFF; SAFE and CLRSAFE, SEQRESTART, the target of the next frame with its side, and a duty that a regulated lane
ignores. SWFRAME and FRAME_EVENT (R37, R402, R403, R405): a frame event counts and is stamped with its tick, or with the next one when a target was
written before it in its tick; every lane takes its next target at once, a lane with FSYNC its duty with it; a cleared SAFE lane is OFF again when its mode is. -/
def Obligations.LanesAndFrames : Prop :=
  (∀ (s : State) (p : Port) (n : Fin 24) (v : Word) (late : Bool),
      let l := s.lane[n]
      let base : Word := 0x40100000 + 0x400 * BitVec.ofNat 32 n.val
      let lane (l : Lane) : State := { s with lane := putV s.lane n l }
      let group : Fin 41 := ⟨29 + n.val / 8, by omega⟩
      let held := putV s.lv.held group 10
      let fields (l : Lane) : Lane := { l with
        fsync := v.getLsbD 31, seqen := v.getLsbD 30, log := v.getLsbD 29, sense := v.getLsbD 28, capedge := v.extractLsb' 26 2, mode := v.setWidth 3 }
      let plain : Prop := v.getLsbD 25 = false ∧ v.extractLsb' 16 4 = 0 ∧ l.spd = 0 ∧ l.outsel = false ∧ (v.setWidth 3).toNat < 6
      (n.val < laneCount s.variant →
        (canWrite s p base = true → plain → s.lv.waiting = [] →
          (l.mode = 0 → l.st = 0 → v.setWidth 3 ≠ (0 : BitVec 3) → s.lv.held[group] = 0 →
            (∀ m : Fin 24, m ≠ n → laneGroup m = group → s.lane[m].st ≠ 1) →
            (s.sys.phase ≠ 2 → s.lv.held.toList.sum + 10 ≤ s.lv.budget → ∃ t, exec (.laneCfg p n v) s = .next t ∧ t.lane = putV s.lane n { fields l with st := 4 } ∧
              t.lv.held = held) ∧
            (s.sys.phase = 2 → s.lv.held.toList.sum + 10 ≤ s.lv.budget → ∃ t, exec (.laneCfg p n v) s = .next t ∧ t.lv.held = held ∧
              (∀ m : Fin 24, m ≠ n → t.lane[m] = s.lane[m]) ∧ t.lane[n].st = 2 ∧ t.lane[n].mode = v.setWidth 3 ∧ t.lane[n].factor = bitsOf l.scale 0 8 ∧
              t.lane[n].integ = 0 ∧ t.lane[n].slot = 0 ∧ t.lane[n].loopc = 0 ∧ t.lane[n].seqrun = v.getLsbD 30 ∧ t.lane[n].runAt = s.now ∧ t.lane[n].overN = 0) ∧
            (s.sys.phase = 2 → s.lv.budget < s.lv.held.toList.sum + 10 → 10 ≤ s.lv.budget → s.lv.waitlim[(1 : Fin 4)] ≠ 0 →
              ∃ t, exec (.laneCfg p n v) s = .next t ∧ t.lane = putV s.lane n { fields l with st := 1 } ∧ t.lv.waiting = [⟨group, 10, 1, s.now⟩])) ∧
          (l.mode ≠ 0 → l.st ≠ 3 → v.setWidth 3 = (0 : BitVec 3) → ∃ t, exec (.laneCfg p n v) s = .next t ∧
            (∀ m : Fin 24, m ≠ n → t.lane[m] = s.lane[m]) ∧ t.lane[n].st = 0 ∧ t.lane[n].mode = 0 ∧ t.lane[n].seqrun = false ∧
            ((∀ m : Fin 24, m ≠ n → laneGroup m = group → s.lane[m].st = 0) → t.lv.held = putV s.lv.held group 0))) ∧
        (canWrite s p (base + 4) = true →
          (l.st ≠ 3 → Completes (.safe p n) s (wroteOk (lane { l with
            st := 3, fault := 0, integ := 0, out := 0, pdmOut := false, seqrun := false, swait := none, high := 0, clrPend := false, asked := false }) p)) ∧
          (l.st = 3 → Completes (.clrsafe p n) s (wroteOk (lane { l with clrPend := true }) p)) ∧
          (l.st = 2 → l.seqen = true → Completes (.seqrestart p n) s (wroteOk (lane { l with slot := 0, loopc := 0, swait := none, seqrun := true }) p))) ∧
        (canWrite s p (base + 0x14) = true →
          let bit : BitVec 24 := BitVec.ofNat 24 (2 ^ n.val)
          let side := late && decide (s.laneBlk.lastFrame = some s.now)
          Completes (.laneTgtNext p n v late) s (wroteOk { lane { l with tgtNext := (v.setWidth 20).toNat } with laneBlk := { s.laneBlk with
            late := if side then s.laneBlk.late ||| bit else s.laneBlk.late &&& ~~~bit, lastNext := some s.now } } p)) ∧
        (canWrite s p (base + 0x0C) = true →
          (l.mode ≠ 3 → l.mode ≠ 5 → Completes (.laneDuty p n v) s (wroteOk (lane { l with duty := (v.setWidth 20).toNat, setDuty := (v.setWidth 20).toNat }) p)) ∧
          (l.mode = 3 ∨ l.mode = 5 → Completes (.laneDuty p n v) s (wroteOk s p))))) ∧
  (∀ (s : State) (p : Port) (v : Word) (src : BitVec 2),
      let next : Word := s.tb.setWidth 32 + 1
      let moved' : Bool := s.laneBlk.lastNext = some s.now ∨ (s.laneBlk.lastFrame = some s.now ∧ s.laneBlk.fstamp = next)
      let framed (t : State) : Prop :=
        t.laneBlk = { s.laneBlk with fcount := s.laneBlk.fcount + 1, fstamp := if moved' then next else s.tb.setWidth 32, lastFrame := some s.now } ∧
        ∀ n : Fin 24, n.val < laneCount s.variant → t.lane[n].tgt = s.lane[n].tgtNext ∧ t.lane[n].frame = some s.now ∧ t.lane[n].edgeSeen = false ∧
          (s.lane[n].fsync = true → s.lane[n].mode = 1 → t.lane[n].duty = min (s.lane[n].tgtNext * s.lane[n].factor / 128) 0xFFFFF ∧
            t.lane[n].setDuty = s.lane[n].tgtNext) ∧
          (s.lane[n].swait = some .frame → t.lane[n].swait = some (.lclk 0)) ∧
          (s.lane[n].st = 3 → s.lane[n].clrPend = true → s.lane[n].mode = 0 → t.lane[n].st = 0 ∧ t.lane[n].fault = s.lane[n].fault)
      let still : Prop := s.pwr.mode = .run ∧ quiet s = true ∧ lanesUp s = true ∧ s.lv.waiting = [] ∧
        ∀ n : Fin 24, s.lane[n].st ≠ 4 ∧ (s.lane[n].st = 3 → s.lane[n].clrPend = true → s.lane[n].mode = 0) ∧ (s.lane[n].st = 2 → s.lane[n].mode ≠ 5)
      still →
      (src = s.laneBlk.fsrc → src.toNat < 2 → ∃ t, exec (.frameEvent src) s = .next t ∧ framed t ∧ (∀ n : Fin 24, laneCount s.variant ≤ n.val → t.lane[n] = s.lane[n]) ∧
        t = { s with lane := t.lane, laneBlk := t.laneBlk, adc := t.adc, lv := t.lv }) ∧
      (canWrite s p 0x40108004 = true → ∃ t, exec (.swframe p v) s = .next t ∧ framed t))

/-- The samples, captures and periods of a lane (R391, R394-R398): a sample is asked of its converter or skipped, its result moves the regulator, an
edge is captured and releases the sequencers that wait for it, a stalled fan is a fault with its record, and each period has its dithered high time.
-/
def Obligations.LaneRegulation : Prop :=
  ∀ (s : State) (n : Fin 24) (code : BitVec 12) (rising : Bool),
    let l := s.lane[n]
    let lane (l : Lane) : State := { s with lane := putV s.lane n l }
    let a : Fin 4 := ⟨n.val / 6, by omega⟩
    let k := s.adc[a]
    let clamp (x : Int) : Int := max (16 * (l.outmin : Int)) (min x (16 * (l.outmax : Int)))
    let event : Prop := n.val < laneCount s.variant ∧ lanesUp s = true ∧ s.pwr.mode = .run
    event → quiet s = true →
    (l.st = 2 → l.low = false → l.mode = 3 ∨ l.sense = true → k.calib = false → anaUp s = true →
      (l.asked = false → k.en = true → k.conv.isSome = true →
        Leaves (.laneSampleRequest n) s { lane { l with asked := true } with adc := putV s.adc a { k with reqs := k.reqs ++ [n] } }) ∧
      (l.asked = false → k.en = true → k.enabled = true → k.conv = none → k.reqs = [] →
        Leaves (.laneSampleRequest n) s { lane { l with asked := true } with adc := putV s.adc a { k with conv := some (.lane n), reqs := [] } }) ∧
      (l.asked = true → k.reqs.contains n = true → l.skipN + 1 < l.nfault →
        Leaves (.laneSampleRequest n) s (lane { l with evt := l.evt.raise 3, skipN := l.skipN + 1 }))) ∧
    (l.inbox = some code → l.st = 2 → l.mode = 3 → l.factor ≠ 0 → l.log = false →
      let c := code.toNat
      let e : Int := (min (l.tgt * l.factor / 128) 0xFFFFF : Nat) - 256 * c
      let i := clamp (l.integ + ((l.ki : Int) * e).tdiv 256)
      let ovr := if l.smax < c then l.overN + 1 else 0
      let under := if c < l.smin ∧ l.out = 16 * (l.outmax : Int) then l.underN + 1 else 0
      ovr < l.nfault → under < l.nfault →
      Leaves (.laneSampleResult n) s (lane { l with
        inbox := none, asked := false, senseV := code, skipN := 0, overN := ovr, underN := under
        integ := i, out := clamp (i + ((l.kp : Int) * e).tdiv 16) })) ∧
    (l.capedge.getLsbD (if rising then 0 else 1) = true → l.mode ≠ 5 → Leaves (.laneCapture n rising) s { s with lane :=
      ((putV s.lane n { l with capt := min ((s.now - l.edge) / 4) 65535, edge := s.now }).map (fun x =>
        if x.swait = some (.cap n) then { x with swait := some (.lclk 0) } else x)) }) ∧
    (l.capedge.getLsbD (if rising then 0 else 1) = false → Leaves (.laneCapture n rising) s s) ∧
    (l.st = 2 → l.mode = 4 → l.tachto ≠ 0 → l.duty ≠ 0 → max l.edge l.runAt + l.tachto * 8192 ≤ s.now → s.sys.phase = 2 → s.ec.fifo.length < 32 →
      canPost s (.lane n) = true → ∃ t, exec (.tachTimeout n) s = .next t ∧
        t.lane = putV s.lane n { l with
          st := 3, fault := 3, integ := 0, out := 0, pdmOut := false, seqrun := false, swait := none, high := 0, clrPend := false, asked := false, evt := l.evt.raise 0 } ∧
        t.ec.fifo = s.ec.fifo ++ [⟨7, 1, 11, true, 0, 0x40100000 + 0x400 * BitVec.ofNat 32 n.val, BitVec.ofNat 32 (3 + 256 * n.val), s.tb.setWidth 32⟩] ∧
        posted s t (.lane n) 0 ([BitVec.ofNat 8 n.val, 3] ++ leBytes 2 l.senseV.toNat ++ leBytes 4 l.duty ++ leBytes 8 s.tb.toNat)) ∧
    (l.st = 2 → l.mode = 1 → l.factor ≠ 0 →
      let x := l.k + 1
      let reversed := x % 2 * 8 + x / 2 % 2 * 4 + x / 4 % 2 * 2 + x / 8 % 2
      Leaves (.lanePwmPeriod n) s (lane { l with
        k := x, low := false, high := min (l.duty / 16 + if reversed < l.duty % 16 then 1 else 0) (l.per + 1) }))

/-- The words of a lane's sequencer (R390, R393, R398, R400): each word that the program holds where the sequencer stands has its effect, and the slot
moves on; an undefined or malformed word is a fault. -/
def Obligations.SequencerWords : Prop :=
  ∀ (s : State) (n : Fin 24) (slot : BitVec 4) (cnt code : BitVec 8) (k : BitVec 2) (periods : BitVec 24) (ph : BitVec 16) (m : Fin 24) (w : Word),
    let l := s.lane[n]
    let lane (l : Lane) : State := { s with lane := putV s.lane n l }
    let here : Fin 16 := if l.swait.isSome then l.slot + 1 else l.slot
    let word (w : Word) : Prop := l.prog[here] = w
    let m5 : BitVec 5 := BitVec.ofNat 5 m.val
    n.val < laneCount s.variant → lanesUp s = true → s.pwr.mode = .run → quiet s = true → l.st = 2 → s.sys.phase = 2 → l.seqrun = true →
    (∀ x, l.swait = some x → seqOver s x = true) →
    (word 0 → Leaves (.stop n) s (lane { l with slot := here, swait := none, seqrun := false })) ∧
    (word (0x10000000 + k.setWidth 32) → l.mode = 1 → l.fsync = false →
      let f := bitsOf l.scale (8 * k.toNat) 8
      let last := if l.factor = 0 then l.lastF else l.factor
      Leaves (.level n k) s (lane { l with
        factor := f, leveled := true, lastF := if f ≠ 0 then f else last, duty := min (l.setDuty * f / 128) 0xFFFFF, slot := here + 1, swait := none })) ∧
    (word (0x20000000 + periods.setWidth 32) → periods ≠ 0 → l.swait = none →
      Leaves (.waitLc n periods) s (lane { l with slot := here, swait := some (.lclk (8 * s.now + periods.toNat)) })) ∧
    (word 0x30000000 → Leaves (.waitFrame n) s (lane { l with slot := here, swait := some .frame })) ∧
    (m.val < laneCount s.variant →
      (word (0x40000000 + m5.setWidth 32) → Leaves (.waitCap n m5) s (lane { l with slot := here, swait := some (.cap m) })) ∧
      (word (0x50000000 + m5.setWidth 32 * 65536 + ph.setWidth 32) →
        Leaves (.waitPh n m5 ph) s (lane { l with slot := here, swait := some (.phase m ph.toNat) }))) ∧
    (word (0x60000000 + slot.setWidth 32) → Leaves (.jump n slot) s (lane { l with slot := slot.toFin, swait := none })) ∧
    (word (0x70000000 + cnt.setWidth 32 * 16 + slot.setWidth 32) → cnt ≠ 0 →
      (l.loopc = 0 → Leaves (.loopn n cnt slot) s (lane { l with loopc := cnt.toNat, slot := slot.toFin, swait := none })) ∧
      (1 < l.loopc → Leaves (.loopn n cnt slot) s (lane { l with loopc := l.loopc - 1, slot := slot.toFin, swait := none })) ∧
      (l.loopc = 1 → Leaves (.loopn n cnt slot) s (lane { l with loopc := 0, slot := here + 1, swait := none }))) ∧
    (word (0x80000000 + code.setWidth 32) → canPost s (.lane n) = true → ∃ t, exec (.post n code) s = .next t ∧
      t.lane = putV s.lane n { l with slot := here + 1, swait := none, evt := l.evt.raise 1 } ∧
      posted s t (.lane n) 2 ([BitVec.ofNat 8 n.val, code] ++ leBytes 2 l.senseV.toNat ++ leBytes 4 (laneDutyVal l) ++ leBytes 8 s.tb.toNat) ∧
      t = { s with lane := t.lane, mem := t.mem, pool := t.pool, cue := t.cue }) ∧
    (word w → 9 ≤ w.toNat / 2 ^ 28 → s.ec.fifo.length < 32 → ∃ t, exec (.seqOp n w) s = .next t ∧
      t.lane[n].st = 3 ∧ t.lane[n].fault = 5 ∧ t.lane[n].seqrun = false ∧ (∀ i : Fin 24, i ≠ n → t.lane[i] = s.lane[i]))

/-- The stat port (R408-R411) with nothing in its input buffer and its writes admitted at once: a DATA packet fills the current slot after its header
and is judged against the expected SEQ, one of a bad length counts as damaged, a MARK packet writes the header and moves to the next slot with an event and its message; discarded
packets count, a port that is stopped takes none; STAT_CTRL starts and stops the port with its leave. -/
def Obligations.StatPort : Prop :=
  ∀ (s : State) (p : Port) (v : Word) (seq : Byte) (ws : List Word) (payload : List Byte) (frame : Word),
    let k := s.stat
    let n := if k.begun then k.bytes else 0
    let stat (k : Stat) : State := { s with stat := k }
    let held := putV s.lv.held (32 : Fin 41) 8
    let a := k.rbase.toNat + k.slot * k.slot64 * 64
    let gap (f : BitVec 5) : BitVec 5 := match k.seqExp with | some e => if e = seq then f else f ||| 2 | none => f
    let bytes := (ws.map fun w => leBytes 4 w.toNat).flatten
    let ok (a n : Nat) : Prop := ∀ i < n, inSram (a + 4 * i) = true ∧ memAnswer s (unitWho 12) .write (a + 4 * i) 4 = 0
    let clean : Prop := s.sec = [] ∧ s.ded = [] ∧ s.poison = [] ∧ k.rbase.toNat % 64 = 0
    (k.active = true → k.en = true → statUp s = true → s.pwr.mode = .run →
      Leaves .statBadPacket s (stat { k with errCrc := k.errCrc + 1, flags := k.flags ||| 1, evt := k.evt.raise 1 }) ∧
      Leaves .statOverrun s (stat { k with errOvr := k.errOvr + 1, flags := k.flags ||| 4, evt := k.evt.raise 2 }) ∧
      (quiet s = true → clean → k.queue = [] → admits s 12 1 528 = true → 1 ≤ ws.length → ws.length ≤ 128 → n % 4 = 0 →
        n + 4 * ws.length + 16 ≤ k.slot64 * 64 → k.wflags.getLsbD 4 = false → ok a 4 → ok (a + 16 + n) ws.length →
        ∃ t, exec (.statDataPacket seq bytes) s = .next t ∧ t.arch = State.arch
          { stat { k with seqExp := some (seq + 1), flags := gap k.flags, begun := true, bytes := n + 4 * ws.length } with
            mem := memPut (if k.begun then s.mem else memPut s.mem a (leBytes 4 0xFFFFFFFF ++ List.replicate 12 0)) (a + 16 + n) bytes }) ∧
      (quiet s = true → payload.length < 4 ∨ 512 < payload.length ∨ payload.length % 4 ≠ 0 →
        exec (.statDataPacket seq payload) s = .next (stat { k with errCrc := k.errCrc + 1, flags := k.flags ||| 1, evt := k.evt.raise 1 })) ∧
      (clean → k.queue = [] → admits s 12 1 16 = true → ok a 4 → canPost s .stat = true → s.laneBlk.fsrc ≠ 2 → k.slot * k.slot64 * 64 + k.rbase.toNat < 2 ^ 32 → ∃ t, exec (.statMarkPacket seq frame) s = .next t ∧
        (let flags := gap k.flags ||| k.wflags
         t.stat = { k with seqExp := some (seq + 1), slot := (k.slot + 1) % k.nslot, begun := false, bytes := 0, flags := 0, wflags := 0, frames := k.frames + 1, evt := k.evt.raise 0 } ∧
         posted s t .stat 0 ([BitVec.ofNat 8 k.slot, flags.setWidth 8, 0, 0] ++ leBytes 4 frame.toNat ++ leBytes 4 n ++ leBytes 4 a ++ leBytes 4 (s.tb.toNat % 2 ^ 32)) ∧
         (a + 16 ≤ s.pool.base.toNat ∨ s.pool.base.toNat + 64 * poolCount s.pool ≤ a →
          memBytes t.mem a 16 = leBytes 4 frame.toNat ++ leBytes 4 n ++ [flags.setWidth 8, 0, 0, 0, 0, 0, 0, 0])))) ∧
    (k.active = false ∨ k.en = false ∨ statUp s = false ∨ s.pwr.mode ≠ .run → quiet s = true →
      exec (.statDataPacket seq payload) s = .next s ∧ exec (.statMarkPacket seq frame) s = .next s) ∧
    (canWrite s p 0x40130000 = true → s.lv.waiting = [] → k.queue = [] →
      (v.getLsbD 31 = true → k.en = false → s.lv.held.toList.sum + 8 ≤ s.lv.budget → Completes (.statCtrl p v) s (wroteOk
        { stat { k with en := true, active := true, slot := 0, begun := false, bytes := 0, flags := 0, wflags := 0, queue := [], seqExp := none } with lv := { s.lv with
          held := held, peak := max s.lv.peak held.toList.sum, grants := updV s.lv.grants (2 : Fin 4) (· + 1)
          rwait := putV s.lv.rwait (32 : Fin 41) 0, rstat := putV s.lv.rstat (32 : Fin 41) 1 } } p)) ∧
      (v.getLsbD 31 = false → k.en = true → Completes (.statCtrl p v) s (wroteOk
        { stat { k with en := false, active := false, leaveWait := false, begun := false, bytes := 0, flags := 0, wflags := 0, queue := [] } with
          lv := { s.lv with held := putV s.lv.held (32 : Fin 41) 0 } } p)))

/-! ### Converters and setpoint outputs (20) -/

/-- The controls of a converter (R414, R418, R421, R422): EN asks for leave and gives it back, a scan starts or is turned away, a calibration takes
the converter or is refused, and it ends with its factors or with CAL_FAIL. -/
def Obligations.ConverterControls : Prop :=
  ∀ (s : State) (p : Port) (a : Fin 4) (v : Word) (ofs : Int) (gain : Nat),
    let k := s.adc[a]
    let adc (k : Adc) : State := { s with adc := putV s.adc a k }
    let base : Word := 0x40110000 + 0x400 * BitVec.ofNat 32 a.val
    let r : Fin 41 := ⟨17 + a.val, by omega⟩
    let units := if k.lowPower then 1 else 6
    let idle : Prop := k.reqs = [] ∧ k.kpdReq = false ∧ k.scan = none
    a.val < adcCount s.variant →
    (canWrite s p base = true → s.lv.waiting = [] →
      (v.getLsbD 31 = true → k.en = false → idle →
        (s.lv.held.toList.sum + units ≤ s.lv.budget → ∃ t, exec (.adcCtrl p a v) s = .next t ∧
          t.adc = putV s.adc a { k with en := true, enabled := true } ∧ t.lv.held = putV s.lv.held r units) ∧
        (s.lv.budget < units → ∃ t, exec (.adcCtrl p a v) s = .next t ∧
          t.adc = putV s.adc a { k with en := false, evt := k.evt.raise 2 } ∧ t.lv.held = s.lv.held ∧ t.lv.waiting = [])) ∧
      (v.getLsbD 31 = false → k.en = true → Completes (.adcCtrl p a v) s (wroteOk
        { adc { k with
          en := false, enabled := false, leaveWait := false, scan := none, reqs := [], kpdReq := false, startWait := false, calib := false
          evt := if k.calib then k.evt.raise 5 else k.evt } with lv := { s.lv with held := putV s.lv.held r 0 } } p))) ∧
    (canWrite s p (base + 4) = true →
      (k.en = true → s.pwr.mode = .run → k.calib = false → anaUp s = true →
        (k.scan.isSome = true → Completes (.adcStart p a) s (wroteOk (adc { k with evt := k.evt.raise 1 }) p)) ∧
        (k.scan = none → k.conv.isSome = true → Completes (.adcStart p a) s (wroteOk (adc { k with scan := some 0, scanOut := false }) p)) ∧
        (k.enabled = true → idle → k.conv = none →
          Completes (.adcStart p a) s (wroteOk (adc { k with scan := some 0, scanOut := false, conv := some (.entry 0) }) p))) ∧
      (k.calib = false → k.enabled = true → k.lowPower = false →
        (∃ t, exec (.adcCal p a) s = .next t ∧ t.adc = putV s.adc a { k with calib := true, scan := none, reqs := [] }) ∧
        (k.reqs = [] → Completes (.adcCal p a) s (wroteOk (adc { k with calib := true, scan := none, reqs := [] }) p))) ∧
      (k.calib = false → k.enabled = false ∨ k.lowPower = true → Completes (.adcCal p a) s (wroteOk (adc { k with evt := k.evt.raise 3 }) p)) ∧
      (k.calib = true → Completes (.adcCal p a) s (wroteOk s p))) ∧
    (anaUp s = true → s.pwr.mode = .run → quiet s = true → k.calib = true → k.conv = none → idle →
      let ended : Adc := if -2048 ≤ ofs ∧ ofs ≤ 2047 ∧ 24576 ≤ gain ∧ gain ≤ 40960 then
          { k with calib := false, ofs := BitVec.ofInt 12 ofs, gain := gain, uncal := false, evt := k.evt.raise 4 }
        else { k with calib := false, evt := k.evt.raise 5 }
      (k.startWait = false → Leaves (.calDone a ofs gain) s (adc ended)) ∧
      (k.startWait = true → k.en = true → k.enabled = true →
        Leaves (.calDone a ofs gain) s (adc { ended with startWait := false, scan := some 0, scanOut := false, conv := some (.entry 0) })))

/-- A conversion ends (R416, R419, R423): its corrected code goes to its lane or to its entry, the next request starts, and the last entry ends the
scan with its stamp and, where one is due, its message. -/
def Obligations.ConversionResults : Prop :=
  ∀ (s : State) (a : Fin 4) (raw : BitVec 12) (n : Fin 24) (i : Fin 8),
    let k := s.adc[a]
    let adc (k : Adc) : State := { s with adc := putV s.adc a k }
    let fix (x : Nat) : BitVec 12 := BitVec.ofInt 12 (max 0 (min 4095 (((16 * (x : Int) - k.ofs.toInt) * k.gain + 262144).fdiv 524288)))
    let input := k.seq[i].input.toNat
    let absent : Prop := input < 6 ∧ laneCount s.variant ≤ 6 * a.val + input ∨ 6 ≤ input ∧ input < 10 ∧ 4 * adcCount s.variant ≤ 4 * a.val + input - 6
    let code := fix (if absent then min raw.toNat 8 else raw.toNat)
    let out : Bool := decide (code.toNat < k.seq[i].lo.toNat) || decide (k.seq[i].hi.toNat < code.toNat)
    let res := putV k.res i ⟨k.uncal, out, code⟩
    anaUp s = true → s.pwr.mode = .run → quiet s = true → k.enabled = true → k.calib = false →
    (k.conv = some (.lane n) → n.val / 6 = a.val → n.val < laneCount s.variant → lanesUp s = true → k.reqs = [] → k.kpdReq = true →
      Leaves (.conversionDone a raw) s { adc { k with conv := some .keypad, kpdReq := false } with
        lane := putV s.lane n { s.lane[n] with inbox := some (fix raw.toNat) } }) ∧
    (k.conv = some (.entry i) → k.scan = some i → i.val < k.seqlen.toNat → k.reqs = [] → k.kpdReq = false →
      Leaves (.conversionDone a raw) s (adc { k with res := res, scanOut := k.scanOut || out, scan := some (i + 1), conv := some (.entry (i + 1)) })) ∧
    (k.conv = some (.entry i) → k.scan = some i → i.val = k.seqlen.toNat → k.reqs = [] → k.kpdReq = false → k.trig ≠ 3 →
      let ended : Adc := { k with
        res := res, scanOut := k.scanOut || out, scan := none, conv := none, stamp := s.tb.setWidth 32, evt := k.evt.raise 0 }
      (k.post = false → k.scanOut = false → out = false → Leaves (.conversionDone a raw) s (adc ended)) ∧
      (k.post = true ∨ k.scanOut = true ∨ out = true → canPost s (.adc a) = true → ∃ t, exec (.conversionDone a raw) s = .next t ∧
        t.adc = putV s.adc a ended ∧ t = { s with adc := t.adc, mem := t.mem, pool := t.pool, cue := t.cue } ∧
        posted s t (.adc a) 0 ([BitVec.ofNat 8 a.val, BitVec.ofNat 8 (i.val + 1), BitVec.ofNat 8 ((if k.scanOut || out then 1 else 0) + if k.uncal then 2 else 0), 0] ++
          leBytes 8 s.tb.toNat ++ (List.finRange 8).flatMap fun j => if j ≤ i then leBytes 4
            (res[j].code.toNat + (if res[j].out then 4096 else 0) + (if res[j].uncal then 8192 else 0) + k.seq[j].input.toNat * 65536) else [])))

/-- The setpoint outputs (R424-R427): the code and the first write, a range change with leave and its clamp phase while the output drives, an internal
one while it is clamped, one that waits, a refused one, and the end of each. -/
def Obligations.SetpointOutputs : Prop :=
  ∀ (s : State) (p : Port) (d : Fin 8) (v : Word),
    let k := s.spd[d]
    let spd (k : Spd) : State := { s with spd := putV s.spd d k }
    let base : Word := 0x40120000 + 0x40 * BitVec.ofNat 32 d.val
    let r : Fin 41 := ⟨21 + d.val, by omega⟩
    let held := putV s.lv.held r 4
    d.val < spdCount s.variant →
    (canWrite s p base = true → Completes (.spdCode p d v) s (wroteOk (spd { k with code := v.setWidth 10, written := true }) p)) ∧
    (canWrite s p (base + 4) = true →
      (k.ranging = true → Completes (.spdRange p d v) s (wroteOk (spd { k with pend := some (v.getLsbD 0) }) p)) ∧
      (k.ranging = false →
        (v.getLsbD 0 = k.now → Completes (.spdRange p d v) s (wroteOk (spd { k with range := v.getLsbD 0 }) p)) ∧
        (v.getLsbD 0 ≠ k.now → k.written = false ∨ s.sys.phase ≠ 2 ∨ s.pwr.dom.getLsbD 12 = false → Completes (.spdRange p d v) s (wroteOk
          (spd { k with range := v.getLsbD 0, ranging := true, inner := true, switched := false, phase := 0 }) p)) ∧
        (v.getLsbD 0 ≠ k.now → k.written = true → s.sys.phase = 2 → anaUp s = true → (∀ n : Fin 24, n.val < laneCount s.variant → s.lane[n].spd.toNat ≠ d.val + 1) →
          (s.lv.waiting = [] → s.lv.held.toList.sum + 4 ≤ s.lv.budget → Completes (.spdRange p d v) s (wroteOk
            { spd { k with range := v.getLsbD 0, ranging := true, phase := 2 } with lv := { s.lv with
              held := held, peak := max s.lv.peak held.toList.sum, grants := updV s.lv.grants (0 : Fin 4) (· + 1)
              rwait := putV s.lv.rwait r 0, rstat := putV s.lv.rstat r 1 } } p)) ∧
          (s.lv.budget < 4 → ∃ t, exec (.spdRange p d v) s = .next t ∧
            t.spd = putV s.spd d { k with range := k.now, ranging := false, phase := 0, pend := none, evt := k.evt.raise 1 } ∧ t.lv.held = s.lv.held) ∧
          (s.lv.waiting = [] → s.lv.budget < s.lv.held.toList.sum + 4 → 4 ≤ s.lv.budget → s.lv.waitlim[(0 : Fin 4)] ≠ 0 → Completes (.spdRange p d v) s (wroteOk
            { spd { k with range := v.getLsbD 0, ranging := true, phase := 1 } with lv := { s.lv with waiting := [⟨r, 4, 0, s.now⟩] } } p))))) ∧
    (anaUp s = true → s.pwr.mode = .run → quiet s = true → k.ranging = true →
      (k.inner = true → k.switched = false → Leaves (.rangeSwitch d) s (spd { k with now := k.range, switched := true })) ∧
      (k.inner = false → k.phase = 2 → Leaves (.rangeSwitch d) s (spd { k with now := k.range, phase := 3 })) ∧
      (∀ x, k.pend = some x → (k.inner = true ∧ k.switched = true) ∨ (k.inner = false ∧ k.phase = 3) → s.lv.waiting = [] → s.lv.held.toList.sum + 4 ≤ s.lv.budget →
        ∃ t, exec (.rangeSettled d) s = .next t ∧ t.spd[d].evt = k.evt.raise 0 ∧ t.spd[d].range = x ∧ t.spd[d].pend = none ∧ t.spd[d].now = k.now ∧
          t.spd[d].ranging = decide (x ≠ k.now) ∧ (∀ e : Fin 8, e ≠ d → t.spd[e] = s.spd[e])) ∧
      (k.pend = none →
        (k.inner = true → k.switched = true →
          Leaves (.rangeSettled d) s (spd { k with ranging := false, inner := false, switched := false, phase := 0, evt := k.evt.raise 0 })) ∧
        (k.inner = false → k.phase = 3 → s.lv.waiting = [] → Leaves (.rangeSettled d) s { spd { k with
          ranging := false, inner := false, switched := false, phase := 0, evt := k.evt.raise 0 } with lv := { s.lv with held := putV s.lv.held r 0 } })))

/-! ### Viewer inputs (21) -/

/-- CEC (R434, R435, R437-R440): a frame on the line is passed over, dropped, discarded while PR is dark or posted; a line error of a frame for this
device is recorded; an attempt ends CEC_SEND or leaves it to the next one; a poll finds the address free, in use, or is made once more; each takes the side
of its last bit that met a sampling point (R38, R433). -/
def Obligations.CecLine : Prop :=
  ∀ (s : State) (h : Byte) (data : List Byte) (side : Option Bool) (ini dest : BitVec 4) (o : CecOutcome) (x : CecTx) (a n : Nat) (rest : List Nat)
    (j : ElvJob) (ch : Fin 4) (q : LinkReq) (more : List LinkReq),
    let c := s.cec
    let cec (c : Cec) : State := { s with cec := c }
    let taken (d : BitVec 4) : Bool := d == 15 || c.mask.getLsbD d.toNat
    let c' : Cec := { c with sside := side.getD c.sside }
    let seen : Cec := { c' with line := true }
    let pass : Bool := match data with
      | op :: _ => ((c.fopc.toList.flatMap fun w => leBytes 4 w.toNat).take c.fcount).contains op
      | [] => false
    let done (k : ElvStage) : Prop := s.elv.jobs = [j] ∧ j.stage = k ∧ j.delayed = none ∧ j.req.who = .host ch q.seq ∧ s.link.chan[ch].reqs = q :: more ∧
      q.drop = false ∧ q.command.toNat = j.code
    let evt : Sqc := if o = .arbLost then c.evt.raise 2 else if o = .lineErr then c.evt.raise 3 else c.evt
    let tried := x.attempts + 1
    let broadcast : Prop := (x.blocks.headD 0).toNat % 16 = 15
    let code : Byte := match o with | .ack => 0 | .nack => 1 | .arbLost => 2 | .lineErr => 3
    let sent : State := { s with cec := { c' with tx := none, evt := evt }, elv := { s.elv with jobs := [] } }
    let claimed (m : Nat) : State := { s with cec := { c' with poll := none, mask := BitVec.ofNat 15 m }, elv := { s.elv with jobs := [] } }
    (quiet s = true → data.length ≤ 15 →
      (c.en = false ∨ taken (h.setWidth 4) = false → Leaves (.cecFrameReceived (h :: data) side) s (cec seen)) ∧
      (c.en = true → taken (h.setWidth 4) = true →
        (s.pwr.mode ≠ .standby → 2 ≤ c.buf.length → Leaves (.cecFrameReceived (h :: data) side) s (cec { seen with evt := c.evt.raise 1 })) ∧
        (s.pwr.mode = .run → s.pwr.entering = none → c.buf = [] → canPost s .cec = true → ∃ t, exec (.cecFrameReceived (h :: data) side) s = .next t ∧
          t = { s with cec := { seen with evt := c.evt.raise 0 }, mem := t.mem, pool := t.pool, cue := t.cue } ∧
          posted s t .cec 0 ([h, BitVec.ofNat 8 data.length, BitVec.ofNat 8 ((if h.toNat % 16 = 15 then 1 else 0) + if s.sys.phase = 2 then 0 else 8), 0] ++
            leBytes 8 s.tb.toNat ++ data)) ∧
        (s.pwr.mode = .standby → pass = false → Leaves (.cecFrameReceived (h :: data) side) s (cec { seen with sbydrop := c.sbydrop + 1 })) ∧
        (s.pwr.mode = .standby → pass = true → c.buf.length < 2 → Leaves (.cecFrameReceived (h :: data) side) s
          { s with
            cec := { seen with buf := c.buf ++ [⟨h :: data, true, true, decide (s.sys.phase ≠ 2), s.tb⟩], evt := c.evt.raise 0 }
            pwr := { s.pwr with wakes := if s.pwr.wakeMask.getLsbD 1 then s.pwr.wakes ++ [2] else s.pwr.wakes } }))) ∧
    (c.en = true → taken dest = true → Leaves (.cecRxLineError ini dest side) s (cec { c' with evt := c.evt.raise 3, line := true })) ∧
    (c.en = false ∨ taken dest = false → Leaves (.cecRxLineError ini dest side) s (cec c')) ∧
    (c.tx = some x → s.pwr.mode ≠ .standby →
      (tried < 5 → (broadcast → o ≠ .nack) → o ≠ .ack → Leaves (.cecAttempt o side) s (cec { c' with tx := some { x with attempts := tried }, evt := evt })) ∧
      (done .cecSend → quiet s = true →
        (o = .ack ∨ (broadcast ∧ o = .nack) → Leaves (.cecAttempt o side) s (answered sent ch q.seq j.code 0 [code, BitVec.ofNat 8 tried])) ∧
        (o ≠ .ack → ¬broadcast → 5 ≤ tried → Leaves (.cecAttempt o side) s (answered sent ch q.seq j.code 0x0600 [code, BitVec.ofNat 8 tried])))) ∧
    (c.poll = some (a :: rest, n) → s.pwr.mode ≠ .standby →
      (rest ≠ [] → Leaves (.cecPoll true side) s (cec { c' with poll := some (rest, 0) })) ∧
      (n = 0 → Leaves (.cecPoll false side) s (cec { c' with poll := some (a :: rest, 1) })) ∧
      (done .cecPoll → quiet s = true →
        (n ≠ 0 → Leaves (.cecPoll false side) s (answered (claimed (2 ^ a)) ch q.seq j.code 0 (leBytes 2 (2 ^ a)))) ∧
        (rest = [] → Leaves (.cecPoll true side) s (answered (claimed 0) ch q.seq j.code 0 [0, 0]))))

/-- A frame at an IR input ends (R441-R443, R445-R447): PULSE_DISTANCE delivers the code of 32 bits that match, a repeat of a recent code, or the
error of an orphan or of a leader; CAPTURE delivers the durations; an OFF decoder nothing. -/
def Obligations.RemoteFrames : Prop :=
  ∀ (s : State) (i : Fin 2) (lm ls fm : Nat) (bits : List (Nat × Nat)) (l : List Nat),
    let k := s.ir[i]
    let par (n : Nat) : Nat := ((k.param[n / 4 % 4]).toNat / 2 ^ (8 * (n % 4))) % 256
    let half (n : Nat) : Nat := par n + 256 * par (n + 1)
    let near (t d : Nat) : Bool := decide (((1000000 * d : Int) - 32768 * t).natAbs * 100 ≤ 32768 * t * par 8 + 100000000)
    let nearHalf (t d : Nat) : Bool := decide (((2000000 * d : Int) - 32768 * t).natAbs * 100 ≤ 32768 * t * par 8 + 200000000)
    let unit := half 4
    let short (gap x : Nat) : Bool := decide (x * 1000 < gap * 32768)
    let frame := [lm, ls] ++ bits.flatMap (fun b => [b.1, b.2]) ++ [fm]
    let value : Word := BitVec.ofNat 32 ((bits.zipIdx.map fun b =>
      if near unit b.1.2 then 0 else 2 ^ (if par 10 % 2 = 1 then 31 - b.2 else b.2)).sum)
    let ir (k : Ir) : Vector Ir 2 := putV s.ir i k
    let tells (t : State) (k : Ir) (type : Nat) (n : Nat) (reason : Byte) (v : Word) (tail : List Byte) : Prop :=
      t = { s with ir := ir k, mem := t.mem, pool := t.pool, cue := t.cue } ∧
      posted s t (.ir i) type ([BitVec.ofNat 8 i.val, 0, BitVec.ofNat 8 n, reason] ++ leBytes 4 v.toNat ++ leBytes 8 s.tb.toNat ++ tail)
    (k.dec = 0 → quiet s = true → Leaves (.irFrameEnd i l) s s) ∧
    (s.pwr.mode = .run → s.pwr.entering = none → canPost s (.ir i) = true →
      (k.dec = 1 → short (par 11) ls = true → bits.all (fun b => short (par 11) b.2) = true →
        (bits.length = 32 → near (half 0) lm = true → near (half 2) ls = true → near unit fm = true → bits.all (fun b => near unit b.1) = true →
          bits.all (fun b => near unit b.2 || near (par 6 * unit) b.2) = true →
          (if par 9 = 0 then value.extractLsb' 16 16 = ~~~(value.extractLsb' 0 16) else value.extractLsb' 24 8 = ~~~(value.extractLsb' 16 8)) →
          ∃ t, exec (.irFrameEnd i frame) s = .next t ∧
            tells t { k with line := true, lastCode := value, evt := k.evt.raise 0, lastEnd := some s.time.rtc } 0 32 0 value []) ∧
        (bits = [] → par 10 / 2 % 2 = 1 → near (half 0) lm = true → nearHalf (half 2) ls = true → near unit fm = true →
          (∀ e, k.lastEnd = some e → (s.time.rtc - e) * 1000000 < (lm + ls + fm) * 1000000 + par 11 * 32768000 / 1000 + 120000 * 32768 →
            ∃ t, exec (.irFrameEnd i frame) s = .next t ∧
              tells t { k with line := true, evt := k.evt.raise 2, lastEnd := some s.time.rtc } 1 0 0 k.lastCode []) ∧
          (k.lastEnd = none → ∃ t, exec (.irFrameEnd i frame) s = .next t ∧
            tells t { k with line := true, reason := 7, evt := k.evt.raise 1, errCount := k.errCount + 1 } 2 0 7 0 [])) ∧
        (near (half 0) lm = false → ∃ t, exec (.irFrameEnd i frame) s = .next t ∧
          tells t { k with line := true, reason := 1, evt := k.evt.raise 1, errCount := k.errCount + 1 } 2 bits.length 1 0 [])) ∧
      (k.dec = 3 → short (par 0) ls = true → bits.all (fun b => short (par 0) b.2) = true → bits.length ≤ 9 → ∃ t, exec (.irFrameEnd i frame) s = .next t ∧
        tells t { k with line := true } 3 frame.length 0 0 (frame.flatMap fun d => leBytes 2 (min d 65535))))

/-- The keypad (R450-R452): the press detector and the wake it gives, a sample asked of the converter, a repeat that is due, a reading that decodes to
a single key and becomes the accepted state with its message, and one that says no key. -/
def Obligations.Keypad : Prop :=
  ∀ (s : State) (down : Bool) (raw : BitVec 12) (set : BitVec 6) (i : Fin 6),
    let k := s.kpd
    let kpd (k : Kpd) : State := { s with kpd := k }
    let th (n : Fin 14) : Nat := k.th[n].toNat
    let a : Fin 4 := Fin.ofNat 4 (k.ain.toNat / 4)
    let c := s.adc[a]
    let adc (c : Adc) : State := { s with adc := putV s.adc a c }
    (k.en = true → (down = false ∨ k.down = true ∨ s.pwr.mode = .run → Leaves (.keypadPressDetect down) s (kpd { k with down := down })) ∧
      (down = true → k.down = false → k.wakemask ≠ 0 → s.pwr.mode ≠ .run → s.pwr.wakeMask.getLsbD 4 = true → Leaves (.keypadPressDetect down) s
        { kpd { k with down := true, wakePend := true } with pwr := { s.pwr with wakes := s.pwr.wakes ++ [5] } })) ∧
    (k.en = true → k.down = true → anaUp s = true → s.pwr.mode = .run → quiet s = true → c.enabled = true → c.uncal = false →
      (c.conv.isSome = true ∨ c.calib = true → Leaves .keypadSample s (adc { c with kpdReq := true })) ∧
      (c.conv = none → c.calib = false → c.reqs = [] → Leaves .keypadSample s (adc { c with kpdReq := false, conv := some .keypad }))) ∧
    (k.en = true → k.acc = .keys set → th 12 ≠ 0 → k.repAt ≤ s.now → s.pwr.mode = .run → canPost s .keypad = true → ∃ t, exec .keypadRepeat s = .next t ∧
      t = { s with kpd := { k with repAt := k.repAt + 24000 * th 13 }, mem := t.mem, pool := t.pool, cue := t.cue } ∧
      posted s t .keypad 1 ([set.setWidth 8, 0] ++ leBytes 2 k.accL.toNat ++ leBytes 2 k.accC.toNat ++ [0, 0] ++ leBytes 8 k.accTb.toNat)) ∧
    (anaUp s = true → s.pwr.mode = .run → k.en = true → c.conv = some .keypad → c.reqs = [] → c.kpdReq = false → c.scan = none → k.ain.toNat < 4 * adcCount s.variant →
      let code : BitVec 12 := BitVec.ofInt 12 (max 0 (min 4095 (((16 * (raw.toNat : Int) - c.ofs.toInt) * c.gain + 262144).fdiv 524288)))
      let x := code.toNat
      let load := (8192 * (th 0 - x) + x) / (2 * x)
      let near (m : Fin 6) : Bool := decide (th ⟨4 + m.val, by omega⟩ ≤ load + th 3) && decide (load ≤ th ⟨4 + m.val, by omega⟩ + th 3)
      let key : BitVec 6 := BitVec.ofNat 6 (2 ^ i.val)
      let free : Adc := { c with conv := none }
      (th 2 ≤ x → k.acc = .none → quiet s = true → Leaves (.conversionDone a raw) s
        { adc free with kpd := { k with cand := .none, runs := if k.cand = .none then k.runs + 1 else 1, lastL := 0, lastC := code } }) ∧
      (x < th 2 → x ≤ th 1 → x ≠ 0 → load < 65536 → near i = true → (∀ m : Fin 6, m < i → near m = false) → k.cand = .keys key → k.acc ≠ .keys key → th 11 ≤ k.runs + 1 →
        canPost s .keypad = true → ∃ t, exec (.conversionDone a raw) s = .next t ∧
          t = { adc free with
            kpd := { k with
              runs := k.runs + 1, lastL := BitVec.ofNat 16 load, lastC := code, acc := .keys key, accL := BitVec.ofNat 16 load, accC := code, accTb := s.tb
              lastSet := key, evt := k.evt.raise 0, wakePend := false, repAt := s.now + 24000 * th 12 }
            mem := t.mem, pool := t.pool, cue := t.cue } ∧
          posted s t .keypad 0 ([key.setWidth 8, if k.wakePend = true ∧ key &&& k.wakemask = key then 1 else 0] ++ leBytes 2 load ++ leBytes 2 x ++ [0, 0] ++
            leBytes 8 s.tb.toNat)))

/-! ### Serial and GPIO (22) -/

/-- The UARTs (R456-R459): a character joins the FIFO, or ends a message by the threshold, by a mark, by a BREAK or by an idle line; a byte written is
sent or waits, for its turn, for CTS or for room; the end of a character starts what comes next or posts TX_EMPTY. -/
def Obligations.UartLines : Prop :=
  ∀ (s : State) (p : Port) (u : Fin 2) (v : Word) (b c : Byte) (par frm high : Bool) (bs : List (Byte × BitVec 64)) (r : List Byte),
    let k := s.uart[u]
    let uart (k : Uart) : State := { s with uart := putV s.uart u k }
    let base : Word := 0x401C0000 + 0x1000 * BitVec.ofNat 32 u.val
    let item (x : Byte × BitVec 64) : RxItem := .char x.1 false false x.2
    let data : Byte := if k.bits7 then b &&& 0x7F else b
    let fresh (p : Bool) : List RxItem := k.rx ++ [.char data p frm s.tb]
    let n := bs.length
    let tells (t : State) (k : Uart) (flags n mark : Nat) (tb : BitVec 64) (bytes : List Byte) : Prop :=
      t = { uart k with mem := t.mem, pool := t.pool, cue := t.cue } ∧
      posted s t (.uart u) 0 ([BitVec.ofNat 8 u.val, BitVec.ofNat 8 flags, BitVec.ofNat 8 n, BitVec.ofNat 8 mark] ++ leBytes 8 tb.toNat ++ bytes)
    let plain : Prop := k.rx = bs.map item ∧ k.ovr = false ∧ k.rxthr ≤ 48
    let sends : Prop := k.en = true ∧ s.sys.phase = 2 ∧ s.pwr.mode = .run
    let cts : Nat := if u = 0 then 5 else 13
    let pads : Word := if high then s.gpio.pads ||| BitVec.ofNat 32 (2 ^ cts) else s.gpio.pads &&& ~~~BitVec.ofNat 32 (2 ^ cts)
    (k.en = true → s.pwr.mode = .run → pinAlt s (if u = 0 then 3 else 7) = true → plain →
      (n + 1 < k.rxthr → quiet s = true → frm = false → (par = false ∨ k.parity = 0) → Leaves (.uartRxChar u b par frm) s (uart { k with rx := fresh false, still := false })) ∧
      (n + 1 = k.rxthr → canPost s (.uart u) = true → frm = false → par = false → ∃ t, exec (.uartRxChar u b par frm) s = .next t ∧
        tells t { k with rx := [], still := false } 0 (n + 1) 0 s.tb (bs.map (·.1) ++ [data])) ∧
      (n + 1 ≤ k.rxthr → canPost s (.uart u) = true → frm = true → par = false → ∃ t, exec (.uartRxChar u b par frm) s = .next t ∧
        tells t { k with rx := [], still := false, evt := k.evt.raise 1 } 2 (n + 1) (n + 1) s.tb (bs.map (·.1) ++ [data])) ∧
      (n < k.rxthr → canPost s (.uart u) = true → ∃ t, exec (.uartBreakReceived u) s = .next t ∧
        tells t { k with rx := [], still := false, evt := k.evt.raise 2 } 4 n 0 s.tb (bs.map (·.1))) ∧
      (n < k.rxthr → canPost s (.uart u) = true → k.idle ≠ 0 → n ≠ 0 → ∃ t, exec (.uartIdle u) s = .next t ∧
        tells t { k with rx := [], still := true } 0 n 0 ((bs.getLast?.map (·.2)).getD 0) (bs.map (·.1))) ∧
      (n = 0 → k.rxthr ≠ 0 → k.idle ≠ 0 → quiet s = true → Leaves (.uartIdle u) s (uart { k with still := true })) ∧
      (k.idle = 0 → quiet s = true → Leaves (.uartIdle u) s s)) ∧
    (canWrite s p (base + 0x10) = true →
      (k.tx.length < 64 → ¬sends ∨ k.shift.isSome = true → Completes (.uartTxdata p u v) s (wroteOk (uart { k with tx := k.tx ++ [v.setWidth 8] }) p)) ∧
      (sends → k.shift = none → k.flow = false → k.tx = [] → Completes (.uartTxdata p u v) s (wroteOk (uart { k with shift := some (.char (v.setWidth 8)) }) p)) ∧
      (64 ≤ k.tx.length → ∃ t, exec (.uartTxdata p u v) s = .next t ∧ t.uart = s.uart ∧ ∃ x ∈ t.fab.blocked, x.port = p ∧ x.kind = .uartTx u v)) ∧
    (canWrite s p (base + 0x0C) = true → s.fab.blocked = [] →
      (¬sends ∨ k.shift.isSome = true → Completes (.uartBreak p u) s (wroteOk (uart { k with brkPend := true }) p)) ∧
      (sends → k.shift = none → k.flow = false → k.tx = [] → Completes (.uartBreak p u) s (wroteOk (uart { k with shift := some .brk, brkPend := false }) p)) ∧
      (k.brkPend = false ∨ k.shift.isSome = true → Completes (.uartFlush p u) s (wroteOk (uart { k with rx := [], tx := [] }) p))) ∧
    (sends → s.fab.blocked = [] → k.shift.isSome = true →
      (k.flow = false → quiet s = true →
        (k.tx = c :: r → Leaves (.uartTxCharDone u) s (uart { k with shift := some (.char c), tx := r })) ∧
        (k.tx = [] → k.brkPend = true → Leaves (.uartTxCharDone u) s (uart { k with shift := some .brk, brkPend := false })) ∧
        (k.tx = [] → k.brkPend = false → k.txqen = false → Leaves (.uartTxCharDone u) s (uart { k with shift := none }))) ∧
      (k.tx = [] → k.brkPend = false → k.txqen = true → canPost s (.uart u) = true → ∃ t, exec (.uartTxCharDone u) s = .next t ∧
        t = { uart { k with shift := none } with mem := t.mem, pool := t.pool, cue := t.cue } ∧
        posted s t (.uart u) 1 ([BitVec.ofNat 8 u.val, 0, 0, 0] ++ leBytes 8 s.tb.toNat))) ∧
    (quiet s = true → s.fab.blocked = [] →
      (k.shift.isSome = true ∨ (high = true ∧ k.flow = true) → Leaves (.uartCtsChange u high) s { s with gpio := { s.gpio with pads := pads } }) ∧
      (sends → k.shift = none → k.flow = true → high = false → pinAlt s cts = true → k.tx = c :: r → Leaves (.uartCtsChange u high) s
        { uart { k with shift := some (.char c), tx := r } with gpio := { s.gpio with pads := pads } }))

/-- The I2C controllers (R461-R463): a transfer starts with the bytes it sends, or ends at once with BAD_LEN, or is ignored while one runs; the FIFOs;
each result of a transfer, with its event, its count, the bus held, the bytes read, and its message where a completion queue is named. -/
def Obligations.I2cTransfers : Prop :=
  ∀ (s : State) (p : Port) (i : Fin 2) (v : Word) (x : I2cXfer) (bs : List Byte) (m : Nat) (b : Byte) (r : List Byte),
    let k := s.i2c[i]
    let i2c (k : I2c) : State := { s with i2c := putV s.i2c i k }
    let base : Word := 0x401D0000 + 0x1000 * BitVec.ofNat 32 i.val
    let n := (v.extractLsb' 8 5).toNat + 1
    let read := v.getLsbD 7
    let ovr (result : BitVec 4) (count : Nat) : I2c := { k with
      busy := none, result := result, count := count, hold := decide (result = 1) && !x.stop, evt := k.evt.raise (if result = 1 then 0 else 1) }
    (canWrite s p (base + 8) = true → k.en = true →
      (k.busy.isSome = true → Completes (.i2cXfer p i v) s (wroteOk (i2c { k with evt := k.evt.raise 2 }) p)) ∧
      (k.busy = none → read = false → n ≤ k.tx.length → Completes (.i2cXfer p i v) s (wroteOk
        (i2c { k with busy := some ⟨v.getLsbD 13, n, false, v.setWidth 7, p.m, k.tx.take n⟩, tx := k.tx.drop n }) p)) ∧
      (k.busy = none → read = true → k.queue ≠ 0 ∨ k.rx.length + n ≤ 32 → Completes (.i2cXfer p i v) s (wroteOk
        (i2c { k with busy := some ⟨v.getLsbD 13, n, true, v.setWidth 7, p.m, []⟩ }) p)) ∧
      (k.busy = none → k.queue = 0 → (if read then 32 < k.rx.length + n else k.tx.length < n) → Completes (.i2cXfer p i v) s (wroteOk
        (i2c { k with result := 6, count := 0, hold := false, evt := k.evt.raise 1 }) p))) ∧
    (canWrite s p (base + 0x0C) = true →
      (k.tx.length < 32 → Completes (.i2cTxdata p i v) s (wroteOk (i2c { k with tx := k.tx ++ [v.setWidth 8] }) p)) ∧
      (32 ≤ k.tx.length → Completes (.i2cTxdata p i v) s (wroteOk (i2c { k with evt := k.evt.raise 1 }) p))) ∧
    (canRead s p (base + 0x10) = true →
      (k.rx = b :: r → Completes (.i2cRxdata p i) s (setLast (i2c { k with rx := r }) p.m 0 (BitVec.ofNat 32 (256 + b.toNat)))) ∧
      (k.rx = [] → Completes (.i2cRxdata p i) s (setLast s p.m 0 0))) ∧
    (k.busy = some x → s.sys.phase = 2 → s.pwr.mode = .run →
      (k.queue = 0 → quiet s = true →
        (x.read = false → Leaves (.i2cTransferEnd i (.done bs)) s (i2c (ovr 1 x.bytes))) ∧
        (x.read = true → bs.length = x.bytes → Leaves (.i2cTransferEnd i (.done bs)) s (i2c { ovr 1 x.bytes with rx := k.rx ++ bs })) ∧
        Leaves (.i2cTransferEnd i .nackAddr) s (i2c (ovr 2 0)) ∧
        (x.read = false → m < x.bytes → Leaves (.i2cTransferEnd i (.nackData m)) s (i2c (ovr 3 m))) ∧
        (x.read = false → m ≤ x.bytes →
          Leaves (.i2cTransferEnd i (.arbLost m bs)) s (i2c (ovr 4 m)) ∧ Leaves (.i2cStretchTimeout i m bs) s (i2c (ovr 5 m))) ∧
        (x.read = true → bs.length ≤ x.bytes →
          Leaves (.i2cTransferEnd i (.arbLost m bs)) s (i2c { ovr 4 bs.length with rx := k.rx ++ bs }) ∧
          Leaves (.i2cStretchTimeout i m bs) s (i2c { ovr 5 bs.length with rx := k.rx ++ bs }))) ∧
      (canPostTo s (.i2c i) (masterClass s.pool x.by_) k.queue = true → x.read = true → bs.length = x.bytes → x.bytes ≤ 32 →
        ∃ t, exec (.i2cTransferEnd i (.done bs)) s = .next t ∧ t = { i2c (ovr 1 x.bytes) with mem := t.mem, pool := t.pool, cue := t.cue } ∧
          postedTo s t (.i2c i) k.queue 0 ([BitVec.ofNat 8 i.val, 1, BitVec.ofNat 8 x.bytes, 0] ++ leBytes 8 s.tb.toNat ++ bs)))

/-- GPIO (R350, R351, R464, R465): SET and CLR touch the bits written, an edge moves its pad and is recorded, and posted to the edge queue when its
pin selects it; an edge of GPIO0 or GPIO1 wakes a sleeping device. -/
def Obligations.GpioPins : Prop :=
  ∀ (s : State) (p : Port) (v : Word) (pin : Fin 32) (rising : Bool) (w : Fin 2),
    let g := s.gpio
    let gpio (g : Gpio) : State := { s with gpio := g }
    let present : Word := if s.variant = .t then 0xFFFF else 0xFFFFFFFF
    let bit : Word := BitVec.ofNat 32 (2 ^ pin.val)
    let half : Fin 2 := ⟨pin.val / 16, by omega⟩
    let sel : BitVec 2 := g.edge[half].extractLsb' (2 * (pin.val % 16)) 2
    let pads := if rising then g.pads ||| bit else g.pads &&& ~~~bit
    let evt := putV g.evt half (g.evt[half].raise (pin.val % 16))
    let selected := if rising then sel.getLsbD 0 else sel.getLsbD 1
    let input : Prop := (s.variant ≠ .t ∨ pin.val < 16) ∧ s.pwr.mode = .run ∧ (s.sys.phase ≠ 2 ∨ g.oe.getLsbD pin.val = false) ∧ s.uart[(0 : Fin 2)].en = false ∧
      s.uart[(1 : Fin 2)].en = false ∧ s.fab.blocked = []
    (canWrite s p 0x401E0004 = true → Completes (.gpioSet p v) s (wroteOk (gpio { g with out := g.out ||| (v &&& present) }) p)) ∧
    (canWrite s p 0x401E0008 = true → Completes (.gpioClr p v) s (wroteOk (gpio { g with out := g.out &&& ~~~v }) p)) ∧
    (input →
      (selected = false → quiet s = true → Leaves (.gpioEdge pin rising) s (gpio { g with pads := pads })) ∧
      (selected = true → g.queue = 0 → quiet s = true → Leaves (.gpioEdge pin rising) s (gpio { g with pads := pads, evt := evt })) ∧
      (selected = true → canPostTo s .gpio (masterClass s.pool g.qBy) g.queue = true → ∃ t, exec (.gpioEdge pin rising) s = .next t ∧
        t = { gpio { g with pads := pads, evt := evt } with mem := t.mem, pool := t.pool, cue := t.cue } ∧
        postedTo s t .gpio g.queue 0 (leBytes 4 bit.toNat ++ leBytes 4 (gpioIn (gpio { g with pads := pads })).toNat ++ leBytes 8 s.tb.toNat))) ∧
    (s.pwr.wakeMask.getLsbD (5 + w.val) = true → s.pwr.mode ≠ .run ∨ s.pwr.entering.isSome = true →
      Leaves (.gpioWakeEdge w) s { s with pwr := { s.pwr with wakes := s.pwr.wakes ++ [6 + w.val] } }) ∧
    (s.pwr.wakeMask.getLsbD (5 + w.val) = false ∨ (s.pwr.mode = .run ∧ s.pwr.entering = none) → Leaves (.gpioWakeEdge w) s s)

/-! ### The crypto engine and the entropy source (16) -/

/-- A job of context F (R323-R327, R329, R330): START takes the writer's configuration and asks for leave, or is answered BUSY or BAD_CONFIG, or ends
on a refused key; ABORT is the owner's; the input and output FIFOs take and give words. -/
def Obligations.CryptoJob : Prop :=
  ∀ (s : State) (p : Port) (v d : Word) (r : List Word) (j : CryJob),
    let f := s.cry.f
    let m := p.m
    let c := f.cfg[m]
    let cry (f : CryCtx) : State := { s with cry := { s.cry with f := f } }
    let tells (n : BitVec 2) : State := cry { f with cfg := putV f.cfg m { c with sstat := n } }
    let aes : Prop := 2 ≤ c.alg.toNat ∧ c.alg.toNat ≤ 5
    let bad : Prop := ((c.alg = 2 ∨ c.alg = 3) ∧ c.len.toNat % 16 ≠ 0) ∨ (c.alg = 6 ∧ c.len.toNat ≠ 160) ∨ (c.alg ≠ 5 ∧ c.aadlen ≠ 0)
    let keyBytes : List Byte := if c.alg = 0 ∨ c.alg = 6 then [] else
      let b := c.key.toList.flatMap fun w => leBytes 4 w.toNat
      if aes ∧ c.ksize = false then b.take 16 else b
    let plain : CryCfg := { c with key := Vector.replicate 8 0 }
    let slot := s.key.slots[Fin.ofNat 16 c.handle.toNat]
    let started (key : List Byte) : CryCtx := { f with
      cfg := putV f.cfg m { plain with sstat := 0 }, job := some { cfg := { plain with sstat := 0 }, owner := m, secure := (portWho s p).secure, key := key }
      waitLeave := false, din := [], dout := [], overfeed := false, owner := BitVec.ofNat 4 m.val, lwait := 0, count := 0
      digest := Vector.replicate 8 0, digestOwner := some m }
    let held := putV s.lv.held (16 : Fin 41) 15
    let words (j : CryJob) : Nat := (j.cfg.aadlen.toNat + 3) / 4 + (j.cfg.len.toNat + 3) / 4
    s.sys.phase = 2 → s.fab.blocked = [] →
    (canWrite s p 0x40200054 = true →
      (f.job.isSome = true → Completes (.cryStart p) s (wroteOk (tells 1) p)) ∧
      (f.job = none → bad → Completes (.cryStart p) s (wroteOk (tells 2) p)) ∧
      (f.job = none → ¬bad → c.ksrc = 0 ∨ c.alg = 0 ∨ c.alg = 6 →
        (s.lv.held[(16 : Fin 41)] ≠ 0 → Completes (.cryStart p) s (wroteOk (cry (started keyBytes)) p)) ∧
        (s.lv.held[(16 : Fin 41)] = 0 → s.lv.waiting = [] → s.lv.held.toList.sum + 15 ≤ s.lv.budget →
          ∃ t, exec (.cryStart p) s = .next t ∧ t.cry = { s.cry with f := started keyBytes } ∧ t.lv.held = held)) ∧
      (f.job = none → ¬bad → c.ksrc ≠ 0 → c.alg ≠ 0 → c.alg ≠ 6 → slot.held = false ∨ slot.gen ≠ c.handle.toNat / 16 ∨ slot.owner.val ≠ m.val → c.queue = 0 →
        s.cry.p.job.isSome = true → Completes (.cryStart p) s (wroteOk (cry { started [] with job := none, result := 5, status := f.status.raise 1 }) p)) ∧
      (f.job = some j → j.owner = m → j.cfg.queue = 0 → s.cry.p.job = none → s.lv.waiting = [] → Completes (.abort p) s (wroteOk
        { cry { f with job := none, waitLeave := false, din := [], dout := [], result := 7, count := BitVec.ofNat 32 (j.aad.length + j.inp.length), status := f.status.raise 1 }
          with lv := { s.lv with held := putV s.lv.held (16 : Fin 41) 0 } } p)) ∧
      (∀ j, f.job = some j → j.owner ≠ m → Completes (.abort p) s (wroteOk (tells 3) p)) ∧
      (f.job = none → Completes (.abort p) s (wroteOk (tells 3) p))) ∧
    (canWrite s p 0x40200060 = true → f.job = some j →
      (j.owner = m →
        (words j ≤ j.fed → Completes (.cryFDin p v) s (wroteOk (cry { f with overfeed := true }) p)) ∧
        (j.fed < words j → f.din.length < 16 →
          Completes (.cryFDin p v) s (wroteOk (cry { f with din := f.din ++ [v], job := some { j with fed := j.fed + 1 } }) p)) ∧
        (j.fed < words j → 16 ≤ f.din.length → ∃ t, exec (.cryFDin p v) s = .next t ∧ t.cry = s.cry ∧ ∃ x ∈ t.fab.blocked, x.port = p)) ∧
      (j.owner ≠ m → m.val ≠ 9 → ∃ t, exec (.cryFDin p v) s = .next t ∧ t.cry = s.cry ∧ t.last = putV s.last m (3, 0))) ∧
    (canRead s p 0x40200064 = true → f.job = some j → j.owner = m →
      (f.dout = d :: r → Completes (.cryFDout p) s (setLast (cry { f with dout := r }) m 0 d)) ∧
      (f.dout = [] → ∃ t, exec (.cryFDout p) s = .next t ∧ t.cry = s.cry ∧ ∃ x ∈ t.fab.blocked, x.port = p))

/-- A job whose input is processed and whose output is taken ends (R328, R329): the digest, the HMAC or the tag, the result, the count, the leave
given back, and the completion message where a queue is named. The entropy source (R322): a read takes a word of the reserve that no AUTH_CHALLENGE waits for, or says that none is
valid; a failed test discards the reserve and starts the start-up test again, and the third in a row stops the source with its record. What the random
bits are is free. -/
def Obligations.CryptoResultsAndEntropy : Prop :=
  (∀ (s : State) (j : CryJob),
      let f := s.cry.f
      let c := j.cfg
      let iv := c.iv.toList.flatMap fun w => leBytes 4 w.toNat
      let tag := c.tag.toList.flatMap fun w => leBytes 4 w.toNat
      let words (b : List Byte) : Vector Word 8 := Vector.ofFn fun i : Fin 8 => BitVec.ofNat 32 (ofLe ((b.drop (4 * i.val)).take 4))
      let out : Vector Word 8 × BitVec 4 :=
        if c.alg = 0 then (words (sha256 j.inp), 1)
        else if c.alg = 1 then (words (hmac j.key j.inp), 1)
        else if c.alg = 5 then
          if c.dir then (f.digest, if gcmTag j.key (iv.take 12) j.aad j.inp = tag then 1 else 4) else (words (gcmTag j.key (iv.take 12) j.aad j.out), 1)
        else if c.alg = 6 then (f.digest, if ecdsaVerify (j.inp.take 32) ((j.inp.drop 32).take 64) (j.inp.drop 96) then 2 else 3)
        else (f.digest, 1)
      let n := j.aad.length + j.inp.length
      let ended : State := { s with
        cry := { s.cry with f := { f with
          job := none, din := [], result := out.2, count := BitVec.ofNat 32 n, digest := out.1
          status := f.status.raise (if out.2.toNat ≤ 3 then 0 else 1) } }
        lv := { s.lv with held := putV s.lv.held (16 : Fin 41) 0 } }
      f.job = some j → f.waitLeave = false → f.dout = [] → s.cry.p.job = none → s.lv.waiting = [] →
      (quiet s = true → j.aad.length ≠ c.aadlen.toNat ∨ j.inp.length ≠ c.len.toNat → Leaves .cryJobEnd s s) ∧
      (j.aad.length = c.aadlen.toNat → j.inp.length = c.len.toNat →
        (c.queue = 0 → quiet s = true → Leaves .cryJobEnd s ended) ∧
        (canPostTo s .cry (masterClass s.pool j.owner) c.queue = true → ∃ t, exec .cryJobEnd s = .next t ∧
          t = { ended with mem := t.mem, pool := t.pool, cue := t.cue } ∧
          postedTo s t .cry c.queue 0 ([1, out.2.setWidth 8, 0, 0] ++ leBytes 4 (n % 2 ^ 32) ++ leBytes 4 f.lwait.toNat)))) ∧
  (∀ (s : State) (p : Port),
      let k := s.key
      let n := if k.fails ≠ 0 ∧ k.since < 1228800 then k.fails + 1 else 1
      let failed : KeyStore := { k with reserve := 0, testing := 1200, fill := 768, fails := n, since := 0, stopped := decide (3 ≤ n) }
      (canRead s p 0x40200700 = true → s.sys.phase = 2 →
        (k.stopped = false → k.testing = 0 → k.reserve ≠ 0 → (∀ j ∈ s.elv.jobs, j.code ≠ 0x0501) → (∀ x, s.dbg.pend = some x → x.code ≠ 0x0501) →
          Completes (.cryRng p) s
          (setLast { s with key := { k with reserve := k.reserve - 1, draws := k.draws + 1 } } p.m 0 (0x80000000 + (Config.rngBits k.draws).setWidth 32))) ∧
        (k.stopped = true ∨ k.testing ≠ 0 ∨ k.reserve = 0 → Completes (.cryRng p) s (setLast s p.m 0 0))) ∧
      (k.stopped = true → Leaves .entropyTestFail s s) ∧
      (k.stopped = false → n < 3 → Leaves .entropyTestFail s { s with key := failed }) ∧
      (k.stopped = false → 3 ≤ n → s.ec.fifo.length < 32 → ∃ t, exec .entropyTestFail s = .next t ∧ t.key = failed ∧
        t.ec.fifo = s.ec.fifo ++ [⟨0x0B, 1, 15, true, 0, 0, 0, s.tb.setWidth 32⟩] ∧ t = { s with key := t.key, ec := t.ec }))

/-! ### Trace, TAP and debug access (23) -/

/-- The trace collector (R468, R469, R471, R472, R474, R476, R477): TRC_CFG takes its fields and a write that sets EN starts the stream with a sync
point, a task id is told with the STEP packet before it, unless the core is excluded (log entry 63), and after a loss OVF and a sync point follow.
Cores that are dark have no packets in a sync point (log entry 63). -/
def Obligations.TraceCollector : Prop :=
  ∀ (s : State) (p : Port) (v : Word) (n : Core),
    let k := s.trc
    let tk : BitVec 5 := v.extractLsb' 16 5
    let sy : BitVec 5 := v.extractLsb' 8 5
    let set : Trc := { k with sink := v.getLsbD 30, wrap := v.getLsbD 29, timek := tk, synclog := sy, cores := v.setWidth 8 }
    let state (c : Core) : Byte :=
      let x := s.cores[c]
      BitVec.ofNat 8 ((x.state.toNat % 4) + if x.metEn then 4 else 0)
    let ctx (c : Core) (reason : Byte) (task : BitVec 16) : List Byte := [BitVec.ofNat 8 (0x60 + c.val), reason, state c] ++ leBytes 2 task.toNat ++ [0, 0, 0]
    let sync (cores : BitVec 8) : List Byte := List.replicate 11 (0xFF : Byte) ++ ([0, 0x1F] : List Byte) ++ leBytes 8 s.tb.toNat ++
      (List.finRange 8).flatMap fun c => if cores.getLsbD c.val && decide (c.val < coreCount s.variant) && coreUp s c then ctx c 0 k.task[c] ++
        (if s.cores[c].world && decide (s.dbg.level ≠ 2) then [BitVec.ofNat 8 (0x70 + c.val), 1]
         else [BitVec.ofNat 8 (0x50 + c.val), 2] ++ varint 5 (zigzag (s.cores[c].pc >>> 2))) else []
    let mask : Byte := BitVec.ofNat 8 (((List.finRange 8).map fun c => if k.core[c].lost then 2 ^ c.val else 0).sum)
    (canWrite s p 0x40210000 = true → k.en = false → k.active = false → 10 ≤ tk.toNat → tk.toNat ≤ 20 → 10 ≤ sy.toNat → sy.toNat ≤ 20 → v.getLsbD 30 = false ∨ s.variant = .x →
      (v.getLsbD 31 = false → ∃ t, exec (.trcCfg p v) s = .next t ∧ t.trc = set ∧ t.arch = (wroteOk s p).arch) ∧
      (v.getLsbD 31 = true → k.buf = [] → ∃ t, exec (.trcCfg p v) s = .next t ∧ t.arch = (wroteOk s p).arch ∧ t.trc.en = true ∧ t.trc.active = true ∧ t.trc.cores = v.setWidth 8 ∧
        t.trc.wptr = 0 ∧ t.trc.buf = sync (v.setWidth 8))) ∧
    (canWrite s p (0x40210040 + 4 * BitVec.ofNat 32 n.val) = true →
      (k.en = false ∨ k.cores.getLsbD n.val = false ∨ coreCount s.variant ≤ n.val ∨ (s.cores[n].world = true ∧ s.dbg.level ≠ 2) →
        ∃ t, exec (.trcTask p n v) s = .next t ∧ t.arch = (wroteOk s p).arch ∧
        t.trc = { k with task := putV k.task n (v.setWidth 16) }) ∧
      (k.en = true → k.cores.getLsbD n.val = true → n.val < coreCount s.variant → s.cores[n].world = false ∨ s.dbg.level = 2 → k.mode.getLsbD n.val = true →
        k.core[n].outs = [] → k.core[n].rep = 0 → k.core[n].steps ≤ 0xFFFFFF → k.buf.length + 13 ≤ 4096 →
        k.timeMark = s.now / 2 ^ k.timek.toNat → k.sinceSync + 14 ≤ 2 ^ k.synclog.toNat → ∃ t, exec (.trcTask p n v) s = .next t ∧ t.arch = (wroteOk s p).arch ∧
          t.trc.task = putV k.task n (v.setWidth 16) ∧ t.trc.core[n].steps = 0 ∧
          t.trc.buf = k.buf ++ [BitVec.ofNat 8 (0x20 + n.val)] ++ varint 5 (2 * k.core[n].steps) ++ ctx n 2 (v.setWidth 16))) ∧
    (0 < k.discarded → k.buf.length + 512 ≤ 4096 → k.en = true → (∀ c : Core, k.core[c].outs = [] ∧ k.core[c].rep = 0) → ∃ t, exec .traceOvf s = .next t ∧ t.arch = s.arch ∧ t.trc.discarded = 0 ∧ t.trc.evt = k.evt.raise 1 ∧
      (∀ c : Core, t.trc.core[c].lost = false) ∧ t.trc.buf = k.buf ++ [0x8F] ++ varint 5 k.discarded ++ [mask] ++ sync k.cores) ∧
    (k.discarded = 0 ∨ 4096 < k.buf.length + 512 → Leaves .traceOvf s s)

/-- The TAP (R479, R481, R484, R491): which instruction is loaded, the identification and the status it captures (R480, R483), the boundary register
and the drive of the pads, and the authorisation commands, with the bytes of their responses. In STANDBY the TAP answers nothing. -/
def Obligations.TapScansAndLevel : Prop :=
  ∀ (s : State) (ir : BitVec 5) (pads load : List Bool) (x : BitVec 9) (nonce : List Byte) (b : Byte) (r : List Byte),
    let d := s.dbg
    let dbg (d : Dbg) : State := { s with dbg := d }
    let ld (ir : BitVec 5) : Dbg := { d with ir := ir, extest := false }
    let drives := decide (s.boot.life = 0) || decide (d.level = 2)
    let cells : Nat := match s.variant with | .x => 315 | .s => 252 | .t => 138
    let status : List Byte := [0, 0, d.level.setWidth 8, d.slot, d.source.setWidth 8, BitVec.ofNat 8 d.failures, if 8 ≤ d.failures then 1 else 0]
    (s.pwr.mode ≠ .standby →
      Leaves .tapReset s (dbg (ld 2)) ∧ Leaves .idcode s (dbg { ld 2 with cap := match s.variant with | .x => 0x10B24ECF | .s => 0x10B25ECF | .t => 0x10B26ECF }) ∧ Leaves .extest s (dbg { ld 0 with extest := drives }) ∧ (ir ≠ 0 → ir ≠ 10 → Leaves (.bypass ir) s (dbg (ld ir))) ∧
      Leaves (.bypass 10) s (dbg { ld 10 with cap := dbgStatusWord s }) ∧
      (pads.length = cells → load.length = cells → Leaves (.samplePreload pads load) s (dbg { ld 1 with sampled := pads, bnd := load })) ∧
      (d.pend = none →
        (x.getLsbD 8 = false → Leaves (.dbgAuth x nonce) s (dbg { ld 8 with req := d.req ++ [x.setWidth 8] })) ∧
        (x = 0x105 → d.req = [4] → Leaves (.dbgAuth x nonce) s (dbg { ld 8 with req := [], resp := status })) ∧
        (x = 0x105 → d.req = [9] → Leaves (.dbgAuth x nonce) s (dbg { ld 8 with req := [], resp := [0, 3] })) ∧
        (x.getLsbD 8 = true → d.req = [1, 5] → x.setWidth 8 = (1 : Byte) ∨ x.setWidth 8 = (2 : Byte) →
          (s.sys.phase ≠ 2 → Leaves (.dbgAuth x nonce) s (dbg { ld 8 with req := [], resp := [1, 1] })) ∧
          (s.sys.phase = 2 → 8 ≤ d.failures → Leaves (.dbgAuth x nonce) s (dbg { ld 8 with req := [], resp := [2, 3] })) ∧
          (s.sys.phase = 2 → d.failures < 8 → s.key.stopped = false → 8 ≤ s.key.reserve → Leaves (.dbgAuth x nonce) s
            { s with
              dbg := { ld 8 with req := [], resp := [0, 0] ++ nonce, chTap := some ⟨nonce, x.setWidth 2, s.now⟩ }
              key := { s.key with reserve := s.key.reserve - 8 } })) ∧
        (d.resp = b :: r → Leaves .dbgAuthCapture s (dbg { ld 8 with dr := 0x100 ||| b.setWidth 9, resp := r })) ∧
        (d.resp = [] → Leaves .dbgAuthCapture s (dbg { ld 8 with dr := 0 })))) ∧
    (s.pwr.mode = .standby → Leaves .tapReset s s ∧ Leaves .idcode s s ∧ Leaves .extest s s ∧ Leaves (.bypass ir) s s ∧ Leaves (.samplePreload pads load) s s ∧
      Leaves (.dbgAuth x nonce) s s ∧ Leaves .dbgAuthCapture s s)

/-- DBG_ACCESS (R482, R484-R486): each operation with its answer, where the level permits it, and PERMISSION where it does not; memory and registers
read and written, a core halted, resumed and stepped over one word, the wake, and what NAP holds. -/
def Obligations.DebugAccess : Prop :=
  ∀ (s : State) (op core : BitVec 4) (addr data : Word) (c : Core) (r a : Reg) (imm : BitVec 17),
    let d := s.dbg
    let tells (t : State) (op : BitVec 4) (ans : BitVec 3) (v : Word) : State := { t with dbg := { t.dbg with ir := 9, extest := false, op := op, ans := ans, data := v } }
    let k := s.cores[c]
    let halts (info : Word) (t : State) : State := { t.updCore c fun k => { k with run := .halted, haltReq := false, stepping := false, haltInfo := info } with
      dbg := { t.dbg with halts := t.dbg.halts + 1 } }
    let who := portWho s ⟨14, 0⟩
    let here : Prop := core.toNat = c.val ∧ c.val < coreCount s.variant
    let mem (acc : Acc) : Prop := inSram addr.toNat = true ∧ staticAns s who acc addr.toNat 4 = 0 ∧ memAnswer s who acc addr.toNat 4 = 0 ∧ addr.toNat % 4 = 0 ∧
      s.sec = [] ∧ s.ded = [] ∧ s.poison = [] ∧ quiet s = true ∧ admits s 14 1 4 = true
    let run := s.updCore c fun k => { k with run := .running }
    let word : Word := 0#1 ++ 0x01#6 ++ r ++ a ++ imm
    let halting : Prop := k.haltReq = true ∧ coreUp s c = true ∧ (k.run = .running ∨ k.run = .waiting) ∧ k.flow = none ∧ k.stopped = false ∧ coreInWord s c = false ∧
      (d.level = 2 ∨ (d.level = 1 ∧ k.world = false))
    (d.heldOp = none → (∀ b ∈ s.fab.blocked, b.port.m.val ≠ 14) →
      (s.pwr.mode = .run →
        Leaves (.nop core addr data) s (tells s 0 0 0) ∧
        (10 ≤ op.toNat → Leaves (.dbgAccessReservedOp op core addr data) s (tells s op 7 0)) ∧
        (d.level = 0 → Leaves (.memRead core addr data) s (tells s 1 3 0) ∧ Leaves (.memWrite core addr data) s (tells s 2 3 0)) ∧
        (d.level ≠ 0 → mem .read → Completes (.memRead core addr data) s (tells (setLast s 14 0 (s.word addr.toNat)) 1 0 (s.word addr.toNat))) ∧
        (d.level ≠ 0 → mem .write → Completes (.memWrite core addr data) s (tells (setLast (s.put addr.toNat (leBytes 4 data.toNat)) 14 0 0) 2 0 0)) ∧
        (coreCount s.variant ≤ core.toNat → Leaves (.halt core addr data) s (tells s 5 2 0) ∧ Leaves (.regRead core addr data) s (tells s 3 2 0)) ∧
        (here → d.level = 0 → Leaves (.halt core addr data) s (tells s 5 3 0) ∧ Leaves (.resume core addr data) s (tells s 6 3 0) ∧ Leaves (.step core addr data) s (tells s 7 3 0)) ∧
        (here → d.level ≠ 0 →
          (k.run = .halted → k.sec = [] → k.ded = [] → addr = r.setWidth 32 → r ≠ 0 →
            Leaves (.regRead core addr data) s (tells s 3 0 (k.reg r)) ∧
            Leaves (.regWrite core addr data) s (tells (s.updCore c fun k => k.setReg r data) 4 0 0)) ∧
          (k.run ≠ .halted → k.sec = [] → k.ded = [] → addr = r.setWidth 32 → Leaves (.regRead core addr data) s (tells s 3 3 0) ∧ Leaves (.regWrite core addr data) s (tells s 4 3 0)) ∧
          (coreUp s c = true → k.run = .running → Leaves (.halt core addr data) s (tells (s.updCore c fun k => { k with haltReq := true }) 5 0 0)) ∧
          (coreUp s c = true → k.run = .waiting → k.flow = none → k.stopped = false → coreInWord s c = false → k.stepping = false → d.level = 2 ∨ k.world = false → d.level.toNat ≤ 2 →
            Completes (.halt core addr data) s (tells (halts 0x80000001 s) 5 0 0)) ∧
          (coreUp s c = true → k.run = .halted →
            Completes (.resume core addr data) s (tells (s.updCore c fun k =>
              { k with run := .running, haltReq := false, stepping := false, haltInfo := k.haltInfo &&& 0x7FFFFFFF }) 6 0 0) ∧
            (calmWord run c ⟨0, 0, 0, 0⟩ = true → s.word (physAddr (coreM c) k.pc.toNat) = word → stackOk k r (k.reg a + imm.signExtend 32) = true → d.level = 2 ∨ (d.level = 1 ∧ k.world = false) →
              Completes (.step core addr data) s (tells (halts 0x80000002 (wrote s c r (k.reg a + imm.signExtend 32))) 7 0 0))))) ∧
      (s.pwr.mode = .nap →
        (d.level ≠ 0 → Leaves (.wake core addr data) s { tells s 8 0 0 with pwr := { s.pwr with wakes := s.pwr.wakes ++ [11] } }) ∧
        (d.level = 0 → Leaves (.wake core addr data) s (tells s 8 3 0)) ∧
        (here → d.level ≠ 0 → Leaves (.status core addr data) s (tells s 9 0 k.haltInfo)) ∧
        Leaves (.halt core addr data) s { s with dbg := { d with ir := 9, extest := false, heldOp := some ⟨5, core, addr, data⟩ } })) ∧
    (halting → Completes (.haltTaken c) s (halts (if k.stepping then 0x80000002 else 0x80000001) s)) ∧
    (k.haltReq = false → Leaves (.haltTaken c) s s)

/-! ### Faults and the machine as a whole (24, 00) -/

/-- The records of the collector, a core without progress, and quarantine (R496-R498, R502, R503): the oldest record becomes a message on queue
0x0001, a core that made no step for 2^20 ticks raises a machine check with its record, FATAL when no other core runs, and its quarantine removes it,
parks its buffers, frees its keys and tells the host. -/
def Obligations.FaultsAndQuarantine : Prop :=
  ∀ (s : State) (c : Core) (r : EcRec) (rest : List EcRec),
    let k := s.cores[c]
    let lost : EcRec := ⟨6, 2, BitVec.ofNat 4 c.val, k.world, 0, k.pc, 4, s.tb.setWidth 32⟩
    let runs : Prop := k.run = .running ∧ k.stopped = false ∧ coreBlocked s c = false ∧ s.pwr.drain.getLsbD (2 + c.val) = false ∧ s.pwr.mode = .run
    let other : Prop := ∃ d : Core, d ≠ c ∧ d.val < coreCount s.variant ∧ (s.cores[d].run = .running ∨ s.cores[d].run = .waiting ∨ s.cores[d].run = .halted)
    (s.ec.fifo = [] → quiet s = true → Leaves .ecPost s s) ∧
    (s.ec.fifo = r :: rest → s.ec.posting = false → canPost s .ec = true → ∃ t, exec .ecPost s = .next t ∧
      t = { s with ec := { s.ec with fifo := rest, lostBefore := false }, mem := t.mem, pool := t.pool, cue := t.cue } ∧
      posted s t .ec 0 ([r.source, r.cls.setWidth 8, BitVec.ofNat 8 (r.master.toNat + (if r.secure then 16 else 0) + if s.ec.lostBefore then 128 else 0), r.answer.setWidth 8] ++
        leBytes 4 r.addr.toNat ++ leBytes 4 r.detail.toNat ++ leBytes 4 r.stamp.toNat)) ∧
    (runs → k.stepTb + 2 ^ 20 ≤ s.now → s.ec.fifo.length < 32 → ∃ t, exec (.noProgress c) s = .next t ∧
      t.ec.fifo = s.ec.fifo ++ [lost] ∧ (∀ d : Core, d ≠ c → t.cores[d] = s.cores[d]) ∧ t.cores[c].run = .check ∧ t.cores[c].reason = 4 ∧
      (other → t.fatal = s.fatal) ∧ (¬other → t.fatal = some 6) ∧ t = { s with cores := t.cores, ec := t.ec, fatal := t.fatal }) ∧
    (¬runs ∨ s.now < k.stepTb + 2 ^ 20 → Leaves (.noProgress c) s s) ∧
    (k.run = .check → s.fatal = none → s.pwr.mode = .run → quiet s = true → s.elv.jobs = [] → s.fab.blocked = [] → s.fab.waiting = [] → k.sb = [] → s.lv.waiting = [] →
      s.cry.f.job = none → s.install.session = none → s.link.up = true → linkBooting s = false → s.link.tx = [] →
      ∃ t, exec (.quarantine c) s = .next t ∧ t.cores[c].run = .quarantined ∧ t.cores[c].reason = k.reason ∧ (∀ d : Core, d ≠ c → t.cores[d] = s.cores[d]) ∧
        t.pwr.dom = s.pwr.dom &&& ~~~BitVec.ofNat 16 (2 ^ (2 + c.val)) ∧
        (∀ g ∈ t.pool.tags, g.st = 1 → g.owner.toNat ≠ c.val) ∧
        (∀ g ∈ s.pool.tags, (g.st ≠ 1 ∨ g.owner.toNat ≠ c.val → g ∈ t.pool.tags) ∧ (g.st = 1 → g.owner.toNat = c.val → { g with st := 3 } ∈ t.pool.tags)) ∧
        (∀ i : Fin 16, t.key.slots[i].held = true → t.key.slots[i].owner ≠ c) ∧
        t.link.tx = [⟨⟨s.link.evtch ++ s.link.evtSeq, 0x8002, [BitVec.ofNat 8 c.val, k.reason]⟩, true⟩])

/-- A step takes the command at the front of the queue and carries it out on the state with the rest of the queue; on an empty queue a tick passes
(log entry 3), which is the model's choice. -/
def Obligations.StepRunsTheFront : Prop :=
  ∀ (s : State) (i : Instr) (r : List Instr),
    step { s with pending := i :: r } = exec i { s with pending := r } ∧ (∃ t, step { s with pending := [] } = .next t)

/-- Memory lists addresses in rising order, no byte that equals what an unlisted address reads as, right after reset (log entries 6 and 10); nothing
waits, and the device is dark but for AO and PR. -/
def Obligations.ResetState : Prop :=
  memWf State.reset.mem = true ∧ State.reset.pending = [] ∧ State.reset.sys.phase = 0 ∧ State.reset.tb = 0 ∧ State.reset.dbg.level = 0 ∧ State.reset.ec.fifo = []

/-- Memory keeps its canonical form over every step, whatever command runs, from every state in which it has it. -/
def Obligations.MemoryStaysCanonical : Prop :=
  ∀ (s t : State), memWf s.mem = true → step s = .next t → memWf t.mem = true
end

