-- ==== Sys2Proof/Laws/Arch.lean ====
section
/-!
SUPPORT. What `State.arch` forgets, and the shared operations of a word that change nothing else: the trace, the pace, the fetch.
-/

namespace Sys2Proof.Machine

/-! ### Vectors -/

@[simp] theorem updV_same {α : Type} {n : Nat} (v : Vector α n) (i : Fin n) (f : α → α) : (updV v i f)[i] = f v[i] := by
  simp [updV]

@[simp] theorem updV_same' {α : Type} {n : Nat} (v : Vector α n) (i : Fin n) (f : α → α) : (updV v i f)[i.val] = f v[i.val] := by
  simp [updV]

theorem updV_other {α : Type} {n : Nat} (v : Vector α n) (i j : Fin n) (f : α → α) (h : j ≠ i) : (updV v i f)[j] = v[j] := by
  have : i.val ≠ j.val := fun e => h (Fin.ext e.symm)
  simp [updV, Vector.getElem_set_ne, this]

@[simp] theorem putV_same {α : Type} {n : Nat} (v : Vector α n) (i : Fin n) (x : α) : (putV v i x)[i] = x := by
  simp [putV]

@[simp] theorem putV_same' {α : Type} {n : Nat} (v : Vector α n) (i : Fin n) (x : α) : (putV v i x)[i.val] = x := by
  simp [putV]

theorem putV_other {α : Type} {n : Nat} (v : Vector α n) (i j : Fin n) (x : α) (h : j ≠ i) : (putV v i x)[j] = v[j] := by
  have : i.val ≠ j.val := fun e => h (Fin.ext e.symm)
  simp [putV, Vector.getElem_set_ne, this]

theorem vec_ext {α : Type} {n : Nat} {v w : Vector α n} (h : ∀ i : Fin n, v[i] = w[i]) : v = w := by
  apply Vector.ext
  intro i hi
  exact h ⟨i, hi⟩

/-! ### The parts of two states that agree -/

/-- Everything of a state but its cores and what `State.arch` leaves out. -/
def State.rest (s : State) : State := { s.arch with cores := Vector.replicate 8 {} }

theorem arch_eq_iff {s t : State} : s.arch = t.arch ↔ s.rest = t.rest ∧ ∀ d : Core, s.cores[d].arch = t.cores[d].arch := by
  constructor
  · intro h
    refine ⟨congrArg (fun u : State => ({ u with cores := Vector.replicate 8 {} } : State)) h, fun d => ?_⟩
    have := congrArg (fun u : State => u.cores[d]) h
    simpa [State.arch] using this
  · rintro ⟨h, hc⟩
    have hv : s.cores.map CoreState.arch = t.cores.map CoreState.arch := vec_ext fun d => by simpa using hc d
    have := congrArg (fun u : State => ({ u with cores := s.cores.map CoreState.arch } : State)) h
    simp only [State.rest, State.arch, hv] at this ⊢
    exact this

theorem arch_core {s t : State} (h : s.arch = t.arch) (d : Core) : s.cores[d].arch = t.cores[d].arch := (arch_eq_iff.1 h).2 d

theorem arch_rest {s t : State} (h : s.arch = t.arch) : s.rest = t.rest := (arch_eq_iff.1 h).1

/-- A field that `rest` keeps agrees. -/
theorem arch_field {α : Type} {s t : State} (f : State → α) (h : s.arch = t.arch) (hf : ∀ u : State, f u.rest = f u := by intro; rfl) :
    f s = f t := by
  rw [← hf s, ← hf t, arch_rest h]

/-- A field of a core that `CoreState.arch` keeps agrees. -/
theorem arch_get {α : Type} {s t : State} (c : Core) (f : CoreState → α) (h : s.arch = t.arch)
    (hf : ∀ k : CoreState, f k.arch = f k := by intro; rfl) : f s.cores[c] = f t.cores[c] := by
  rw [← hf s.cores[c], ← hf t.cores[c], arch_core h]

@[simp] theorem updCore_same (s : State) (c : Core) (f : CoreState → CoreState) : (s.updCore c f).cores[c] = f s.cores[c] :=
  updV_same _ _ _

@[simp] theorem updCore_same' (s : State) (c : Core) (f : CoreState → CoreState) : (s.updCore c f).cores[c.val] = f s.cores[c.val] :=
  updV_same' _ _ _

theorem updCore_other (s : State) (c d : Core) (f : CoreState → CoreState) (h : d ≠ c) : (s.updCore c f).cores[d] = s.cores[d] := by
  simp [State.updCore, updV_other _ _ _ _ h]

theorem updCore_rest (s : State) (c : Core) (f : CoreState → CoreState) : (s.updCore c f).rest = s.rest := rfl

/-- Changes of one core that agree in its architecture keep the agreement. -/
theorem updCore_arch {s t : State} (c : Core) {f g : CoreState → CoreState} (h : s.arch = t.arch)
    (hf : (f s.cores[c]).arch = (g t.cores[c]).arch) : (s.updCore c f).arch = (t.updCore c g).arch := by
  refine arch_eq_iff.2 ⟨by simpa only [updCore_rest] using arch_rest h, fun d => ?_⟩
  by_cases hd : d = c
  · subst hd; rw [updCore_same, updCore_same]; exact hf
  · rw [updCore_other _ _ _ _ hd, updCore_other _ _ _ _ hd]; exact arch_core h d

/-- A change of one core that its architecture does not show. -/
theorem updCore_drift (s : State) (c : Core) {f : CoreState → CoreState} (hf : (f s.cores[c]).arch = s.cores[c].arch) :
    (s.updCore c f).arch = s.arch := by
  have := updCore_arch (s := s) (t := s) c (f := f) (g := id) rfl hf
  rw [this]
  refine arch_eq_iff.2 ⟨rfl, fun d => ?_⟩
  by_cases hd : d = c
  · subst hd; rw [updCore_same]; rfl
  · rw [updCore_other _ _ _ _ hd]

/-! ### The trace -/

theorem trcPush_eq (s : State) (o : Option Core) (b : List Byte) : trcPush s o b = { s with trc := (trcPush s o b).trc } := by
  unfold trcPush; split <;> rfl

theorem trcUpd_eq (s : State) (c : Core) (f : TrcCore → TrcCore) : trcUpd s c f = { s with trc := (trcUpd s c f).trc } := rfl

theorem trcBrr_eq (s : State) (c : Core) : trcBrr s c = { s with trc := (trcBrr s c).trc } := by
  unfold trcBrr
  dsimp only
  split
  · rfl
  · rw [trcUpd_eq, trcPush_eq]

theorem trcSteps_eq (s : State) (c : Core) (n : Nat) : trcSteps s c n = { s with trc := (trcSteps s c n).trc } := by
  unfold trcSteps; split <;> rfl

@[simp] theorem trc_arch (s : State) (x : Trc) : ({ s with trc := x } : State).arch = s.arch := rfl

@[simp] theorem trcSteps_arch (s : State) (c : Core) (n : Nat) : (trcSteps s c n).arch = s.arch := by
  rw [trcSteps_eq]; rfl

theorem trcPush_arch (s : State) (o : Option Core) (b : List Byte) : (trcPush s o b).arch = s.arch := by
  rw [trcPush_eq]; rfl

theorem trcUpd_arch (s : State) (c : Core) (f : TrcCore → TrcCore) : (trcUpd s c f).arch = s.arch := rfl

theorem trcSetAddr_arch (s : State) (c : Core) (a : Word) : (trcSetAddr s c a).arch = s.arch := rfl

theorem trcBrr_arch (s : State) (c : Core) : (trcBrr s c).arch = s.arch := by
  rw [trcBrr_eq]; rfl

theorem trcFlush_arch (s : State) (c : Core) : (trcFlush s c).arch = s.arch := by
  unfold trcFlush
  dsimp only
  split
  · exact trcBrr_arch s c
  · rw [trcUpd_arch, trcPush_arch, trcBrr_arch]

theorem trcTime_arch (s : State) : (trcTime s).arch = s.arch := by
  unfold trcTime
  dsimp only
  rw [trc_arch, trcPush_arch]

theorem trcStamp_arch (s : State) (c : Core) : (trcStamp s c).arch = s.arch := by
  unfold trcStamp
  split
  · unfold trcStep
    dsimp only
    rw [trcUpd_arch, trcPush_arch]
  · split
    · rfl
    · exact trcTime_arch s

theorem foldl_arch {α : Type} (f : State → α → State) (hf : ∀ s a, (f s a).arch = s.arch) (l : List α) (s : State) :
    (l.foldl f s).arch = s.arch := by
  induction l generalizing s with
  | nil => rfl
  | cons a r ih => rw [List.foldl_cons, ih, hf]

theorem trcSync_arch (s : State) : (trcSync s).arch = s.arch := by
  unfold trcSync
  dsimp only
  rw [foldl_arch]
  · rw [trc_arch, trcTime_arch, trcPush_arch, foldl_arch]
    intro s c
    split
    · exact trcFlush_arch s c
    · rfl
  · intro s c
    split
    · split
      · rw [trcPush_arch, trcPush_arch]
      · rw [trcSetAddr_arch, trcPush_arch, trcPush_arch]
    · rfl

theorem trcPeriodic_arch (s : State) : (trcPeriodic s).arch = s.arch := by
  unfold trcPeriodic
  split
  · rfl
  · dsimp only
    split
    · split
      · rw [trcSync_arch, trc_arch, trcTime_arch]
      · rw [trc_arch, trcTime_arch]
    · split
      · exact trcSync_arch s
      · rfl

theorem trcGap_arch (s : State) (c : Core) (n : Nat) : (trcGap s c n).arch = s.arch := by
  unfold trcGap
  rw [trcPeriodic_arch, trcPush_arch, trcStamp_arch, trcFlush_arch]

theorem trcCtx_arch (s : State) (c : Core) (n : Nat) : (trcCtx s c n).arch = s.arch := by
  unfold trcCtx
  split
  · rw [trcPeriodic_arch, trcPush_arch, trcStamp_arch, trcFlush_arch]
  · rfl

theorem trcAddr_arch (s : State) (c : Core) (n : Nat) (x : Option Nat) (t : Word) : (trcAddr s c n x t).arch = s.arch := by
  unfold trcAddr
  split
  · rw [trcPeriodic_arch]
    rw [trcSetAddr_arch, trcPush_arch, trcStamp_arch, trcFlush_arch]
  · rfl

theorem trcOutcome_arch (s : State) (c : Core) (b : Bool) : (trcOutcome s c b).arch = s.arch := by
  unfold trcOutcome
  split
  · dsimp only
    split
    · rfl
    · split
      · split
        · rw [trcBrr_arch, trcUpd_arch, trcUpd_arch]
        · rfl
      · rw [trcPeriodic_arch, trcUpd_arch, trcPush_arch, trcBrr_arch, trcUpd_arch]
  · rfl

theorem trcState_arch (s : State) (c : Core) (o n : Word) : (trcState s c o n).arch = s.arch := by
  unfold trcState
  dsimp only
  split
  · rfl
  · split
    · rfl
    · split
      · rw [trcPush_arch, trcCtx_arch]
      · split
        · rw [trcAddr_arch, trcCtx_arch]
        · exact trcCtx_arch s c 1

/-! ### Pace -/

@[simp] theorem spend_arch (s : State) (c : Core) (a b : Nat) : (spend s c a b).arch = s.arch := by
  unfold spend
  dsimp only
  rw [updCore_drift _ _ (by rfl), trcSteps_arch]

@[simp] theorem slipAct_arch (s t : State) (c : Core) (n : Nat) : (slipAct s t c n).arch = t.arch := by
  unfold slipAct
  dsimp only
  split
  · rfl
  · rw [updCore_drift _ _ (by rfl)]

@[simp] theorem payWord_arch (s : State) (c : Core) (k : Cost) (wait ovr : Nat) : (payWord s c k wait ovr).arch = s.arch := by
  simp [payWord]

@[simp] theorem lateMark_arch (s : State) (c : Core) (ovr : Nat) : (lateMark s c ovr).arch = s.arch := by
  unfold lateMark
  split
  · rfl
  · exact updCore_drift _ _ (by rfl)

/-! ### Traffic -/

theorem ite_arch {p : Prop} [Decidable p] {a b s : State} (ha : a.arch = s.arch) (hb : b.arch = s.arch) :
    (if p then a else b).arch = s.arch := by
  split <;> assumption

theorem bwr_arch (s : State) (b : Bwr) : ({ s with bwr := b } : State).arch = s.arch := rfl

theorem updBwr_arch (s : State) (m : Master) (f : BwrM → BwrM) : (updBwr s m f).arch = s.arch := rfl

@[simp] theorem bwrCharge_arch (s : State) (m : Master) (n : Nat) : (bwrCharge s m n).arch = s.arch := rfl

theorem bwrEdge_arch (s : State) (a b : Nat) : (bwrEdge s a b).arch = s.arch := by
  unfold bwrEdge
  dsimp only
  rcases s.bwr.clr <;> rfl

@[simp] theorem bwrNow_arch (s : State) : (bwrNow s).arch = s.arch := by
  unfold bwrNow
  dsimp only
  split
  · rfl
  · split
    · exact bwrEdge_arch ..
    · rw [bwrEdge_arch, bwrEdge_arch]

@[simp] theorem tagPeak_arch (s : State) (m : Master) (n : Nat) : (tagPeak s m n).arch = s.arch := rfl

@[simp] theorem bwrServe_arch (s : State) (m : Master) (k n : Nat) : (bwrServe s m k n).arch = s.arch := by
  unfold bwrServe
  dsimp only
  rw [bwr_arch]
  exact ite_arch ((updBwr_arch ..).trans (bwrCharge_arch ..)) (bwrCharge_arch ..)

@[simp] theorem bwrTry_arch (s : State) (m : Master) (n : Nat) : (bwrTry s m n).1.arch = s.arch := by
  unfold bwrTry
  dsimp only
  split <;> simp

theorem asking_arch (s : State) (v : Vector Bool 15) : ({ s with fab := { s.fab with asking := v } } : State).arch = s.arch := rfl

@[simp] theorem bwrTake_arch (s : State) (m : Master) (n : Nat) : (bwrTake s m n).1.arch = s.arch := by
  unfold bwrTake
  rw [asking_arch, bwrTry_arch]

@[simp] theorem flashTouch_arch (s : State) (a : Nat) : (flashTouch s a).arch = s.arch := by
  unfold flashTouch; split <;> rfl

@[simp] theorem lineAsk_arch (s : State) (c : Core) (l : Nat) : (lineAsk s c l).arch = s.arch := by
  unfold lineAsk
  exact updCore_drift _ _ (by rfl)

@[simp] theorem lineArrive_arch (s : State) (c : Core) : (lineArrive s c).arch = s.arch := by
  unfold lineArrive
  split
  · rfl
  · split
    · rfl
    · dsimp only
      rw [updCore_drift _ _ (by rfl)]
      split <;> simp

@[simp] theorem lineGet_arch (s : State) (c : Core) (l : Nat) : (lineGet s c l).1.arch = s.arch := by
  unfold lineGet
  dsimp only
  split
  · rfl
  · split
    · simp
    · split
      · simp
      · split <;> simp

@[simp] theorem lineAhead_arch (s : State) (c : Core) (l : Nat) : (lineAhead s c l).arch = s.arch := by
  unfold lineAhead
  dsimp only
  split
  · rfl
  · split <;> simp

@[simp] theorem payFetch_arch (s : State) (c : Core) (n : Nat) : (payFetch s c n).arch = s.arch := by
  unfold payFetch
  exact ite_arch (updCore_drift _ _ (by rfl)) ((updCore_drift _ _ (by rfl)).trans (spend_arch ..))

@[simp] theorem fetchLine_arch (s : State) (c : Core) (delay : Nat) : (fetchLine s c delay).1.arch = s.arch := by
  unfold fetchLine
  dsimp only
  split
  · simp only [payFetch_arch]
    exact updCore_drift _ _ (by rfl)
  · split
    · simp
    · split
      · simp
      · simp only [lineAhead_arch]
        rw [updCore_drift _ _ (by rfl)]
        simp

/-! ### The ends of commands -/

theorem cueSettle_quiet {s : State} (h : quiet s = true) : cueSettle s = s := by
  simp only [quiet, Bool.and_eq_true, List.isEmpty_iff] at h
  simp [cueSettle, cueServe, poolSettle, poolServe, h.1, h.2]

theorem quiet_arch {s t : State} (h : s.arch = t.arch) : quiet s = quiet t := by
  have h1 := arch_field (fun u => u.cue) h
  have h2 := arch_field (fun u => u.pool) h
  simp [quiet, h1, h2]

end Sys2Proof.Machine
end

