-- ==== Sys2Proof/Laws/Fabric.lean ====
section
/-!
SUPPORT. When the regulator admits a transaction at once (R147, R151-R157), and what is left of that after it.
-/

namespace Sys2Proof.Machine

/-- Every master has its place in the round-robin order. -/
theorem mem_rrOrder (last : Nat) (m : Master) : m ∈ rrOrder last := by
  refine List.mem_map.2 ⟨(m.val + 14 * (last + 1)) % 15, List.mem_range.2 (Nat.mod_lt _ (by omega)), Fin.ext ?_⟩
  show (last + 1 + (m.val + 14 * (last + 1)) % 15) % 15 = m.val
  have := m.isLt
  omega

/-- A search that only m can pass finds m, or nothing. -/
theorem find_only {l : List Master} {m : Master} {f : Master → Bool} (hl : m ∈ l) (ho : ∀ n, f n = true → n = m) (hm : f m = true) :
    l.find? f = some m := by
  cases h : l.find? f with
  | none => exact absurd hm (by simpa using List.find?_eq_none.1 h m hl)
  | some n => rw [ho n (List.find?_some h)]

/-- With one request, of a master that has a free tag, the next one admitted is that master's, when the regulator is off or the master
is below its minimum (R154 steps 1 and 2). -/
theorem bwrNext_alone {s : State} {m : Master} (hw : ∀ n, bwrWaits s n = true → n = m) (hm : bwrWaits s m = true)
    (ht : tagsHeld s m < s.fab.alloc[m]) (hp : s.bwr.en = false ∨ s.bwr.m[m].charged < s.bwr.m[m].cfg.min) :
    ∃ k, bwrNext s = some (m, k) := by
  have pick (k : Fin 4) (f : Master → Bool) (h : f m = true) :
      ((rrOrder s.bwr.rr[k]).find? fun n => (bwrWaits s n && decide (tagsHeld s n < s.fab.alloc[n])) && f n) = some m :=
    find_only (mem_rrOrder _ m) (fun n hn => hw n (by simp only [Bool.and_eq_true] at hn; exact hn.1.1))
      (by simp only [hm, h, Bool.true_and, Bool.and_true]; exact decide_eq_true ht)
  unfold bwrNext
  dsimp only
  rcases hp with hp | hp
  · rw [if_pos (by simp [hp]), pick 0 (fun _ => true) rfl]
    exact ⟨0, rfl⟩
  · split
    · rw [pick 0 (fun _ => true) rfl]; exact ⟨0, rfl⟩
    · by_cases h0 : bwrStep s m = 0
      · rw [pick 0 (fun n => decide (bwrStep s n = 0)) (decide_eq_true h0)]; exact ⟨0, rfl⟩
      · have h1 : bwrStep s m = 1 := by
          revert h0
          unfold bwrStep
          dsimp only
          rw [if_pos hp]
          split <;> simp
        have hn : ((rrOrder s.bwr.rr[(0 : Fin 4)]).find? fun n =>
            (bwrWaits s n && decide (tagsHeld s n < s.fab.alloc[n])) && decide (bwrStep s n = 0)) = none := by
          rw [List.find?_eq_none]
          intro n _ h
          simp only [Bool.and_eq_true, decide_eq_true_eq] at h
          rw [hw n h.1.1] at h
          exact h0 h.2
        rw [hn]
        dsimp only [Option.map_none]
        rw [pick 1 (fun n => decide (bwrStep s n = 1)) (decide_eq_true h1)]
        exact ⟨1, rfl⟩

/-- What `admits` says. -/
theorem admits_facts {s : State} {m : Master} {tags bytes : Nat} (h : admits s m tags bytes = true) :
    s.fab.waiting = [] ∧ tagsHeld s m + tags ≤ s.fab.alloc[m] ∧
    (s.bwr.en = false ∨ (s.bwr.m[m].charged + bytes ≤ s.bwr.m[m].cfg.min ∧ (s.bwr.dirty = false ∨ bytes ≤ s.bwr.m[m].want.min))) := by
  simp only [admits, Bool.and_eq_true, List.isEmpty_iff, decide_eq_true_eq, Bool.or_eq_true, Bool.not_eq_true'] at h
  exact ⟨h.1.1, h.1.2, h.2⟩

/-- The windows that have passed leave the fabric's requests, tags and allocations, and a master that is admitted stays so. -/
theorem bwrNow_facts (s : State) (m : Master) :
    (bwrNow s).fab.waiting = s.fab.waiting ∧ (bwrNow s).fab.alloc = s.fab.alloc ∧ tagsHeld (bwrNow s) m = tagsHeld s m ∧
    (bwrNow s).bwr.en = s.bwr.en ∧
    (∀ bytes, (s.bwr.m[m].charged + bytes ≤ s.bwr.m[m].cfg.min ∧ (s.bwr.dirty = false ∨ bytes ≤ s.bwr.m[m].want.min)) →
      (bwrNow s).bwr.m[m].charged + bytes ≤ (bwrNow s).bwr.m[m].cfg.min ∧
        ((bwrNow s).bwr.dirty = false ∨ bytes ≤ (bwrNow s).bwr.m[m].want.min)) := by
  have e (s : State) (a b : Nat) : (bwrEdge s a b).fab.waiting = s.fab.waiting ∧ (bwrEdge s a b).fab.alloc = s.fab.alloc ∧
      tagsHeld (bwrEdge s a b) m = tagsHeld s m ∧ (bwrEdge s a b).bwr.en = s.bwr.en ∧
      (∀ bytes, (s.bwr.m[m].charged + bytes ≤ s.bwr.m[m].cfg.min ∧ (s.bwr.dirty = false ∨ bytes ≤ s.bwr.m[m].want.min)) →
        (bwrEdge s a b).bwr.m[m].charged + bytes ≤ (bwrEdge s a b).bwr.m[m].cfg.min ∧
          ((bwrEdge s a b).bwr.dirty = false ∨ bytes ≤ (bwrEdge s a b).bwr.m[m].want.min)) := by
    unfold bwrEdge
    refine ⟨?_, ?_, ?_, rfl, fun bytes h => ⟨?_, Or.inl rfl⟩⟩
    · dsimp only; split <;> rfl
    · dsimp only; split <;> rfl
    · unfold tagsHeld; dsimp only; split <;> rfl
    · dsimp only
      cases hc : s.bwr.clr <;> cases hd : s.bwr.dirty <;>
        simp only [Bool.false_eq_true, if_true, if_false, Fin.getElem_fin, Vector.getElem_map] <;>
        rcases h with ⟨h1, h2⟩ <;> simp only [hd, Fin.getElem_fin] at h1 h2 ⊢ <;> first | omega | (simp at h2; omega)
  unfold bwrNow
  dsimp only
  split
  · exact ⟨rfl, rfl, rfl, rfl, fun _ h => h⟩
  · split
    · exact e ..
    · obtain ⟨a1, a2, a3, a4, a5⟩ := e s (s.bwr.start + s.bwr.window) (s.bwr.num + 1)
      exact ⟨(e _ _ _).1.trans a1, (e _ _ _).2.1.trans a2, (e _ _ _).2.2.1.trans a3, (e _ _ _).2.2.2.1.trans a4,
        fun n h => (e _ _ _).2.2.2.2 n (a5 n h)⟩

/-- A transaction of a master that `admits` speaks of is admitted (R147, R152-R155). -/
theorem bwrTry_admits {s : State} {m : Master} {tags bytes n : Nat} (h : admits s m tags bytes = true) (ht : 0 < tags) (hn : 0 < n)
    (hb : n ≤ bytes) : ∃ k, bwrTry s m n = (tagPeak (bwrServe (bwrNow s) m k n) m 1, true) := by
  obtain ⟨h1, h2, h3⟩ := admits_facts h
  obtain ⟨n1, n2, n3, n4, n5⟩ := bwrNow_facts s m
  have hw : bwrWaits (bwrNow s) m = false := by simp [bwrWaits, n1, h1]
  have hx : ∀ j, bwrWaits (bwrAsk (bwrNow s) m) j = true → j = m := by
    intro j hj
    simp only [bwrWaits, bwrAsk, n1, h1, List.nil_append, List.any_cons, List.any_nil, Bool.or_false, decide_eq_true_eq] at hj
    exact hj.symm
  obtain ⟨k, hk⟩ := bwrNext_alone (s := bwrAsk (bwrNow s) m) (m := m) hx (by simp [bwrWaits, bwrAsk])
    (by show tagsHeld (bwrNow s) m < (bwrNow s).fab.alloc[m]; rw [n2, n3]; omega)
    (by
      show (bwrNow s).bwr.en = false ∨ (bwrNow s).bwr.m[m].charged < (bwrNow s).bwr.m[m].cfg.min
      rcases h3 with h3 | h3
      · exact Or.inl (n4.trans h3)
      · have := (n5 bytes h3).1
        exact Or.inr (by omega))
  refine ⟨k, ?_⟩
  have hm : bwrMay (bwrNow s) m = some k := by
    unfold bwrMay
    rw [hw, hk]
    simp
  unfold bwrTry
  dsimp only
  rw [hm]

/-- The same, and the master waits for nothing then. -/
theorem bwrTake_admits {s : State} {m : Master} {tags bytes n : Nat} (h : admits s m tags bytes = true) (ht : 0 < tags) (hn : 0 < n)
    (hb : n ≤ bytes) : (bwrTake s m n).2 = true := by
  obtain ⟨k, hk⟩ := bwrTry_admits h ht hn hb
  show (bwrTry s m n).2 = true
  rw [hk]

/-- What is left of `admits` after a transaction: fewer bytes, the same tags. -/
theorem bwrTake_admits_left {s : State} {m : Master} {tags bytes n : Nat} (h : admits s m tags bytes = true) (ht : 0 < tags) (hn : 0 < n)
    (hb : n ≤ bytes) : admits (bwrTake s m n).1 m tags (bytes - n) = true := by
  obtain ⟨k, hk⟩ := bwrTry_admits h ht hn hb
  obtain ⟨h1, h2, h3⟩ := admits_facts h
  obtain ⟨n1, n2, n3, n4, n5⟩ := bwrNow_facts s m
  have e : ∀ t : State, (bwrServe t m k n).fab = t.fab ∧ (bwrServe t m k n).cores = t.cores ∧ (bwrServe t m k n).dma = t.dma ∧
      (bwrServe t m k n).bwr.en = t.bwr.en ∧ (bwrServe t m k n).bwr.dirty = t.bwr.dirty ∧
      (bwrServe t m k n).bwr.m[m].charged = t.bwr.m[m].charged + n ∧ (bwrServe t m k n).bwr.m[m].cfg = t.bwr.m[m].cfg ∧
      (bwrServe t m k n).bwr.m[m].want = t.bwr.m[m].want := by
    intro t
    unfold bwrServe
    dsimp only
    split
    · exact ⟨rfl, rfl, rfl, rfl, rfl, by simp [updBwr, bwrCharge], by simp [updBwr, bwrCharge], by simp [updBwr, bwrCharge]⟩
    · exact ⟨rfl, rfl, rfl, rfl, rfl, by simp [updBwr, bwrCharge], by simp [updBwr, bwrCharge], by simp [updBwr, bwrCharge]⟩
  obtain ⟨e1, e2, e3, e4, e5, e6, e7, e8⟩ := e (bwrNow s)
  have ht' : tagsHeld (bwrTake s m n).1 m = tagsHeld s m := by
    rw [← n3]
    show tagsHeld (bwrTry s m n).1 m = _
    rw [hk]
    unfold tagsHeld
    show (List.countP _ (bwrServe (bwrNow s) m k n).fab.accepted + _ + _) = _
    simp only [tagPeak, e1, e2, e3]
  have hbw : (bwrTake s m n).1.bwr = (bwrServe (bwrNow s) m k n).bwr := by
    show (bwrTry s m n).1.bwr = _
    rw [hk]; rfl
  have hfab : (bwrTake s m n).1.fab.waiting = [] ∧ (bwrTake s m n).1.fab.alloc = s.fab.alloc := by
    constructor
    · show (bwrTry s m n).1.fab.waiting = []
      rw [hk]
      show (bwrServe (bwrNow s) m k n).fab.waiting = []
      rw [e1, n1, h1]
    · show (bwrTry s m n).1.fab.alloc = _
      rw [hk]
      show (bwrServe (bwrNow s) m k n).fab.alloc = _
      rw [e1, n2]
  simp only [admits, Bool.and_eq_true, List.isEmpty_iff, decide_eq_true_eq, Bool.or_eq_true, Bool.not_eq_true']
  rw [ht', hbw, hfab.1, hfab.2, e4, e5, e6, e7, e8]
  refine ⟨⟨rfl, h2⟩, ?_⟩
  rcases h3 with h3 | h3
  · exact Or.inl (n4.trans h3)
  · obtain ⟨q1, q2⟩ := n5 bytes h3
    exact Or.inr ⟨by omega, q2.imp id (fun q => by omega)⟩

end Sys2Proof.Machine
end

