-- ==== Sys2Proof/Laws/Memory.lean ====
section
/-!
SUPPORT. The laws of memory: the canonical form, that every operation on memory keeps it, and what a byte reads as after each.
-/

namespace Sys2Proof.Machine

/-- The canonical form, entry by entry. -/
theorem memWf_iff (m : List Host.Cell) :
    memWf m = true ↔ (∀ c ∈ m, c.2 ≠ unlisted c.1) ∧ m.Pairwise (fun x y => x.1 < y.1) := by
  induction m with
  | nil => simp [memWf]
  | cons c r ih =>
    obtain ⟨a, b⟩ := c
    cases r with
    | nil => simp [memWf]
    | cons c' r =>
      obtain ⟨a', b'⟩ := c'
      simp only [memWf, Bool.and_eq_true, bne_iff_ne, ne_eq, decide_eq_true_eq, ih]
      constructor
      · rintro ⟨⟨h1, h2⟩, h3, h4⟩
        refine ⟨fun c hc => ?_, List.pairwise_cons.2 ⟨fun y hy => ?_, h4⟩⟩
        · rcases List.mem_cons.1 hc with rfl | hc
          · exact h1
          · exact h3 c hc
        · rcases List.mem_cons.1 hy with rfl | hy
          · exact h2
          · exact Nat.lt_trans h2 ((List.pairwise_cons.1 h4).1 y hy)
      · rintro ⟨h1, h2⟩
        obtain ⟨h3, h4⟩ := List.pairwise_cons.1 h2
        exact ⟨⟨h1 _ List.mem_cons_self, h3 _ List.mem_cons_self⟩, fun c hc => h1 c (List.mem_cons_of_mem _ hc), h4⟩

/-- The entries of memory after one byte is written: the others, and the new one unless it is what an unlisted address reads as. -/
theorem memSet_mem {m : List Host.Cell} {a : Nat} {b : Byte} {c : Host.Cell} (h : c ∈ memSet m a b) :
    (c ∈ m ∧ c.1 ≠ a) ∨ (c = (a, b) ∧ b ≠ unlisted a) ∨ (c ∈ m ∧ ¬m.Pairwise (fun x y => x.1 < y.1)) := by
  induction m with
  | nil =>
    simp only [memSet] at h
    split at h
    · simp at h
    · next hb => exact .inr (.inl ⟨by simpa using h, hb⟩)
  | cons d r ih =>
    obtain ⟨k, x⟩ := d
    by_cases hp : ((k, x) :: r).Pairwise (fun x y => x.1 < y.1)
    · obtain ⟨hk, hr⟩ := List.pairwise_cons.1 hp
      have later : ∀ {c : Host.Cell}, c ∈ r → k < c.1 := fun hc => hk _ hc
      simp only [memSet] at h
      split at h
      · next e =>
        split at h
        · have := later h; exact .inl ⟨List.mem_cons_of_mem _ h, by omega⟩
        · next hb =>
          rcases List.mem_cons.1 h with rfl | h
          · exact .inr (.inl ⟨rfl, hb⟩)
          · have := later h; exact .inl ⟨List.mem_cons_of_mem _ h, by omega⟩
      · next e =>
        split at h
        · next hl =>
          have old : ∀ {c : Host.Cell}, c ∈ (k, x) :: r → c.1 ≠ a := by
            intro c hc
            rcases List.mem_cons.1 hc with rfl | hc
            · exact e
            · have := later hc; omega
          split at h
          · exact .inl ⟨h, old h⟩
          · next hb =>
            rcases List.mem_cons.1 h with rfl | h
            · exact .inr (.inl ⟨rfl, hb⟩)
            · exact .inl ⟨h, old h⟩
        · rcases List.mem_cons.1 h with rfl | h
          · exact .inl ⟨List.mem_cons_self, e⟩
          · rcases ih h with ⟨h1, h2⟩ | h1 | ⟨_, h2⟩
            · exact .inl ⟨List.mem_cons_of_mem _ h1, h2⟩
            · exact .inr (.inl h1)
            · exact absurd hr h2
    · simp only [memSet] at h
      split at h
      · split at h
        · exact .inr (.inr ⟨List.mem_cons_of_mem _ h, hp⟩)
        · next hb =>
          rcases List.mem_cons.1 h with rfl | h
          · exact .inr (.inl ⟨rfl, hb⟩)
          · exact .inr (.inr ⟨List.mem_cons_of_mem _ h, hp⟩)
      · split at h
        · split at h
          · exact .inr (.inr ⟨h, hp⟩)
          · next hb =>
            rcases List.mem_cons.1 h with rfl | h
            · exact .inr (.inl ⟨rfl, hb⟩)
            · exact .inr (.inr ⟨h, hp⟩)
        · rcases List.mem_cons.1 h with rfl | h
          · exact .inr (.inr ⟨List.mem_cons_self, hp⟩)
          · rcases ih h with ⟨h1, _⟩ | h1 | ⟨h1, _⟩
            · exact .inr (.inr ⟨List.mem_cons_of_mem _ h1, hp⟩)
            · exact .inr (.inl h1)
            · exact .inr (.inr ⟨List.mem_cons_of_mem _ h1, hp⟩)

/-- Writing one byte keeps the canonical form. -/
theorem memSet_wf {m : List Host.Cell} (a : Nat) (b : Byte) (h : memWf m = true) : memWf (memSet m a b) = true := by
  rw [memWf_iff] at h ⊢
  obtain ⟨h1, h2⟩ := h
  refine ⟨fun c hc => ?_, ?_⟩
  · rcases memSet_mem hc with ⟨hm, _⟩ | ⟨rfl, hb⟩ | ⟨_, hn⟩
    · exact h1 c hm
    · exact hb
    · exact absurd h2 hn
  · clear h1
    induction m with
    | nil => simp only [memSet]; split <;> simp
    | cons d r ih =>
      obtain ⟨k, x⟩ := d
      obtain ⟨hk, hr⟩ := List.pairwise_cons.1 h2
      simp only [memSet]
      split
      · next e =>
        split
        · exact hr
        · exact List.pairwise_cons.2 ⟨fun y hy => by have := hk y hy; simp only at this ⊢; omega, hr⟩
      · split
        · next hl =>
          split
          · exact h2
          · refine List.pairwise_cons.2 ⟨fun y hy => ?_, h2⟩
            rcases List.mem_cons.1 hy with rfl | hy
            · exact hl
            · have := hk y hy; simp only at this ⊢; omega
        · next e hl =>
          refine List.pairwise_cons.2 ⟨fun y hy => ?_, ih hr⟩
          rcases memSet_mem hy with ⟨hm, _⟩ | ⟨rfl, _⟩ | ⟨_, hn⟩
          · exact hk y hm
          · simp only; omega
          · exact absurd hr hn

/-- Writing bytes keeps the canonical form. -/
theorem memPut_wf {m : List Host.Cell} (a : Nat) (bs : List Byte) (h : memWf m = true) : memWf (memPut m a bs) = true := by
  induction bs generalizing m a with
  | nil => exact h
  | cons b r ih => exact ih _ (memSet_wf a b h)

/-- Dropping entries keeps the canonical form. -/
theorem memFilter_wf {m : List Host.Cell} (p : Host.Cell → Bool) (h : memWf m = true) : memWf (m.filter p) = true := by
  rw [memWf_iff] at h ⊢
  exact ⟨fun c hc => h.1 c (List.mem_filter.1 hc).1, h.2.filter _⟩

/-- Setting a range back keeps the canonical form. -/
theorem memClear_wf {m : List Host.Cell} (lo hi : Nat) (h : memWf m = true) : memWf (memClear m lo hi) = true := memFilter_wf _ h

theorem put_wf {s : State} (a : Nat) (bs : List Byte) (h : memWf s.mem = true) : memWf (s.put a bs).mem = true := memPut_wf a bs h

theorem wipe_wf {s : State} (lo hi : Nat) (h : memWf s.mem = true) : memWf (s.wipe lo hi).mem = true := memClear_wf lo hi h

theorem reset_mem_wf : memWf State.reset.mem = true := rfl

/-! ### What a byte reads as -/

/-- The byte just written is read. -/
theorem memGet_memSet_same (m : List Host.Cell) (a : Nat) (b : Byte) (h : memWf m = true) : memGet (memSet m a b) a = b := by
  have hw := ((memWf_iff m).1 h).2
  clear h
  induction m with
  | nil => simp only [memSet]; split <;> simp_all [memGet]
  | cons d r ih =>
    obtain ⟨k, x⟩ := d
    obtain ⟨hk, hr⟩ := List.pairwise_cons.1 hw
    have above : ∀ {l : List Host.Cell}, (∀ y ∈ l, a < y.1) → memGet l a = unlisted a := by
      intro l hl
      cases l with
      | nil => rfl
      | cons y l =>
        obtain ⟨q, z⟩ := y
        have := hl _ List.mem_cons_self
        simp only [memGet] at this ⊢
        rw [if_neg (by omega), if_pos this]
    simp only [memSet]
    split
    · next e =>
      split
      · next hb => rw [hb]; exact above fun y hy => by have := hk y hy; simp only at this; omega
      · simp [memGet]
    · split
      · next hl =>
        split
        · next hb => simp_all [memGet]
        · simp [memGet]
      · next e hl => simp only [memGet]; rw [if_neg e, if_neg hl]; exact ih hr

/-- Every other byte reads as before. -/
theorem memGet_memSet_other (m : List Host.Cell) (a b : Nat) (x : Byte) (hb : b ≠ a) (h : memWf m = true) :
    memGet (memSet m a x) b = memGet m b := by
  have hw := ((memWf_iff m).1 h).2
  clear h
  induction m with
  | nil =>
    simp only [memSet]
    split
    · rfl
    · simp only [memGet]; rw [if_neg (fun e => hb e.symm)]; split <;> rfl
  | cons d r ih =>
    obtain ⟨k, y⟩ := d
    obtain ⟨hk, hr⟩ := List.pairwise_cons.1 hw
    have above : ∀ {l : List Host.Cell}, (∀ z ∈ l, b < z.1) → memGet l b = unlisted b := by
      intro l hl
      cases l with
      | nil => rfl
      | cons z l =>
        obtain ⟨q, w⟩ := z
        have := hl _ List.mem_cons_self
        simp only [memGet] at this ⊢
        rw [if_neg (by omega), if_pos this]
    simp only [memSet]
    split
    · next e =>
      subst e
      split
      · simp only [memGet]
        rw [if_neg (fun e => hb e.symm)]
        split
        · next hl => exact above fun z hz => by have := hk z hz; simp only at this; omega
        · rfl
      · have e : ¬k = b := fun e => hb e.symm
        simp only [memGet]; rw [if_neg e, if_neg e]
    · split
      · next e hl =>
        split
        · rfl
        · simp only [memGet]
          rw [if_neg (fun e => hb e.symm)]
          split
          · rw [if_neg (by omega), if_pos (by omega)]
          · rfl
      · simp only [memGet]; rw [ih hr]

/-- A byte outside the bytes written reads as before. -/
theorem memGet_memPut_other (m : List Host.Cell) (a b : Nat) (bs : List Byte) (hb : b < a ∨ a + bs.length ≤ b) (h : memWf m = true) :
    memGet (memPut m a bs) b = memGet m b := by
  induction bs generalizing m a with
  | nil => rfl
  | cons x r ih =>
    simp only [List.length_cons] at hb
    rw [memPut, ih _ _ (by omega) (memSet_wf a x h), memGet_memSet_other _ _ _ _ (by omega) h]

/-- The i-th of the bytes written is read at the i-th address. -/
theorem memGet_memPut_at (m : List Host.Cell) (a i : Nat) (bs : List Byte) (hi : i < bs.length) (h : memWf m = true) :
    memGet (memPut m a bs) (a + i) = bs[i] := by
  induction bs generalizing m a i with
  | nil => simp at hi
  | cons x r ih =>
    rw [memPut]
    cases i with
    | zero =>
      rw [memGet_memPut_other _ _ _ _ (by omega) (memSet_wf a x h)]
      exact memGet_memSet_same m a x h
    | succ i =>
      have := ih (memSet m a x) (a + 1) i (by simpa using hi) (memSet_wf a x h)
      rw [show a + (i + 1) = a + 1 + i by omega, this]
      rfl

/-- Bytes written are read back. -/
theorem memBytes_memPut (m : List Host.Cell) (a : Nat) (bs : List Byte) (h : memWf m = true) :
    memBytes (memPut m a bs) a bs.length = bs := by
  apply List.ext_getElem
  · simp [memBytes]
  · intro i h1 h2
    simp only [memBytes, List.getElem_map, List.getElem_range]
    exact memGet_memPut_at m a i bs h2 h

/-- A byte of a range set back reads as if unlisted, every other as before. -/
theorem memGet_memClear (m : List Host.Cell) (lo hi b : Nat) (h : memWf m = true) :
    memGet (memClear m lo hi) b = if lo ≤ b ∧ b < hi then unlisted b else memGet m b := by
  have hw := ((memWf_iff m).1 h).2
  clear h
  unfold memClear
  induction m with
  | nil => simp [memGet]
  | cons d r ih =>
    obtain ⟨k, y⟩ := d
    obtain ⟨hk, hr⟩ := List.pairwise_cons.1 hw
    have ih := ih hr
    have above : ∀ {l : List Host.Cell}, (∀ z ∈ l, b < z.1) → memGet l b = unlisted b := by
      intro l hl
      cases l with
      | nil => rfl
      | cons z l =>
        obtain ⟨q, w⟩ := z
        have := hl _ List.mem_cons_self
        simp only [memGet] at this ⊢
        rw [if_neg (by omega), if_pos this]
    by_cases hc : k < lo ∨ hi ≤ k
    · rw [List.filter_cons_of_pos (by simpa using hc)]
      simp only [memGet]
      by_cases e : k = b
      · subst e; rw [if_pos rfl, if_pos rfl, if_neg (by omega)]
      · rw [if_neg e, if_neg e]
        by_cases hl : b < k
        · rw [if_pos hl, if_pos hl]; split <;> rfl
        · rw [if_neg hl, if_neg hl]; exact ih
    · rw [List.filter_cons_of_neg (by simpa using hc)]
      rw [ih]
      split
      · rfl
      · next hb =>
        have hkb : k ≠ b := fun e => hb (by omega)
        simp only [memGet]
        rw [if_neg hkb]
        split
        · next hl => exact above fun z hz => by have := hk z hz; simp only at this; omega
        · rfl

/-- Memories in the canonical form that read alike are equal. -/
theorem mem_ext {m n : List Host.Cell} (hm : memWf m = true) (hn : memWf n = true) (h : ∀ a, memGet m a = memGet n a) : m = n := by
  rw [memWf_iff] at hm hn
  obtain ⟨m1, m2⟩ := hm
  obtain ⟨n1, n2⟩ := hn
  have above : ∀ {l : List Host.Cell} {b : Nat}, (∀ z ∈ l, b < z.1) → memGet l b = unlisted b := by
    intro l b hl
    cases l with
    | nil => rfl
    | cons z l =>
      obtain ⟨q, w⟩ := z
      have := hl _ List.mem_cons_self
      simp only [memGet] at this ⊢
      rw [if_neg (by omega), if_pos this]
  have head : ∀ {k : Nat} {x : Byte} {r : List Host.Cell}, memGet ((k, x) :: r) k = x := by intros; simp [memGet]
  induction m generalizing n with
  | nil =>
    cases n with
    | nil => rfl
    | cons d r =>
      obtain ⟨k, x⟩ := d
      have := h k
      rw [head] at this
      exact absurd this.symm (n1 _ List.mem_cons_self)
  | cons c r ih =>
    obtain ⟨k, x⟩ := c
    obtain ⟨mk, mr⟩ := List.pairwise_cons.1 m2
    cases n with
    | nil =>
      have := h k
      rw [head] at this
      exact absurd this (m1 _ List.mem_cons_self)
    | cons d q =>
      obtain ⟨j, y⟩ := d
      obtain ⟨nj, nr⟩ := List.pairwise_cons.1 n2
      have e : k = j := by
        rcases Nat.lt_trichotomy k j with hl | e | hl
        · have := h k
          rw [head, above (l := (j, y) :: q) (by
            intro z hz
            rcases List.mem_cons.1 hz with rfl | hz
            · exact hl
            · exact Nat.lt_trans hl (nj z hz))] at this
          exact absurd this (m1 _ List.mem_cons_self)
        · exact e
        · have := h j
          rw [head, above (l := (k, x) :: r) (by
            intro z hz
            rcases List.mem_cons.1 hz with rfl | hz
            · exact hl
            · exact Nat.lt_trans hl (mk z hz))] at this
          exact absurd this.symm (n1 _ List.mem_cons_self)
      subst e
      have hx : x = y := by have := h k; rwa [head, head] at this
      subst hx
      have tails : ∀ a, memGet r a = memGet q a := by
        intro a
        have := h a
        simp only [memGet] at this
        by_cases e : k = a
        · subst e; rw [above mk, above nj]
        · rw [if_neg e, if_neg e] at this
          by_cases hl : a < k
          · rw [above fun z hz => Nat.lt_trans hl (mk z hz), above fun z hz => Nat.lt_trans hl (nj z hz)]
          · rwa [if_neg hl, if_neg hl] at this
      have : r = q := by
        refine ih tails ?_ mr ?_ nr
        · exact fun c hc => m1 c (List.mem_cons_of_mem _ hc)
        · exact fun c hc => n1 c (List.mem_cons_of_mem _ hc)
      rw [this]

end Sys2Proof.Machine
end

