-- ==== Sys2Proof/Laws/Ops.lean ====
section
/-!
SUPPORT. What each shared operation over records, memory, registers and event-status registers can do.
-/

namespace Sys2Proof.Machine

/-! ### Records -/

/-- A record changes nothing but the collector. -/
theorem ecBuild_eq (s : State) (src : BitVec 8) (cls : BitVec 2) (m : BitVec 4) (sec : Bool) (ans : BitVec 3) (a d : Word) :
    ecBuild s src cls m sec ans a d = { s with ec := (ecBuild s src cls m sec ans a d).ec } := by
  unfold ecBuild; dsimp only; split <;> rfl

theorem ecBus_eq (s : State) (w : Who) (ans : Nat) (a : Word) (d : Nat) :
    ecBus s w ans a d = { s with ec := (ecBus s w ans a d).ec } := by
  unfold ecBus; split <;> exact ecBuild_eq ..

theorem ecPoison_eq (s : State) (w : Who) (p : Nat) : ecPoison s w p = { s with ec := (ecPoison s w p).ec } := by
  unfold ecPoison; dsimp only; split <;> exact ecBuild_eq ..

theorem ecCorrect_eq (s : State) (w : Who) (p : Nat) (b : Bool) :
    ecCorrect s w p b = { s with ec := (ecCorrect s w p b).ec, sec := (ecCorrect s w p b).sec } := by
  have key : ∀ (x : State), (∃ e, x = { s with ec := e }) → x = { s with ec := x.ec, sec := x.sec } := by
    rintro x ⟨e, rfl⟩; rfl
  unfold ecCorrect
  dsimp only
  split
  · exact key _ ⟨_, ecBuild_eq ..⟩
  · split
    · rw [ecBuild_eq]
    · exact key _ ⟨_, ecBuild_eq ..⟩

theorem memFail_eq (s : State) (w : Who) (ans a d : Nat) : memFail s w ans a d = { s with ec := (memFail s w ans a d).ec } := by
  unfold memFail
  dsimp only
  split
  · rw [ecPoison_eq, ecBus_eq]
  · exact ecBus_eq ..

/-- A reserved encoding changes nothing but the system block. -/
theorem rsvdEnc_eq (s : State) (m : Master) (a : Word) : rsvdEnc s m a = { s with sys := (rsvdEnc s m a).sys } := rfl

/-! ### Memory accesses -/

/-- A read answers what its target answers, with the bytes when that is OK, and changes nothing but records and the words with a single
error. -/
theorem memRead_spec (s : State) (w : Who) (a n : Nat) :
    (memRead s w a n).2.1 = memAnswer s w .read a n ∧
    (memAnswer s w .read a n = 0 → (memRead s w a n).2.2 = natW (ofLe (memBytes s.mem (physAddr w.p.m a) n))) ∧
    (memRead s w a n).1 = { s with ec := (memRead s w a n).1.ec, sec := (memRead s w a n).1.sec } := by
  unfold memRead
  dsimp only
  split
  · next h =>
    refine ⟨rfl, fun e => absurd e h, ?_⟩
    dsimp only
    rw [memFail_eq]
  · next h =>
    have h0 : memAnswer s w .read a n = 0 := Decidable.not_not.1 h
    refine ⟨h0.symm, fun _ => ?_, ?_⟩
    · dsimp only; split
      · rw [ecCorrect_eq]
      · rfl
    · dsimp only; split
      · rw [ecCorrect_eq]
      · rfl

/-- A write answers what its target answers; when that is OK it has put its bytes and nothing else into memory, otherwise memory is as
before. -/
theorem memWrite_spec (s : State) (w : Who) (a n : Nat) (v : Word) (d : Nat) :
    (memWrite s w a n v d).2 = memAnswer s w .write a n ∧
    (memWrite s w a n v d).1.mem =
      (if memAnswer s w .write a n = 0 then memPut s.mem (physAddr w.p.m a) (leBytes n v.toNat) else s.mem) := by
  unfold memWrite
  dsimp only
  split
  · next h =>
    refine ⟨rfl, ?_⟩
    show (memFail s w _ a d).mem = _
    rw [memFail_eq]
  · next h =>
    have h0 : memAnswer s w .write a n = 0 := Decidable.not_not.1 h
    refine ⟨h0.symm, ?_⟩
    rw [if_pos h0]
    dsimp only [State.put]
    split
    · rfl
    · split
      · rw [ecCorrect_eq]
      · rfl

theorem memRead_wf {s : State} (w : Who) (a n : Nat) (h : memWf s.mem = true) : memWf (memRead s w a n).1.mem = true := by
  rw [(memRead_spec s w a n).2.2]; exact h

theorem memWrite_wf {s : State} (w : Who) (a n : Nat) (v : Word) (d : Nat) (h : memWf s.mem = true) :
    memWf (memWrite s w a n v d).1.mem = true := by
  rw [(memWrite_spec s w a n v d).2]
  split
  · exact memPut_wf _ _ h
  · exact h

theorem unitWrite_wf {s : State} (w : Who) (a : Nat) (l : List Word) (h : memWf s.mem = true) :
    memWf (unitWrite s w a l).1.mem = true := by
  induction l generalizing s a with
  | nil => exact h
  | cons v r ih =>
    unfold unitWrite
    dsimp only
    split
    · exact ih _ (memWrite_wf w a 4 v 0 h)
    · exact memWrite_wf w a 4 v 0 h

/-- A write leaves every byte outside those it puts. -/
theorem memWrite_other {s : State} (w : Who) (a n : Nat) (v : Word) (d b : Nat) (hw : memWf s.mem = true)
    (h : b < physAddr w.p.m a ∨ physAddr w.p.m a + n ≤ b) : (memWrite s w a n v d).1.byte b = s.byte b := by
  unfold State.byte
  rw [(memWrite_spec s w a n v d).2]
  split
  · exact memGet_memPut_other _ _ _ _ (by simpa [leBytes] using h) hw
  · rfl

/-! ### General registers -/

/-- g0 reads 0 whatever is written. -/
@[simp] theorem reg_zero (k : CoreState) : k.reg 0 = 0 := rfl

@[simp] theorem setReg_zero (k : CoreState) (v : Word) : k.setReg 0 v = k := rfl

@[simp] theorem reg_setReg_same (k : CoreState) (r : Reg) (v : Word) (h : r ≠ 0) : (k.setReg r v).reg r = v := by
  unfold CoreState.reg CoreState.setReg
  rw [if_neg h, if_neg h]
  exact Vector.getElem_set_self _

theorem reg_setReg_other (k : CoreState) (r q : Reg) (v : Word) (h : q ≠ r) : (k.setReg r v).reg q = k.reg q := by
  have e : r.toNat ≠ q.toNat := fun e => h (BitVec.eq_of_toNat_eq e.symm)
  unfold CoreState.reg
  split
  · rfl
  · unfold CoreState.setReg
    split
    · rfl
    · exact Vector.getElem_set_ne r.isLt q.isLt e

/-- Writing a general register changes no other part of the core. -/
theorem setReg_eq (k : CoreState) (r : Reg) (v : Word) : k.setReg r v = { k with g := (k.setReg r v).g } := by
  unfold CoreState.setReg; split <;> rfl

/-! ### Event-status registers -/

/-- A hardware set makes its bit 1 and keeps the others, MISS and what masters have read. -/
theorem raise_eq (q : Sqc) (b : Nat) : q.raise b = { q with bits := q.bits ||| BitVec.ofNat 27 (2 ^ b), count := q.count + 1 } := rfl

/-- After a set no master's earlier read lets its clear take effect. -/
theorem raise_blocks (q : Sqc) (b : Nat) (m : Master) (w : Word) (h : ∀ n, q.seen[m] = some n → n ≤ q.count) :
    (q.raise b).clearOk m w = false := by
  unfold Sqc.clearOk Sqc.raise
  have : q.seen[m] ≠ some (q.count + 1) := fun e => by have := h _ e; omega
  simp [-Fin.getElem_fin, this]

/-- A clear that does not take effect sets MISS and nothing else. -/
theorem clear_missed (q : Sqc) (m : Master) (w : Word) (h : q.clearOk m w = false) : q.clear m w = { q with miss := true } := by
  unfold Sqc.clear; simp [h]

/-- A clear that takes effect clears the bits written as 1, and MISS. -/
theorem clear_done (q : Sqc) (m : Master) (w : Word) (h : q.clearOk m w = true) :
    q.clear m w = { q with bits := q.bits &&& ~~~(w.extractLsb' 0 27), miss := false } := by
  unfold Sqc.clear; simp [h]

end Sys2Proof.Machine
end

