-- ==== Sys2Proof/Laws/Otp.lean ====
section
/-!
SUPPORT. OTP codewords, and what the pulses of a program and of a reinforcement that succeed at once end with.
-/

namespace Sys2Proof.Machine

/-- The data bits of a codeword are the data. -/
theorem otpCode_data (d : Word) : (otpCode d).setWidth 32 = d := by
  unfold otpCode
  split
  · next h => subst h; rfl
  · ext i hi
    have : (otpCheck d ++ d).getLsbD i = if i < 32 then d.getLsbD i else (otpCheck d).getLsbD (i - 32) :=
      BitVec.getLsbD_append
    simp only [BitVec.getElem_setWidth]
    rw [if_pos hi] at this
    exact this

/-- A codeword reads as its data. -/
theorem otpDecode_code (d : Word) : otpDecode (otpCode d) = .clean d := by
  unfold otpDecode
  simp [otpCode_data]

theorem otpCode_ne (d : Word) (h : d ≠ 0) : otpCode d ≠ 0 := fun e => h (by rw [← otpCode_data d, e]; rfl)

/-- A blank word whose first pulse reads right at both margins passes with one try. -/
theorem otpProgram_once (w : Nat) (d : Word) :
    otpProgram ⟨w, 0, 0, 0⟩ d [⟨otpCode d, otpCode d⟩] = some (⟨w, otpCode d, otpCode d, otpCode d⟩, 0, 1) := by
  simp [otpProgram, otpEnded, progTries, otpTries, progMask, progVerify, otpPulse]

/-- A worn word whose first pulse reads right at both margins passes with one try. -/
theorem otpReinforce_once (w : Nat) (d : Word) (h : d ≠ 0) :
    otpReinforce ⟨w, otpCode d, 0, otpCode d⟩ [⟨otpCode d, otpCode d⟩] = some (⟨w, otpCode d, otpCode d, otpCode d⟩, 0, 1) := by
  have hc : ¬otpCode d = 0#39 := otpCode_ne d h
  simp [otpReinforce, reinBarred, otpEnded, reinTries, otpTries, reinMask, reinVerify, otpPulse, otpDecode_code, hc]

end Sys2Proof.Machine
end

