-- ==== Sys2Proof/Laws/State.lean ====
section
/-!
SUPPORT. Each field of State after each update of it: the field that the update changes, and all the others as before.
-/

namespace Sys2Proof.Machine

variable (s : State)

/-! ### put -/

section
variable (a : Nat) (bs : List Byte)

@[simp] theorem put_pending : (s.put a bs).pending = s.pending := rfl
@[simp] theorem put_variant : (s.put a bs).variant = s.variant := rfl
@[simp] theorem put_tb : (s.put a bs).tb = s.tb := rfl
@[simp] theorem put_mem : (s.put a bs).mem = memPut s.mem a bs := rfl
@[simp] theorem put_sec : (s.put a bs).sec = s.sec := rfl
@[simp] theorem put_ded : (s.put a bs).ded = s.ded := rfl
@[simp] theorem put_poison : (s.put a bs).poison = s.poison := rfl
@[simp] theorem put_sys : (s.put a bs).sys = s.sys := rfl
@[simp] theorem put_ec : (s.put a bs).ec = s.ec := rfl
@[simp] theorem put_pwr : (s.put a bs).pwr = s.pwr := rfl
@[simp] theorem put_lv : (s.put a bs).lv = s.lv := rfl
@[simp] theorem put_pool : (s.put a bs).pool = s.pool := rfl
@[simp] theorem put_cue : (s.put a bs).cue = s.cue := rfl
@[simp] theorem put_cores : (s.put a bs).cores = s.cores := rfl
@[simp] theorem put_fab : (s.put a bs).fab = s.fab := rfl
@[simp] theorem put_prompter : (s.put a bs).prompter = s.prompter := rfl
@[simp] theorem put_bwr : (s.put a bs).bwr = s.bwr := rfl
@[simp] theorem put_dma : (s.put a bs).dma = s.dma := rfl
@[simp] theorem put_trc : (s.put a bs).trc = s.trc := rfl
@[simp] theorem put_dbg : (s.put a bs).dbg = s.dbg := rfl
@[simp] theorem put_wd : (s.put a bs).wd = s.wd := rfl
@[simp] theorem put_time : (s.put a bs).time = s.time := rfl
@[simp] theorem put_adc : (s.put a bs).adc = s.adc := rfl
@[simp] theorem put_spd : (s.put a bs).spd = s.spd := rfl
@[simp] theorem put_lane : (s.put a bs).lane = s.lane := rfl
@[simp] theorem put_laneBlk : (s.put a bs).laneBlk = s.laneBlk := rfl
@[simp] theorem put_stat : (s.put a bs).stat = s.stat := rfl
@[simp] theorem put_part : (s.put a bs).part = s.part := rfl
@[simp] theorem put_cec : (s.put a bs).cec = s.cec := rfl
@[simp] theorem put_ir : (s.put a bs).ir = s.ir := rfl
@[simp] theorem put_irWake : (s.put a bs).irWake = s.irWake := rfl
@[simp] theorem put_irWakeN : (s.put a bs).irWakeN = s.irWakeN := rfl
@[simp] theorem put_kpd : (s.put a bs).kpd = s.kpd := rfl
@[simp] theorem put_uart : (s.put a bs).uart = s.uart := rfl
@[simp] theorem put_i2c : (s.put a bs).i2c = s.i2c := rfl
@[simp] theorem put_gpio : (s.put a bs).gpio = s.gpio := rfl
@[simp] theorem put_cry : (s.put a bs).cry = s.cry := rfl
@[simp] theorem put_key : (s.put a bs).key = s.key := rfl
@[simp] theorem put_otp : (s.put a bs).otp = s.otp := rfl
@[simp] theorem put_flc : (s.put a bs).flc = s.flc := rfl
@[simp] theorem put_install : (s.put a bs).install = s.install := rfl
@[simp] theorem put_sets : (s.put a bs).sets = s.sets := rfl
@[simp] theorem put_link : (s.put a bs).link = s.link := rfl
@[simp] theorem put_elv : (s.put a bs).elv = s.elv := rfl
@[simp] theorem put_boot : (s.put a bs).boot = s.boot := rfl
@[simp] theorem put_last : (s.put a bs).last = s.last := rfl
@[simp] theorem put_fatal : (s.put a bs).fatal = s.fatal := rfl

end

/-! ### wipe -/

section
variable (lo hi : Nat)

@[simp] theorem wipe_pending : (s.wipe lo hi).pending = s.pending := rfl
@[simp] theorem wipe_variant : (s.wipe lo hi).variant = s.variant := rfl
@[simp] theorem wipe_tb : (s.wipe lo hi).tb = s.tb := rfl
@[simp] theorem wipe_mem : (s.wipe lo hi).mem = memClear s.mem lo hi := rfl
@[simp] theorem wipe_sec : (s.wipe lo hi).sec = s.sec.filter fun a => a < lo || hi ≤ a := rfl
@[simp] theorem wipe_ded : (s.wipe lo hi).ded = s.ded.filter fun a => a < lo || hi ≤ a := rfl
@[simp] theorem wipe_poison : (s.wipe lo hi).poison = s.poison.filter fun a => a < lo || hi ≤ a := rfl
@[simp] theorem wipe_sys : (s.wipe lo hi).sys = s.sys := rfl
@[simp] theorem wipe_ec : (s.wipe lo hi).ec = s.ec := rfl
@[simp] theorem wipe_pwr : (s.wipe lo hi).pwr = s.pwr := rfl
@[simp] theorem wipe_lv : (s.wipe lo hi).lv = s.lv := rfl
@[simp] theorem wipe_pool : (s.wipe lo hi).pool = s.pool := rfl
@[simp] theorem wipe_cue : (s.wipe lo hi).cue = s.cue := rfl
@[simp] theorem wipe_cores : (s.wipe lo hi).cores = s.cores := rfl
@[simp] theorem wipe_fab : (s.wipe lo hi).fab = s.fab := rfl
@[simp] theorem wipe_prompter : (s.wipe lo hi).prompter = s.prompter := rfl
@[simp] theorem wipe_bwr : (s.wipe lo hi).bwr = s.bwr := rfl
@[simp] theorem wipe_dma : (s.wipe lo hi).dma = s.dma := rfl
@[simp] theorem wipe_trc : (s.wipe lo hi).trc = s.trc := rfl
@[simp] theorem wipe_dbg : (s.wipe lo hi).dbg = s.dbg := rfl
@[simp] theorem wipe_wd : (s.wipe lo hi).wd = s.wd := rfl
@[simp] theorem wipe_time : (s.wipe lo hi).time = s.time := rfl
@[simp] theorem wipe_adc : (s.wipe lo hi).adc = s.adc := rfl
@[simp] theorem wipe_spd : (s.wipe lo hi).spd = s.spd := rfl
@[simp] theorem wipe_lane : (s.wipe lo hi).lane = s.lane := rfl
@[simp] theorem wipe_laneBlk : (s.wipe lo hi).laneBlk = s.laneBlk := rfl
@[simp] theorem wipe_stat : (s.wipe lo hi).stat = s.stat := rfl
@[simp] theorem wipe_part : (s.wipe lo hi).part = s.part := rfl
@[simp] theorem wipe_cec : (s.wipe lo hi).cec = s.cec := rfl
@[simp] theorem wipe_ir : (s.wipe lo hi).ir = s.ir := rfl
@[simp] theorem wipe_irWake : (s.wipe lo hi).irWake = s.irWake := rfl
@[simp] theorem wipe_irWakeN : (s.wipe lo hi).irWakeN = s.irWakeN := rfl
@[simp] theorem wipe_kpd : (s.wipe lo hi).kpd = s.kpd := rfl
@[simp] theorem wipe_uart : (s.wipe lo hi).uart = s.uart := rfl
@[simp] theorem wipe_i2c : (s.wipe lo hi).i2c = s.i2c := rfl
@[simp] theorem wipe_gpio : (s.wipe lo hi).gpio = s.gpio := rfl
@[simp] theorem wipe_cry : (s.wipe lo hi).cry = s.cry := rfl
@[simp] theorem wipe_key : (s.wipe lo hi).key = s.key := rfl
@[simp] theorem wipe_otp : (s.wipe lo hi).otp = s.otp := rfl
@[simp] theorem wipe_flc : (s.wipe lo hi).flc = s.flc := rfl
@[simp] theorem wipe_install : (s.wipe lo hi).install = s.install := rfl
@[simp] theorem wipe_sets : (s.wipe lo hi).sets = s.sets := rfl
@[simp] theorem wipe_link : (s.wipe lo hi).link = s.link := rfl
@[simp] theorem wipe_elv : (s.wipe lo hi).elv = s.elv := rfl
@[simp] theorem wipe_boot : (s.wipe lo hi).boot = s.boot := rfl
@[simp] theorem wipe_last : (s.wipe lo hi).last = s.last := rfl
@[simp] theorem wipe_fatal : (s.wipe lo hi).fatal = s.fatal := rfl

end

/-! ### updCore -/

section
variable (c : Core) (f : CoreState → CoreState)

@[simp] theorem updCore_pending : (s.updCore c f).pending = s.pending := rfl
@[simp] theorem updCore_variant : (s.updCore c f).variant = s.variant := rfl
@[simp] theorem updCore_tb : (s.updCore c f).tb = s.tb := rfl
@[simp] theorem updCore_mem : (s.updCore c f).mem = s.mem := rfl
@[simp] theorem updCore_sec : (s.updCore c f).sec = s.sec := rfl
@[simp] theorem updCore_ded : (s.updCore c f).ded = s.ded := rfl
@[simp] theorem updCore_poison : (s.updCore c f).poison = s.poison := rfl
@[simp] theorem updCore_sys : (s.updCore c f).sys = s.sys := rfl
@[simp] theorem updCore_ec : (s.updCore c f).ec = s.ec := rfl
@[simp] theorem updCore_pwr : (s.updCore c f).pwr = s.pwr := rfl
@[simp] theorem updCore_lv : (s.updCore c f).lv = s.lv := rfl
@[simp] theorem updCore_pool : (s.updCore c f).pool = s.pool := rfl
@[simp] theorem updCore_cue : (s.updCore c f).cue = s.cue := rfl
@[simp] theorem updCore_cores : (s.updCore c f).cores = updV s.cores c f := rfl
@[simp] theorem updCore_fab : (s.updCore c f).fab = s.fab := rfl
@[simp] theorem updCore_prompter : (s.updCore c f).prompter = s.prompter := rfl
@[simp] theorem updCore_bwr : (s.updCore c f).bwr = s.bwr := rfl
@[simp] theorem updCore_dma : (s.updCore c f).dma = s.dma := rfl
@[simp] theorem updCore_trc : (s.updCore c f).trc = s.trc := rfl
@[simp] theorem updCore_dbg : (s.updCore c f).dbg = s.dbg := rfl
@[simp] theorem updCore_wd : (s.updCore c f).wd = s.wd := rfl
@[simp] theorem updCore_time : (s.updCore c f).time = s.time := rfl
@[simp] theorem updCore_adc : (s.updCore c f).adc = s.adc := rfl
@[simp] theorem updCore_spd : (s.updCore c f).spd = s.spd := rfl
@[simp] theorem updCore_lane : (s.updCore c f).lane = s.lane := rfl
@[simp] theorem updCore_laneBlk : (s.updCore c f).laneBlk = s.laneBlk := rfl
@[simp] theorem updCore_stat : (s.updCore c f).stat = s.stat := rfl
@[simp] theorem updCore_part : (s.updCore c f).part = s.part := rfl
@[simp] theorem updCore_cec : (s.updCore c f).cec = s.cec := rfl
@[simp] theorem updCore_ir : (s.updCore c f).ir = s.ir := rfl
@[simp] theorem updCore_irWake : (s.updCore c f).irWake = s.irWake := rfl
@[simp] theorem updCore_irWakeN : (s.updCore c f).irWakeN = s.irWakeN := rfl
@[simp] theorem updCore_kpd : (s.updCore c f).kpd = s.kpd := rfl
@[simp] theorem updCore_uart : (s.updCore c f).uart = s.uart := rfl
@[simp] theorem updCore_i2c : (s.updCore c f).i2c = s.i2c := rfl
@[simp] theorem updCore_gpio : (s.updCore c f).gpio = s.gpio := rfl
@[simp] theorem updCore_cry : (s.updCore c f).cry = s.cry := rfl
@[simp] theorem updCore_key : (s.updCore c f).key = s.key := rfl
@[simp] theorem updCore_otp : (s.updCore c f).otp = s.otp := rfl
@[simp] theorem updCore_flc : (s.updCore c f).flc = s.flc := rfl
@[simp] theorem updCore_install : (s.updCore c f).install = s.install := rfl
@[simp] theorem updCore_sets : (s.updCore c f).sets = s.sets := rfl
@[simp] theorem updCore_link : (s.updCore c f).link = s.link := rfl
@[simp] theorem updCore_elv : (s.updCore c f).elv = s.elv := rfl
@[simp] theorem updCore_boot : (s.updCore c f).boot = s.boot := rfl
@[simp] theorem updCore_last : (s.updCore c f).last = s.last := rfl
@[simp] theorem updCore_fatal : (s.updCore c f).fatal = s.fatal := rfl

end

/-! ### setLast -/

section
variable (m : Master) (ans : BitVec 3) (data : Word)

@[simp] theorem setLast_pending : (setLast s m ans data).pending = s.pending := rfl
@[simp] theorem setLast_variant : (setLast s m ans data).variant = s.variant := rfl
@[simp] theorem setLast_tb : (setLast s m ans data).tb = s.tb := rfl
@[simp] theorem setLast_mem : (setLast s m ans data).mem = s.mem := rfl
@[simp] theorem setLast_sec : (setLast s m ans data).sec = s.sec := rfl
@[simp] theorem setLast_ded : (setLast s m ans data).ded = s.ded := rfl
@[simp] theorem setLast_poison : (setLast s m ans data).poison = s.poison := rfl
@[simp] theorem setLast_sys : (setLast s m ans data).sys = s.sys := rfl
@[simp] theorem setLast_ec : (setLast s m ans data).ec = s.ec := rfl
@[simp] theorem setLast_pwr : (setLast s m ans data).pwr = s.pwr := rfl
@[simp] theorem setLast_lv : (setLast s m ans data).lv = s.lv := rfl
@[simp] theorem setLast_pool : (setLast s m ans data).pool = s.pool := rfl
@[simp] theorem setLast_cue : (setLast s m ans data).cue = s.cue := rfl
@[simp] theorem setLast_cores : (setLast s m ans data).cores = s.cores := rfl
@[simp] theorem setLast_fab : (setLast s m ans data).fab = s.fab := rfl
@[simp] theorem setLast_prompter : (setLast s m ans data).prompter = s.prompter := rfl
@[simp] theorem setLast_bwr : (setLast s m ans data).bwr = s.bwr := rfl
@[simp] theorem setLast_dma : (setLast s m ans data).dma = s.dma := rfl
@[simp] theorem setLast_trc : (setLast s m ans data).trc = s.trc := rfl
@[simp] theorem setLast_dbg : (setLast s m ans data).dbg = s.dbg := rfl
@[simp] theorem setLast_wd : (setLast s m ans data).wd = s.wd := rfl
@[simp] theorem setLast_time : (setLast s m ans data).time = s.time := rfl
@[simp] theorem setLast_adc : (setLast s m ans data).adc = s.adc := rfl
@[simp] theorem setLast_spd : (setLast s m ans data).spd = s.spd := rfl
@[simp] theorem setLast_lane : (setLast s m ans data).lane = s.lane := rfl
@[simp] theorem setLast_laneBlk : (setLast s m ans data).laneBlk = s.laneBlk := rfl
@[simp] theorem setLast_stat : (setLast s m ans data).stat = s.stat := rfl
@[simp] theorem setLast_part : (setLast s m ans data).part = s.part := rfl
@[simp] theorem setLast_cec : (setLast s m ans data).cec = s.cec := rfl
@[simp] theorem setLast_ir : (setLast s m ans data).ir = s.ir := rfl
@[simp] theorem setLast_irWake : (setLast s m ans data).irWake = s.irWake := rfl
@[simp] theorem setLast_irWakeN : (setLast s m ans data).irWakeN = s.irWakeN := rfl
@[simp] theorem setLast_kpd : (setLast s m ans data).kpd = s.kpd := rfl
@[simp] theorem setLast_uart : (setLast s m ans data).uart = s.uart := rfl
@[simp] theorem setLast_i2c : (setLast s m ans data).i2c = s.i2c := rfl
@[simp] theorem setLast_gpio : (setLast s m ans data).gpio = s.gpio := rfl
@[simp] theorem setLast_cry : (setLast s m ans data).cry = s.cry := rfl
@[simp] theorem setLast_key : (setLast s m ans data).key = s.key := rfl
@[simp] theorem setLast_otp : (setLast s m ans data).otp = s.otp := rfl
@[simp] theorem setLast_flc : (setLast s m ans data).flc = s.flc := rfl
@[simp] theorem setLast_install : (setLast s m ans data).install = s.install := rfl
@[simp] theorem setLast_sets : (setLast s m ans data).sets = s.sets := rfl
@[simp] theorem setLast_link : (setLast s m ans data).link = s.link := rfl
@[simp] theorem setLast_elv : (setLast s m ans data).elv = s.elv := rfl
@[simp] theorem setLast_boot : (setLast s m ans data).boot = s.boot := rfl
@[simp] theorem setLast_last : (setLast s m ans data).last = putV s.last m (ans, data) := rfl
@[simp] theorem setLast_fatal : (setLast s m ans data).fatal = s.fatal := rfl

end

/-! ### ecLose -/

section
variable (source : BitVec 8) (cls : BitVec 2)

@[simp] theorem ecLose_pending : (ecLose s source cls).pending = s.pending := rfl
@[simp] theorem ecLose_variant : (ecLose s source cls).variant = s.variant := rfl
@[simp] theorem ecLose_tb : (ecLose s source cls).tb = s.tb := rfl
@[simp] theorem ecLose_mem : (ecLose s source cls).mem = s.mem := rfl
@[simp] theorem ecLose_sec : (ecLose s source cls).sec = s.sec := rfl
@[simp] theorem ecLose_ded : (ecLose s source cls).ded = s.ded := rfl
@[simp] theorem ecLose_poison : (ecLose s source cls).poison = s.poison := rfl
@[simp] theorem ecLose_sys : (ecLose s source cls).sys = s.sys := rfl
@[simp] theorem ecLose_ec : (ecLose s source cls).ec = { s.ec with lost := s.ec.lost + 1, evt := s.ec.evt.raise 2, lastLost := cls ++ source, lostBefore := true } := rfl
@[simp] theorem ecLose_pwr : (ecLose s source cls).pwr = s.pwr := rfl
@[simp] theorem ecLose_lv : (ecLose s source cls).lv = s.lv := rfl
@[simp] theorem ecLose_pool : (ecLose s source cls).pool = s.pool := rfl
@[simp] theorem ecLose_cue : (ecLose s source cls).cue = s.cue := rfl
@[simp] theorem ecLose_cores : (ecLose s source cls).cores = s.cores := rfl
@[simp] theorem ecLose_fab : (ecLose s source cls).fab = s.fab := rfl
@[simp] theorem ecLose_prompter : (ecLose s source cls).prompter = s.prompter := rfl
@[simp] theorem ecLose_bwr : (ecLose s source cls).bwr = s.bwr := rfl
@[simp] theorem ecLose_dma : (ecLose s source cls).dma = s.dma := rfl
@[simp] theorem ecLose_trc : (ecLose s source cls).trc = s.trc := rfl
@[simp] theorem ecLose_dbg : (ecLose s source cls).dbg = s.dbg := rfl
@[simp] theorem ecLose_wd : (ecLose s source cls).wd = s.wd := rfl
@[simp] theorem ecLose_time : (ecLose s source cls).time = s.time := rfl
@[simp] theorem ecLose_adc : (ecLose s source cls).adc = s.adc := rfl
@[simp] theorem ecLose_spd : (ecLose s source cls).spd = s.spd := rfl
@[simp] theorem ecLose_lane : (ecLose s source cls).lane = s.lane := rfl
@[simp] theorem ecLose_laneBlk : (ecLose s source cls).laneBlk = s.laneBlk := rfl
@[simp] theorem ecLose_stat : (ecLose s source cls).stat = s.stat := rfl
@[simp] theorem ecLose_part : (ecLose s source cls).part = s.part := rfl
@[simp] theorem ecLose_cec : (ecLose s source cls).cec = s.cec := rfl
@[simp] theorem ecLose_ir : (ecLose s source cls).ir = s.ir := rfl
@[simp] theorem ecLose_irWake : (ecLose s source cls).irWake = s.irWake := rfl
@[simp] theorem ecLose_irWakeN : (ecLose s source cls).irWakeN = s.irWakeN := rfl
@[simp] theorem ecLose_kpd : (ecLose s source cls).kpd = s.kpd := rfl
@[simp] theorem ecLose_uart : (ecLose s source cls).uart = s.uart := rfl
@[simp] theorem ecLose_i2c : (ecLose s source cls).i2c = s.i2c := rfl
@[simp] theorem ecLose_gpio : (ecLose s source cls).gpio = s.gpio := rfl
@[simp] theorem ecLose_cry : (ecLose s source cls).cry = s.cry := rfl
@[simp] theorem ecLose_key : (ecLose s source cls).key = s.key := rfl
@[simp] theorem ecLose_otp : (ecLose s source cls).otp = s.otp := rfl
@[simp] theorem ecLose_flc : (ecLose s source cls).flc = s.flc := rfl
@[simp] theorem ecLose_install : (ecLose s source cls).install = s.install := rfl
@[simp] theorem ecLose_sets : (ecLose s source cls).sets = s.sets := rfl
@[simp] theorem ecLose_link : (ecLose s source cls).link = s.link := rfl
@[simp] theorem ecLose_elv : (ecLose s source cls).elv = s.elv := rfl
@[simp] theorem ecLose_boot : (ecLose s source cls).boot = s.boot := rfl
@[simp] theorem ecLose_last : (ecLose s source cls).last = s.last := rfl
@[simp] theorem ecLose_fatal : (ecLose s source cls).fatal = s.fatal := rfl

end

/-! ### updLane -/

section
variable (n : Fin 24) (f : Lane → Lane)

@[simp] theorem updLane_pending : (updLane s n f).pending = s.pending := rfl
@[simp] theorem updLane_variant : (updLane s n f).variant = s.variant := rfl
@[simp] theorem updLane_tb : (updLane s n f).tb = s.tb := rfl
@[simp] theorem updLane_mem : (updLane s n f).mem = s.mem := rfl
@[simp] theorem updLane_sec : (updLane s n f).sec = s.sec := rfl
@[simp] theorem updLane_ded : (updLane s n f).ded = s.ded := rfl
@[simp] theorem updLane_poison : (updLane s n f).poison = s.poison := rfl
@[simp] theorem updLane_sys : (updLane s n f).sys = s.sys := rfl
@[simp] theorem updLane_ec : (updLane s n f).ec = s.ec := rfl
@[simp] theorem updLane_pwr : (updLane s n f).pwr = s.pwr := rfl
@[simp] theorem updLane_lv : (updLane s n f).lv = s.lv := rfl
@[simp] theorem updLane_pool : (updLane s n f).pool = s.pool := rfl
@[simp] theorem updLane_cue : (updLane s n f).cue = s.cue := rfl
@[simp] theorem updLane_cores : (updLane s n f).cores = s.cores := rfl
@[simp] theorem updLane_fab : (updLane s n f).fab = s.fab := rfl
@[simp] theorem updLane_prompter : (updLane s n f).prompter = s.prompter := rfl
@[simp] theorem updLane_bwr : (updLane s n f).bwr = s.bwr := rfl
@[simp] theorem updLane_dma : (updLane s n f).dma = s.dma := rfl
@[simp] theorem updLane_trc : (updLane s n f).trc = s.trc := rfl
@[simp] theorem updLane_dbg : (updLane s n f).dbg = s.dbg := rfl
@[simp] theorem updLane_wd : (updLane s n f).wd = s.wd := rfl
@[simp] theorem updLane_time : (updLane s n f).time = s.time := rfl
@[simp] theorem updLane_adc : (updLane s n f).adc = s.adc := rfl
@[simp] theorem updLane_spd : (updLane s n f).spd = s.spd := rfl
@[simp] theorem updLane_lane : (updLane s n f).lane = updV s.lane n f := rfl
@[simp] theorem updLane_laneBlk : (updLane s n f).laneBlk = s.laneBlk := rfl
@[simp] theorem updLane_stat : (updLane s n f).stat = s.stat := rfl
@[simp] theorem updLane_part : (updLane s n f).part = s.part := rfl
@[simp] theorem updLane_cec : (updLane s n f).cec = s.cec := rfl
@[simp] theorem updLane_ir : (updLane s n f).ir = s.ir := rfl
@[simp] theorem updLane_irWake : (updLane s n f).irWake = s.irWake := rfl
@[simp] theorem updLane_irWakeN : (updLane s n f).irWakeN = s.irWakeN := rfl
@[simp] theorem updLane_kpd : (updLane s n f).kpd = s.kpd := rfl
@[simp] theorem updLane_uart : (updLane s n f).uart = s.uart := rfl
@[simp] theorem updLane_i2c : (updLane s n f).i2c = s.i2c := rfl
@[simp] theorem updLane_gpio : (updLane s n f).gpio = s.gpio := rfl
@[simp] theorem updLane_cry : (updLane s n f).cry = s.cry := rfl
@[simp] theorem updLane_key : (updLane s n f).key = s.key := rfl
@[simp] theorem updLane_otp : (updLane s n f).otp = s.otp := rfl
@[simp] theorem updLane_flc : (updLane s n f).flc = s.flc := rfl
@[simp] theorem updLane_install : (updLane s n f).install = s.install := rfl
@[simp] theorem updLane_sets : (updLane s n f).sets = s.sets := rfl
@[simp] theorem updLane_link : (updLane s n f).link = s.link := rfl
@[simp] theorem updLane_elv : (updLane s n f).elv = s.elv := rfl
@[simp] theorem updLane_boot : (updLane s n f).boot = s.boot := rfl
@[simp] theorem updLane_last : (updLane s n f).last = s.last := rfl
@[simp] theorem updLane_fatal : (updLane s n f).fatal = s.fatal := rfl

end

/-! ### updAdc -/

section
variable (n : Fin 4) (f : Adc → Adc)

@[simp] theorem updAdc_pending : (updAdc s n f).pending = s.pending := rfl
@[simp] theorem updAdc_variant : (updAdc s n f).variant = s.variant := rfl
@[simp] theorem updAdc_tb : (updAdc s n f).tb = s.tb := rfl
@[simp] theorem updAdc_mem : (updAdc s n f).mem = s.mem := rfl
@[simp] theorem updAdc_sec : (updAdc s n f).sec = s.sec := rfl
@[simp] theorem updAdc_ded : (updAdc s n f).ded = s.ded := rfl
@[simp] theorem updAdc_poison : (updAdc s n f).poison = s.poison := rfl
@[simp] theorem updAdc_sys : (updAdc s n f).sys = s.sys := rfl
@[simp] theorem updAdc_ec : (updAdc s n f).ec = s.ec := rfl
@[simp] theorem updAdc_pwr : (updAdc s n f).pwr = s.pwr := rfl
@[simp] theorem updAdc_lv : (updAdc s n f).lv = s.lv := rfl
@[simp] theorem updAdc_pool : (updAdc s n f).pool = s.pool := rfl
@[simp] theorem updAdc_cue : (updAdc s n f).cue = s.cue := rfl
@[simp] theorem updAdc_cores : (updAdc s n f).cores = s.cores := rfl
@[simp] theorem updAdc_fab : (updAdc s n f).fab = s.fab := rfl
@[simp] theorem updAdc_prompter : (updAdc s n f).prompter = s.prompter := rfl
@[simp] theorem updAdc_bwr : (updAdc s n f).bwr = s.bwr := rfl
@[simp] theorem updAdc_dma : (updAdc s n f).dma = s.dma := rfl
@[simp] theorem updAdc_trc : (updAdc s n f).trc = s.trc := rfl
@[simp] theorem updAdc_dbg : (updAdc s n f).dbg = s.dbg := rfl
@[simp] theorem updAdc_wd : (updAdc s n f).wd = s.wd := rfl
@[simp] theorem updAdc_time : (updAdc s n f).time = s.time := rfl
@[simp] theorem updAdc_adc : (updAdc s n f).adc = updV s.adc n f := rfl
@[simp] theorem updAdc_spd : (updAdc s n f).spd = s.spd := rfl
@[simp] theorem updAdc_lane : (updAdc s n f).lane = s.lane := rfl
@[simp] theorem updAdc_laneBlk : (updAdc s n f).laneBlk = s.laneBlk := rfl
@[simp] theorem updAdc_stat : (updAdc s n f).stat = s.stat := rfl
@[simp] theorem updAdc_part : (updAdc s n f).part = s.part := rfl
@[simp] theorem updAdc_cec : (updAdc s n f).cec = s.cec := rfl
@[simp] theorem updAdc_ir : (updAdc s n f).ir = s.ir := rfl
@[simp] theorem updAdc_irWake : (updAdc s n f).irWake = s.irWake := rfl
@[simp] theorem updAdc_irWakeN : (updAdc s n f).irWakeN = s.irWakeN := rfl
@[simp] theorem updAdc_kpd : (updAdc s n f).kpd = s.kpd := rfl
@[simp] theorem updAdc_uart : (updAdc s n f).uart = s.uart := rfl
@[simp] theorem updAdc_i2c : (updAdc s n f).i2c = s.i2c := rfl
@[simp] theorem updAdc_gpio : (updAdc s n f).gpio = s.gpio := rfl
@[simp] theorem updAdc_cry : (updAdc s n f).cry = s.cry := rfl
@[simp] theorem updAdc_key : (updAdc s n f).key = s.key := rfl
@[simp] theorem updAdc_otp : (updAdc s n f).otp = s.otp := rfl
@[simp] theorem updAdc_flc : (updAdc s n f).flc = s.flc := rfl
@[simp] theorem updAdc_install : (updAdc s n f).install = s.install := rfl
@[simp] theorem updAdc_sets : (updAdc s n f).sets = s.sets := rfl
@[simp] theorem updAdc_link : (updAdc s n f).link = s.link := rfl
@[simp] theorem updAdc_elv : (updAdc s n f).elv = s.elv := rfl
@[simp] theorem updAdc_boot : (updAdc s n f).boot = s.boot := rfl
@[simp] theorem updAdc_last : (updAdc s n f).last = s.last := rfl
@[simp] theorem updAdc_fatal : (updAdc s n f).fatal = s.fatal := rfl

end

/-! ### updSpd -/

section
variable (n : Fin 8) (f : Spd → Spd)

@[simp] theorem updSpd_pending : (updSpd s n f).pending = s.pending := rfl
@[simp] theorem updSpd_variant : (updSpd s n f).variant = s.variant := rfl
@[simp] theorem updSpd_tb : (updSpd s n f).tb = s.tb := rfl
@[simp] theorem updSpd_mem : (updSpd s n f).mem = s.mem := rfl
@[simp] theorem updSpd_sec : (updSpd s n f).sec = s.sec := rfl
@[simp] theorem updSpd_ded : (updSpd s n f).ded = s.ded := rfl
@[simp] theorem updSpd_poison : (updSpd s n f).poison = s.poison := rfl
@[simp] theorem updSpd_sys : (updSpd s n f).sys = s.sys := rfl
@[simp] theorem updSpd_ec : (updSpd s n f).ec = s.ec := rfl
@[simp] theorem updSpd_pwr : (updSpd s n f).pwr = s.pwr := rfl
@[simp] theorem updSpd_lv : (updSpd s n f).lv = s.lv := rfl
@[simp] theorem updSpd_pool : (updSpd s n f).pool = s.pool := rfl
@[simp] theorem updSpd_cue : (updSpd s n f).cue = s.cue := rfl
@[simp] theorem updSpd_cores : (updSpd s n f).cores = s.cores := rfl
@[simp] theorem updSpd_fab : (updSpd s n f).fab = s.fab := rfl
@[simp] theorem updSpd_prompter : (updSpd s n f).prompter = s.prompter := rfl
@[simp] theorem updSpd_bwr : (updSpd s n f).bwr = s.bwr := rfl
@[simp] theorem updSpd_dma : (updSpd s n f).dma = s.dma := rfl
@[simp] theorem updSpd_trc : (updSpd s n f).trc = s.trc := rfl
@[simp] theorem updSpd_dbg : (updSpd s n f).dbg = s.dbg := rfl
@[simp] theorem updSpd_wd : (updSpd s n f).wd = s.wd := rfl
@[simp] theorem updSpd_time : (updSpd s n f).time = s.time := rfl
@[simp] theorem updSpd_adc : (updSpd s n f).adc = s.adc := rfl
@[simp] theorem updSpd_spd : (updSpd s n f).spd = updV s.spd n f := rfl
@[simp] theorem updSpd_lane : (updSpd s n f).lane = s.lane := rfl
@[simp] theorem updSpd_laneBlk : (updSpd s n f).laneBlk = s.laneBlk := rfl
@[simp] theorem updSpd_stat : (updSpd s n f).stat = s.stat := rfl
@[simp] theorem updSpd_part : (updSpd s n f).part = s.part := rfl
@[simp] theorem updSpd_cec : (updSpd s n f).cec = s.cec := rfl
@[simp] theorem updSpd_ir : (updSpd s n f).ir = s.ir := rfl
@[simp] theorem updSpd_irWake : (updSpd s n f).irWake = s.irWake := rfl
@[simp] theorem updSpd_irWakeN : (updSpd s n f).irWakeN = s.irWakeN := rfl
@[simp] theorem updSpd_kpd : (updSpd s n f).kpd = s.kpd := rfl
@[simp] theorem updSpd_uart : (updSpd s n f).uart = s.uart := rfl
@[simp] theorem updSpd_i2c : (updSpd s n f).i2c = s.i2c := rfl
@[simp] theorem updSpd_gpio : (updSpd s n f).gpio = s.gpio := rfl
@[simp] theorem updSpd_cry : (updSpd s n f).cry = s.cry := rfl
@[simp] theorem updSpd_key : (updSpd s n f).key = s.key := rfl
@[simp] theorem updSpd_otp : (updSpd s n f).otp = s.otp := rfl
@[simp] theorem updSpd_flc : (updSpd s n f).flc = s.flc := rfl
@[simp] theorem updSpd_install : (updSpd s n f).install = s.install := rfl
@[simp] theorem updSpd_sets : (updSpd s n f).sets = s.sets := rfl
@[simp] theorem updSpd_link : (updSpd s n f).link = s.link := rfl
@[simp] theorem updSpd_elv : (updSpd s n f).elv = s.elv := rfl
@[simp] theorem updSpd_boot : (updSpd s n f).boot = s.boot := rfl
@[simp] theorem updSpd_last : (updSpd s n f).last = s.last := rfl
@[simp] theorem updSpd_fatal : (updSpd s n f).fatal = s.fatal := rfl

end

/-! ### updUart -/

section
variable (n : Fin 2) (f : Uart → Uart)

@[simp] theorem updUart_pending : (updUart s n f).pending = s.pending := rfl
@[simp] theorem updUart_variant : (updUart s n f).variant = s.variant := rfl
@[simp] theorem updUart_tb : (updUart s n f).tb = s.tb := rfl
@[simp] theorem updUart_mem : (updUart s n f).mem = s.mem := rfl
@[simp] theorem updUart_sec : (updUart s n f).sec = s.sec := rfl
@[simp] theorem updUart_ded : (updUart s n f).ded = s.ded := rfl
@[simp] theorem updUart_poison : (updUart s n f).poison = s.poison := rfl
@[simp] theorem updUart_sys : (updUart s n f).sys = s.sys := rfl
@[simp] theorem updUart_ec : (updUart s n f).ec = s.ec := rfl
@[simp] theorem updUart_pwr : (updUart s n f).pwr = s.pwr := rfl
@[simp] theorem updUart_lv : (updUart s n f).lv = s.lv := rfl
@[simp] theorem updUart_pool : (updUart s n f).pool = s.pool := rfl
@[simp] theorem updUart_cue : (updUart s n f).cue = s.cue := rfl
@[simp] theorem updUart_cores : (updUart s n f).cores = s.cores := rfl
@[simp] theorem updUart_fab : (updUart s n f).fab = s.fab := rfl
@[simp] theorem updUart_prompter : (updUart s n f).prompter = s.prompter := rfl
@[simp] theorem updUart_bwr : (updUart s n f).bwr = s.bwr := rfl
@[simp] theorem updUart_dma : (updUart s n f).dma = s.dma := rfl
@[simp] theorem updUart_trc : (updUart s n f).trc = s.trc := rfl
@[simp] theorem updUart_dbg : (updUart s n f).dbg = s.dbg := rfl
@[simp] theorem updUart_wd : (updUart s n f).wd = s.wd := rfl
@[simp] theorem updUart_time : (updUart s n f).time = s.time := rfl
@[simp] theorem updUart_adc : (updUart s n f).adc = s.adc := rfl
@[simp] theorem updUart_spd : (updUart s n f).spd = s.spd := rfl
@[simp] theorem updUart_lane : (updUart s n f).lane = s.lane := rfl
@[simp] theorem updUart_laneBlk : (updUart s n f).laneBlk = s.laneBlk := rfl
@[simp] theorem updUart_stat : (updUart s n f).stat = s.stat := rfl
@[simp] theorem updUart_part : (updUart s n f).part = s.part := rfl
@[simp] theorem updUart_cec : (updUart s n f).cec = s.cec := rfl
@[simp] theorem updUart_ir : (updUart s n f).ir = s.ir := rfl
@[simp] theorem updUart_irWake : (updUart s n f).irWake = s.irWake := rfl
@[simp] theorem updUart_irWakeN : (updUart s n f).irWakeN = s.irWakeN := rfl
@[simp] theorem updUart_kpd : (updUart s n f).kpd = s.kpd := rfl
@[simp] theorem updUart_uart : (updUart s n f).uart = updV s.uart n f := rfl
@[simp] theorem updUart_i2c : (updUart s n f).i2c = s.i2c := rfl
@[simp] theorem updUart_gpio : (updUart s n f).gpio = s.gpio := rfl
@[simp] theorem updUart_cry : (updUart s n f).cry = s.cry := rfl
@[simp] theorem updUart_key : (updUart s n f).key = s.key := rfl
@[simp] theorem updUart_otp : (updUart s n f).otp = s.otp := rfl
@[simp] theorem updUart_flc : (updUart s n f).flc = s.flc := rfl
@[simp] theorem updUart_install : (updUart s n f).install = s.install := rfl
@[simp] theorem updUart_sets : (updUart s n f).sets = s.sets := rfl
@[simp] theorem updUart_link : (updUart s n f).link = s.link := rfl
@[simp] theorem updUart_elv : (updUart s n f).elv = s.elv := rfl
@[simp] theorem updUart_boot : (updUart s n f).boot = s.boot := rfl
@[simp] theorem updUart_last : (updUart s n f).last = s.last := rfl
@[simp] theorem updUart_fatal : (updUart s n f).fatal = s.fatal := rfl

end

/-! ### updI2c -/

section
variable (n : Fin 2) (f : I2c → I2c)

@[simp] theorem updI2c_pending : (updI2c s n f).pending = s.pending := rfl
@[simp] theorem updI2c_variant : (updI2c s n f).variant = s.variant := rfl
@[simp] theorem updI2c_tb : (updI2c s n f).tb = s.tb := rfl
@[simp] theorem updI2c_mem : (updI2c s n f).mem = s.mem := rfl
@[simp] theorem updI2c_sec : (updI2c s n f).sec = s.sec := rfl
@[simp] theorem updI2c_ded : (updI2c s n f).ded = s.ded := rfl
@[simp] theorem updI2c_poison : (updI2c s n f).poison = s.poison := rfl
@[simp] theorem updI2c_sys : (updI2c s n f).sys = s.sys := rfl
@[simp] theorem updI2c_ec : (updI2c s n f).ec = s.ec := rfl
@[simp] theorem updI2c_pwr : (updI2c s n f).pwr = s.pwr := rfl
@[simp] theorem updI2c_lv : (updI2c s n f).lv = s.lv := rfl
@[simp] theorem updI2c_pool : (updI2c s n f).pool = s.pool := rfl
@[simp] theorem updI2c_cue : (updI2c s n f).cue = s.cue := rfl
@[simp] theorem updI2c_cores : (updI2c s n f).cores = s.cores := rfl
@[simp] theorem updI2c_fab : (updI2c s n f).fab = s.fab := rfl
@[simp] theorem updI2c_prompter : (updI2c s n f).prompter = s.prompter := rfl
@[simp] theorem updI2c_bwr : (updI2c s n f).bwr = s.bwr := rfl
@[simp] theorem updI2c_dma : (updI2c s n f).dma = s.dma := rfl
@[simp] theorem updI2c_trc : (updI2c s n f).trc = s.trc := rfl
@[simp] theorem updI2c_dbg : (updI2c s n f).dbg = s.dbg := rfl
@[simp] theorem updI2c_wd : (updI2c s n f).wd = s.wd := rfl
@[simp] theorem updI2c_time : (updI2c s n f).time = s.time := rfl
@[simp] theorem updI2c_adc : (updI2c s n f).adc = s.adc := rfl
@[simp] theorem updI2c_spd : (updI2c s n f).spd = s.spd := rfl
@[simp] theorem updI2c_lane : (updI2c s n f).lane = s.lane := rfl
@[simp] theorem updI2c_laneBlk : (updI2c s n f).laneBlk = s.laneBlk := rfl
@[simp] theorem updI2c_stat : (updI2c s n f).stat = s.stat := rfl
@[simp] theorem updI2c_part : (updI2c s n f).part = s.part := rfl
@[simp] theorem updI2c_cec : (updI2c s n f).cec = s.cec := rfl
@[simp] theorem updI2c_ir : (updI2c s n f).ir = s.ir := rfl
@[simp] theorem updI2c_irWake : (updI2c s n f).irWake = s.irWake := rfl
@[simp] theorem updI2c_irWakeN : (updI2c s n f).irWakeN = s.irWakeN := rfl
@[simp] theorem updI2c_kpd : (updI2c s n f).kpd = s.kpd := rfl
@[simp] theorem updI2c_uart : (updI2c s n f).uart = s.uart := rfl
@[simp] theorem updI2c_i2c : (updI2c s n f).i2c = updV s.i2c n f := rfl
@[simp] theorem updI2c_gpio : (updI2c s n f).gpio = s.gpio := rfl
@[simp] theorem updI2c_cry : (updI2c s n f).cry = s.cry := rfl
@[simp] theorem updI2c_key : (updI2c s n f).key = s.key := rfl
@[simp] theorem updI2c_otp : (updI2c s n f).otp = s.otp := rfl
@[simp] theorem updI2c_flc : (updI2c s n f).flc = s.flc := rfl
@[simp] theorem updI2c_install : (updI2c s n f).install = s.install := rfl
@[simp] theorem updI2c_sets : (updI2c s n f).sets = s.sets := rfl
@[simp] theorem updI2c_link : (updI2c s n f).link = s.link := rfl
@[simp] theorem updI2c_elv : (updI2c s n f).elv = s.elv := rfl
@[simp] theorem updI2c_boot : (updI2c s n f).boot = s.boot := rfl
@[simp] theorem updI2c_last : (updI2c s n f).last = s.last := rfl
@[simp] theorem updI2c_fatal : (updI2c s n f).fatal = s.fatal := rfl

end

/-! ### updIr -/

section
variable (n : Fin 2) (f : Ir → Ir)

@[simp] theorem updIr_pending : (updIr s n f).pending = s.pending := rfl
@[simp] theorem updIr_variant : (updIr s n f).variant = s.variant := rfl
@[simp] theorem updIr_tb : (updIr s n f).tb = s.tb := rfl
@[simp] theorem updIr_mem : (updIr s n f).mem = s.mem := rfl
@[simp] theorem updIr_sec : (updIr s n f).sec = s.sec := rfl
@[simp] theorem updIr_ded : (updIr s n f).ded = s.ded := rfl
@[simp] theorem updIr_poison : (updIr s n f).poison = s.poison := rfl
@[simp] theorem updIr_sys : (updIr s n f).sys = s.sys := rfl
@[simp] theorem updIr_ec : (updIr s n f).ec = s.ec := rfl
@[simp] theorem updIr_pwr : (updIr s n f).pwr = s.pwr := rfl
@[simp] theorem updIr_lv : (updIr s n f).lv = s.lv := rfl
@[simp] theorem updIr_pool : (updIr s n f).pool = s.pool := rfl
@[simp] theorem updIr_cue : (updIr s n f).cue = s.cue := rfl
@[simp] theorem updIr_cores : (updIr s n f).cores = s.cores := rfl
@[simp] theorem updIr_fab : (updIr s n f).fab = s.fab := rfl
@[simp] theorem updIr_prompter : (updIr s n f).prompter = s.prompter := rfl
@[simp] theorem updIr_bwr : (updIr s n f).bwr = s.bwr := rfl
@[simp] theorem updIr_dma : (updIr s n f).dma = s.dma := rfl
@[simp] theorem updIr_trc : (updIr s n f).trc = s.trc := rfl
@[simp] theorem updIr_dbg : (updIr s n f).dbg = s.dbg := rfl
@[simp] theorem updIr_wd : (updIr s n f).wd = s.wd := rfl
@[simp] theorem updIr_time : (updIr s n f).time = s.time := rfl
@[simp] theorem updIr_adc : (updIr s n f).adc = s.adc := rfl
@[simp] theorem updIr_spd : (updIr s n f).spd = s.spd := rfl
@[simp] theorem updIr_lane : (updIr s n f).lane = s.lane := rfl
@[simp] theorem updIr_laneBlk : (updIr s n f).laneBlk = s.laneBlk := rfl
@[simp] theorem updIr_stat : (updIr s n f).stat = s.stat := rfl
@[simp] theorem updIr_part : (updIr s n f).part = s.part := rfl
@[simp] theorem updIr_cec : (updIr s n f).cec = s.cec := rfl
@[simp] theorem updIr_ir : (updIr s n f).ir = updV s.ir n f := rfl
@[simp] theorem updIr_irWake : (updIr s n f).irWake = s.irWake := rfl
@[simp] theorem updIr_irWakeN : (updIr s n f).irWakeN = s.irWakeN := rfl
@[simp] theorem updIr_kpd : (updIr s n f).kpd = s.kpd := rfl
@[simp] theorem updIr_uart : (updIr s n f).uart = s.uart := rfl
@[simp] theorem updIr_i2c : (updIr s n f).i2c = s.i2c := rfl
@[simp] theorem updIr_gpio : (updIr s n f).gpio = s.gpio := rfl
@[simp] theorem updIr_cry : (updIr s n f).cry = s.cry := rfl
@[simp] theorem updIr_key : (updIr s n f).key = s.key := rfl
@[simp] theorem updIr_otp : (updIr s n f).otp = s.otp := rfl
@[simp] theorem updIr_flc : (updIr s n f).flc = s.flc := rfl
@[simp] theorem updIr_install : (updIr s n f).install = s.install := rfl
@[simp] theorem updIr_sets : (updIr s n f).sets = s.sets := rfl
@[simp] theorem updIr_link : (updIr s n f).link = s.link := rfl
@[simp] theorem updIr_elv : (updIr s n f).elv = s.elv := rfl
@[simp] theorem updIr_boot : (updIr s n f).boot = s.boot := rfl
@[simp] theorem updIr_last : (updIr s n f).last = s.last := rfl
@[simp] theorem updIr_fatal : (updIr s n f).fatal = s.fatal := rfl

end

/-! ### updDma -/

section
variable (n : Fin 16) (f : DmaCh → DmaCh)

@[simp] theorem updDma_pending : (updDma s n f).pending = s.pending := rfl
@[simp] theorem updDma_variant : (updDma s n f).variant = s.variant := rfl
@[simp] theorem updDma_tb : (updDma s n f).tb = s.tb := rfl
@[simp] theorem updDma_mem : (updDma s n f).mem = s.mem := rfl
@[simp] theorem updDma_sec : (updDma s n f).sec = s.sec := rfl
@[simp] theorem updDma_ded : (updDma s n f).ded = s.ded := rfl
@[simp] theorem updDma_poison : (updDma s n f).poison = s.poison := rfl
@[simp] theorem updDma_sys : (updDma s n f).sys = s.sys := rfl
@[simp] theorem updDma_ec : (updDma s n f).ec = s.ec := rfl
@[simp] theorem updDma_pwr : (updDma s n f).pwr = s.pwr := rfl
@[simp] theorem updDma_lv : (updDma s n f).lv = s.lv := rfl
@[simp] theorem updDma_pool : (updDma s n f).pool = s.pool := rfl
@[simp] theorem updDma_cue : (updDma s n f).cue = s.cue := rfl
@[simp] theorem updDma_cores : (updDma s n f).cores = s.cores := rfl
@[simp] theorem updDma_fab : (updDma s n f).fab = s.fab := rfl
@[simp] theorem updDma_prompter : (updDma s n f).prompter = s.prompter := rfl
@[simp] theorem updDma_bwr : (updDma s n f).bwr = s.bwr := rfl
@[simp] theorem updDma_dma : (updDma s n f).dma = updV s.dma n f := rfl
@[simp] theorem updDma_trc : (updDma s n f).trc = s.trc := rfl
@[simp] theorem updDma_dbg : (updDma s n f).dbg = s.dbg := rfl
@[simp] theorem updDma_wd : (updDma s n f).wd = s.wd := rfl
@[simp] theorem updDma_time : (updDma s n f).time = s.time := rfl
@[simp] theorem updDma_adc : (updDma s n f).adc = s.adc := rfl
@[simp] theorem updDma_spd : (updDma s n f).spd = s.spd := rfl
@[simp] theorem updDma_lane : (updDma s n f).lane = s.lane := rfl
@[simp] theorem updDma_laneBlk : (updDma s n f).laneBlk = s.laneBlk := rfl
@[simp] theorem updDma_stat : (updDma s n f).stat = s.stat := rfl
@[simp] theorem updDma_part : (updDma s n f).part = s.part := rfl
@[simp] theorem updDma_cec : (updDma s n f).cec = s.cec := rfl
@[simp] theorem updDma_ir : (updDma s n f).ir = s.ir := rfl
@[simp] theorem updDma_irWake : (updDma s n f).irWake = s.irWake := rfl
@[simp] theorem updDma_irWakeN : (updDma s n f).irWakeN = s.irWakeN := rfl
@[simp] theorem updDma_kpd : (updDma s n f).kpd = s.kpd := rfl
@[simp] theorem updDma_uart : (updDma s n f).uart = s.uart := rfl
@[simp] theorem updDma_i2c : (updDma s n f).i2c = s.i2c := rfl
@[simp] theorem updDma_gpio : (updDma s n f).gpio = s.gpio := rfl
@[simp] theorem updDma_cry : (updDma s n f).cry = s.cry := rfl
@[simp] theorem updDma_key : (updDma s n f).key = s.key := rfl
@[simp] theorem updDma_otp : (updDma s n f).otp = s.otp := rfl
@[simp] theorem updDma_flc : (updDma s n f).flc = s.flc := rfl
@[simp] theorem updDma_install : (updDma s n f).install = s.install := rfl
@[simp] theorem updDma_sets : (updDma s n f).sets = s.sets := rfl
@[simp] theorem updDma_link : (updDma s n f).link = s.link := rfl
@[simp] theorem updDma_elv : (updDma s n f).elv = s.elv := rfl
@[simp] theorem updDma_boot : (updDma s n f).boot = s.boot := rfl
@[simp] theorem updDma_last : (updDma s n f).last = s.last := rfl
@[simp] theorem updDma_fatal : (updDma s n f).fatal = s.fatal := rfl

end

/-! ### updTmr -/

section
variable (n : Fin 8) (f : Tmr → Tmr)

@[simp] theorem updTmr_pending : (updTmr s n f).pending = s.pending := rfl
@[simp] theorem updTmr_variant : (updTmr s n f).variant = s.variant := rfl
@[simp] theorem updTmr_tb : (updTmr s n f).tb = s.tb := rfl
@[simp] theorem updTmr_mem : (updTmr s n f).mem = s.mem := rfl
@[simp] theorem updTmr_sec : (updTmr s n f).sec = s.sec := rfl
@[simp] theorem updTmr_ded : (updTmr s n f).ded = s.ded := rfl
@[simp] theorem updTmr_poison : (updTmr s n f).poison = s.poison := rfl
@[simp] theorem updTmr_sys : (updTmr s n f).sys = s.sys := rfl
@[simp] theorem updTmr_ec : (updTmr s n f).ec = s.ec := rfl
@[simp] theorem updTmr_pwr : (updTmr s n f).pwr = s.pwr := rfl
@[simp] theorem updTmr_lv : (updTmr s n f).lv = s.lv := rfl
@[simp] theorem updTmr_pool : (updTmr s n f).pool = s.pool := rfl
@[simp] theorem updTmr_cue : (updTmr s n f).cue = s.cue := rfl
@[simp] theorem updTmr_cores : (updTmr s n f).cores = s.cores := rfl
@[simp] theorem updTmr_fab : (updTmr s n f).fab = s.fab := rfl
@[simp] theorem updTmr_prompter : (updTmr s n f).prompter = s.prompter := rfl
@[simp] theorem updTmr_bwr : (updTmr s n f).bwr = s.bwr := rfl
@[simp] theorem updTmr_dma : (updTmr s n f).dma = s.dma := rfl
@[simp] theorem updTmr_trc : (updTmr s n f).trc = s.trc := rfl
@[simp] theorem updTmr_dbg : (updTmr s n f).dbg = s.dbg := rfl
@[simp] theorem updTmr_wd : (updTmr s n f).wd = s.wd := rfl
@[simp] theorem updTmr_time : (updTmr s n f).time = { s.time with tmr := updV s.time.tmr n f } := rfl
@[simp] theorem updTmr_adc : (updTmr s n f).adc = s.adc := rfl
@[simp] theorem updTmr_spd : (updTmr s n f).spd = s.spd := rfl
@[simp] theorem updTmr_lane : (updTmr s n f).lane = s.lane := rfl
@[simp] theorem updTmr_laneBlk : (updTmr s n f).laneBlk = s.laneBlk := rfl
@[simp] theorem updTmr_stat : (updTmr s n f).stat = s.stat := rfl
@[simp] theorem updTmr_part : (updTmr s n f).part = s.part := rfl
@[simp] theorem updTmr_cec : (updTmr s n f).cec = s.cec := rfl
@[simp] theorem updTmr_ir : (updTmr s n f).ir = s.ir := rfl
@[simp] theorem updTmr_irWake : (updTmr s n f).irWake = s.irWake := rfl
@[simp] theorem updTmr_irWakeN : (updTmr s n f).irWakeN = s.irWakeN := rfl
@[simp] theorem updTmr_kpd : (updTmr s n f).kpd = s.kpd := rfl
@[simp] theorem updTmr_uart : (updTmr s n f).uart = s.uart := rfl
@[simp] theorem updTmr_i2c : (updTmr s n f).i2c = s.i2c := rfl
@[simp] theorem updTmr_gpio : (updTmr s n f).gpio = s.gpio := rfl
@[simp] theorem updTmr_cry : (updTmr s n f).cry = s.cry := rfl
@[simp] theorem updTmr_key : (updTmr s n f).key = s.key := rfl
@[simp] theorem updTmr_otp : (updTmr s n f).otp = s.otp := rfl
@[simp] theorem updTmr_flc : (updTmr s n f).flc = s.flc := rfl
@[simp] theorem updTmr_install : (updTmr s n f).install = s.install := rfl
@[simp] theorem updTmr_sets : (updTmr s n f).sets = s.sets := rfl
@[simp] theorem updTmr_link : (updTmr s n f).link = s.link := rfl
@[simp] theorem updTmr_elv : (updTmr s n f).elv = s.elv := rfl
@[simp] theorem updTmr_boot : (updTmr s n f).boot = s.boot := rfl
@[simp] theorem updTmr_last : (updTmr s n f).last = s.last := rfl
@[simp] theorem updTmr_fatal : (updTmr s n f).fatal = s.fatal := rfl

end

/-! ### updLink -/

section
variable (f : Link → Link)

@[simp] theorem updLink_pending : (updLink s f).pending = s.pending := rfl
@[simp] theorem updLink_variant : (updLink s f).variant = s.variant := rfl
@[simp] theorem updLink_tb : (updLink s f).tb = s.tb := rfl
@[simp] theorem updLink_mem : (updLink s f).mem = s.mem := rfl
@[simp] theorem updLink_sec : (updLink s f).sec = s.sec := rfl
@[simp] theorem updLink_ded : (updLink s f).ded = s.ded := rfl
@[simp] theorem updLink_poison : (updLink s f).poison = s.poison := rfl
@[simp] theorem updLink_sys : (updLink s f).sys = s.sys := rfl
@[simp] theorem updLink_ec : (updLink s f).ec = s.ec := rfl
@[simp] theorem updLink_pwr : (updLink s f).pwr = s.pwr := rfl
@[simp] theorem updLink_lv : (updLink s f).lv = s.lv := rfl
@[simp] theorem updLink_pool : (updLink s f).pool = s.pool := rfl
@[simp] theorem updLink_cue : (updLink s f).cue = s.cue := rfl
@[simp] theorem updLink_cores : (updLink s f).cores = s.cores := rfl
@[simp] theorem updLink_fab : (updLink s f).fab = s.fab := rfl
@[simp] theorem updLink_prompter : (updLink s f).prompter = s.prompter := rfl
@[simp] theorem updLink_bwr : (updLink s f).bwr = s.bwr := rfl
@[simp] theorem updLink_dma : (updLink s f).dma = s.dma := rfl
@[simp] theorem updLink_trc : (updLink s f).trc = s.trc := rfl
@[simp] theorem updLink_dbg : (updLink s f).dbg = s.dbg := rfl
@[simp] theorem updLink_wd : (updLink s f).wd = s.wd := rfl
@[simp] theorem updLink_time : (updLink s f).time = s.time := rfl
@[simp] theorem updLink_adc : (updLink s f).adc = s.adc := rfl
@[simp] theorem updLink_spd : (updLink s f).spd = s.spd := rfl
@[simp] theorem updLink_lane : (updLink s f).lane = s.lane := rfl
@[simp] theorem updLink_laneBlk : (updLink s f).laneBlk = s.laneBlk := rfl
@[simp] theorem updLink_stat : (updLink s f).stat = s.stat := rfl
@[simp] theorem updLink_part : (updLink s f).part = s.part := rfl
@[simp] theorem updLink_cec : (updLink s f).cec = s.cec := rfl
@[simp] theorem updLink_ir : (updLink s f).ir = s.ir := rfl
@[simp] theorem updLink_irWake : (updLink s f).irWake = s.irWake := rfl
@[simp] theorem updLink_irWakeN : (updLink s f).irWakeN = s.irWakeN := rfl
@[simp] theorem updLink_kpd : (updLink s f).kpd = s.kpd := rfl
@[simp] theorem updLink_uart : (updLink s f).uart = s.uart := rfl
@[simp] theorem updLink_i2c : (updLink s f).i2c = s.i2c := rfl
@[simp] theorem updLink_gpio : (updLink s f).gpio = s.gpio := rfl
@[simp] theorem updLink_cry : (updLink s f).cry = s.cry := rfl
@[simp] theorem updLink_key : (updLink s f).key = s.key := rfl
@[simp] theorem updLink_otp : (updLink s f).otp = s.otp := rfl
@[simp] theorem updLink_flc : (updLink s f).flc = s.flc := rfl
@[simp] theorem updLink_install : (updLink s f).install = s.install := rfl
@[simp] theorem updLink_sets : (updLink s f).sets = s.sets := rfl
@[simp] theorem updLink_link : (updLink s f).link = f s.link := rfl
@[simp] theorem updLink_elv : (updLink s f).elv = s.elv := rfl
@[simp] theorem updLink_boot : (updLink s f).boot = s.boot := rfl
@[simp] theorem updLink_last : (updLink s f).last = s.last := rfl
@[simp] theorem updLink_fatal : (updLink s f).fatal = s.fatal := rfl

end

end Sys2Proof.Machine
end

