-- ==== Sys2Proof/Laws/Word.lean ====
section
/-!
SUPPORT. What a word of a calm core goes through: the fetch, the register checks, the breakpoints and the end of the word say nothing of
their own, so the word's effect is that of `runPlain`.
-/

namespace Sys2Proof.Machine

/-- What `calm` says, one fact after another. -/
theorem calm_facts {s : State} {c : Core} {p : Pace} (h : calm s c p = true) :
    coreReady s c = true ∧ s.cores[c].blk = none ∧ s.cores[c].held = none ∧ (s.cores[c].flow = none → listenNext s c = none) ∧
    s.cores[c].sec = [] ∧ s.cores[c].ded = [] ∧ fetchable s c p.fetch = true ∧
    brkHits s.cores[c] = [] ∧ (∀ i : Fin 2, s.cores[c].watch[i].ctrl.getLsbD 31 = false) ∧
    (s.cores[c].metEn = false ∨ p.late = 0 ∨ s.cores[c].metTrap = false) ∧ quiet s = true := by
  simp only [calm, Bool.and_eq_true, List.isEmpty_iff, Option.isNone_iff_eq_none, List.all_eq_true, List.mem_finRange,
    Bool.not_eq_true', Bool.or_eq_true, beq_iff_eq, forall_const] at h
  obtain ⟨⟨⟨⟨⟨⟨⟨⟨⟨⟨h1, hb⟩, h2⟩, hl⟩, h3⟩, h4⟩, h5⟩, h6⟩, h7⟩, h8⟩, h9⟩ := h
  exact ⟨h1, hb, h2, fun e => hl.resolve_left (by simp [-Fin.getElem_fin, e]), h3, h4, h5, h6, h7, or_assoc.1 h8, h9⟩

/-! ### Admission -/

/-- A state whose list of who waits for the regulator is another's. -/
theorem asking_eq {s t : State} (c : Core) (h : t.fab.asking = s.fab.asking) : coreAsking t c = coreAsking s c := by
  unfold coreAsking; rw [h]

theorem bwrNow_asking (s : State) : (bwrNow s).fab.asking = s.fab.asking := by
  have e (s : State) (a b : Nat) : (bwrEdge s a b).fab.asking = s.fab.asking := by
    unfold bwrEdge; dsimp only; split <;> rfl
  unfold bwrNow
  dsimp only
  split
  · rfl
  · split
    · exact e ..
    · rw [e, e]

/-- A try for admission leaves who waits for it. -/
theorem bwrTry_asking (s : State) (m : Master) (n : Nat) : (bwrTry s m n).1.fab.asking = s.fab.asking := by
  have e (s : State) (k : Nat) : (bwrServe s m k n).fab.asking = s.fab.asking := by
    unfold bwrServe; dsimp only; split <;> rfl
  unfold bwrTry
  dsimp only
  split
  · show (bwrServe _ m _ n).fab.asking = _
    rw [e, bwrNow_asking]
  · exact bwrNow_asking s

/-- A core that has been admitted waits no more. -/
theorem bwrTake_asking {s : State} {c : Core} {n : Nat} (h : (bwrTake s (coreM c) n).2 = true) :
    coreAsking (bwrTake s (coreM c) n).1 c = false := by
  have h' : (bwrTry s (coreM c) n).2 = true := h
  show (putV (bwrTry s (coreM c) n).1.fab.asking (coreM c) (!(bwrTry s (coreM c) n).2))[coreM c] = false
  rw [h', putV_same]; rfl

theorem lineArrive_asking (s : State) (c : Core) : (lineArrive s c).fab.asking = s.fab.asking := by
  have e (s : State) (a : Nat) : (flashTouch s a).fab = s.fab := by unfold flashTouch; split <;> rfl
  unfold lineArrive
  split
  · rfl
  · split
    · rfl
    · dsimp only
      split
      · exact congrArg Fab.asking (e ..)
      · rfl

theorem lineGet_asking {s : State} {c : Core} {l : Nat} (h : (lineGet s c l).2 = true) (ha : coreAsking s c = false) :
    coreAsking (lineGet s c l).1 c = false := by
  revert h
  unfold lineGet
  dsimp only
  split
  · exact fun _ => ha
  · split
    · intro h; exact absurd h (by simp)
    · split
      · intro _; exact (asking_eq c (lineArrive_asking s c)).trans ha
      · split
        · intro h; exact absurd h (by simp)
        · rename_i hn
          intro _
          refine (asking_eq c (lineArrive_asking _ c)).trans ?_
          exact bwrTake_asking (by simpa using hn)

theorem lineAhead_asking (s : State) (c : Core) (l : Nat) : (lineAhead s c l).fab.asking = s.fab.asking := by
  have e (s : State) (l : Nat) : (lineAsk s c l).fab.asking = s.fab.asking := rfl
  unfold lineAhead
  dsimp only
  split
  · rfl
  · split
    · rw [e, bwrTry_asking]
    · rw [bwrTry_asking]

theorem spend_fab (s : State) (c : Core) (a b : Nat) : (spend s c a b).fab = s.fab := by
  unfold spend
  dsimp only
  show (trcSteps s c _).fab = _
  rw [trcSteps_eq]

theorem payFetch_fab (s : State) (c : Core) (n : Nat) : (payFetch s c n).fab = s.fab := by
  unfold payFetch
  dsimp only
  repeat' split
  all_goals first | rfl | exact spend_fab ..

/-- A fetch that delivers its word leaves its core waiting for nothing. -/
theorem fetchLine_asking {s : State} {c : Core} {d : Nat} (h : (fetchLine s c d).2 = true) (ha : coreAsking s c = false) :
    coreAsking (fetchLine s c d).1 c = false := by
  have pay (s : State) (n : Nat) : coreAsking (payFetch s c n) c = coreAsking s c := asking_eq c (by rw [payFetch_fab])
  revert h
  unfold fetchLine
  dsimp only
  split
  · intro _; exact (pay ..).trans ha
  · split
    · intro _; exact (asking_eq c (lineAhead_asking ..)).trans ((pay ..).trans ha)
    · split
      · rename_i hg
        intro h; rw [h] at hg; exact absurd hg (by simp)
      · rename_i hg
        intro _
        refine (asking_eq c (lineAhead_asking ..)).trans ?_
        show coreAsking (payFetch _ _ _) c = false
        rw [pay]
        exact lineGet_asking (by simpa using hg) ha

/-- The fetch of a fetchable word delivers it and moves only the fetch path and the traffic. -/
theorem fetchWord_ok {s : State} {c : Core} {d : Nat} (h : fetchable s c d = true) :
    fetchWord (askNone s c) c d = .word (fetchLine (askNone s c) c d).1 := by
  have e : coreWho (askNone s c) c = coreWho s c := rfl
  simp only [fetchable, Bool.and_eq_true, Bool.or_eq_true, Bool.not_eq_true', decide_eq_true_eq] at h
  obtain ⟨⟨⟨h1, h2⟩, h3⟩, h4⟩ := h
  unfold fetchWord
  dsimp only
  rw [if_neg (c := _ = true) (by simp only [Bool.and_eq_true, decide_eq_true_eq]; rcases h1 with h | h <;> simp [-Fin.getElem_fin, askNone, h]),
    if_neg (c := _ = true) (by
      simp only [Bool.and_eq_true, Bool.not_eq_true']
      rintro ⟨a, b⟩
      rcases h2 with h | h
      · exact absurd (a.symm.trans h) (by simp)
      · exact absurd (b.symm.trans h) (by simp)), h3, h4]
  rfl

/-- With no errors in its registers a core reads them without a record. -/
theorem eccRead_clean {s : State} {c : Core} (l : List Nat) (hs : s.cores[c].sec = []) (hd : s.cores[c].ded = []) :
    eccRead s c l = (s, true) := by
  unfold eccRead
  dsimp only
  rw [hs, hd]
  have : l.find? (fun i => ([] : List Nat).contains i) = none := by simp
  have h2 : l.eraseDups.filter (fun i => ([] : List Nat).contains i) = [] := List.filter_eq_nil_iff.2 (by simp)
  rw [this]
  dsimp only
  rw [h2]
  rfl

/-- A calm core fetches its word and runs it; the end of the command serves nobody that the word does not leave waiting. `t` is the state
in which the word is decoded: its core waits for nothing. -/
theorem runWord_calm {s : State} {c : Core} {p : Pace} (h : calm s c p = true) (w : TWord) :
    ∃ t, t.arch = s.arch ∧ coreAsking t c = false ∧
      runWord s c p w = slipAct s (cueSettle
        (let u := decodeRun t c p w
         if coreAsking u c && u.cores[c].blk.isNone then unpaid t u c else u)) c p.slip := by
  obtain ⟨h1, hb, h2, hl, h3, h4, h5, h6, h7, h8, h9⟩ := calm_facts h
  have hk : coreAsking (askNone s c) c = false := putV_same ..
  have hfl : (fetchLine (askNone s c) c p.fetch).2 = true := by
    simp only [fetchable, Bool.and_eq_true] at h5; exact h5.1.2
  have ha : (fetchLine (askNone s c) c p.fetch).1.arch = s.arch := by rw [fetchLine_arch]; rfl
  have hw := fetchWord_ok h5
  refine ⟨(fetchLine (askNone s c) c p.fetch).1.updCore c fun k => { k with skipBrk := false }, ?_, fetchLine_asking hfl hk, ?_⟩
  · rw [updCore_drift _ _ (by rfl), ha]
  · generalize (fetchLine (askNone s c) c p.fetch).1 = t at ha hw
    have hb' : (if t.cores[c].skipBrk = true then [] else brkHits t.cores[c]) = [] := by
      have : brkHits t.cores[c] = brkHits s.cores[c] := arch_get c brkHits ha
      split
      · rfl
      · rw [this, h6]
    unfold runWord
    rw [if_neg (by simp [h1])]
    dsimp only
    rw [if_neg (by rw [hb]; simp), if_neg (by rw [h2]; simp)]
    have hnl : (if s.cores[c].flow.isNone = true then listenNext s c else none) = none := by
      split
      · rename_i hn; exact hl (Option.isNone_iff_eq_none.1 hn)
      · rfl
    rw [hnl]
    dsimp only
    unfold coreWord
    rw [hw]
    dsimp only
    rw [hb']
    rfl

/-- The causes before the effect pass, for a legal word that may run: what is left is its effect. -/
theorem decodeRun_plain {s : State} {c : Core} {p : Pace} {w : TWord} (hs : s.cores[c].sec = []) (hd : s.cores[c].ded = [])
    (hi : w.illegal = none) (hf : w.isFlow = false ∨ s.cores[c].flow = none) (hp : w.privileged = false ∨ s.cores[c].priv = true)
    (hc : wordCause s.cores[c] c w = none) : decodeRun s c p w = runPlain s c p w := by
  unfold decodeRun
  dsimp only
  rw [hi]
  have : (w.isFlow && s.cores[c].flow.isSome) = false := by rcases hf with h | h <;> simp [-Fin.getElem_fin, h]
  simp only [this, Bool.false_eq_true, if_false]
  rw [if_neg (by rcases hp with h | h <;> simp [-Fin.getElem_fin, h]), eccRead_clean _ hs hd]
  simp only [Bool.not_true, Bool.false_eq_true, if_false, hc]

/-- The end of a word that is no delay slot. -/
theorem finishWord_next {s : State} {c : Core} (h : s.cores[c].flow = none) :
    finishWord s c = s.updCore c fun k => { k with pc := k.pc + 4 } := by
  unfold finishWord; rw [h]; rfl

/-- No watchpoint is enabled: none acts. -/
theorem watchAct_off {s : State} {c : Core} (world : Bool) (accs : List (Word × Bool × Bool))
    (h : ∀ i : Fin 2, s.cores[c].watch[i].ctrl.getLsbD 31 = false) : watchAct s c world accs = s := by
  have : watchMatch s.cores[c] world accs = none := by
    unfold watchMatch
    rw [List.findSome?_eq_none_iff]
    intro i _
    dsimp only
    rw [h i]; rfl
  unfold watchAct
  rw [this]

/-- An overrun that raises no trap only counts. -/
theorem lateAct_arch {s : State} {c : Core} {trap : Bool} (kind : Nat) (a : Word) (ovr : Nat) (h : ovr = 0 ∨ trap = false) :
    (lateAct s c trap kind a ovr).arch = s.arch := by
  unfold lateAct
  dsimp only
  split
  · rfl
  · rename_i hn
    rw [if_neg (by rw [h.resolve_left hn]; simp)]
    exact lateMark_arch ..

/-- An overrun that calm allows raises no trap: there is none, or LATE_TRAP is 0, or it is not recorded. -/
theorem lateOf_quiet {s : State} {c : Core} {p : Pace} (can : Bool) (kind : Nat) (a : Word)
    (hl : s.cores[c].metEn = false ∨ p.late = 0 ∨ s.cores[c].metTrap = false) :
    ∀ x, lateOf s c kind a (overrun s c p can) = some x → x.2.2 = 0 ∨ s.cores[c].metTrap = false := by
  intro x hx
  unfold lateOf at hx
  split at hx
  · rename_i hm
    obtain rfl := (Option.some.inj hx).symm
    rcases hl with h | h | h
    · rw [h] at hm; exact absurd hm (by simp)
    · left; unfold overrun; split <;> simp [h]
    · exact Or.inr h
  · exact absurd hx (by simp)

/-- The end of a word of a calm core that is no delay slot: only the pc moves. -/
theorem endWord_next {s : State} {c : Core} {trap : Bool} (world : Bool) (accs : List (Word × Bool × Bool)) (late : Option (Nat × Word × Nat))
    (hf : s.cores[c].flow = none) (hw : ∀ i : Fin 2, s.cores[c].watch[i].ctrl.getLsbD 31 = false)
    (hl : ∀ x, late = some x → x.2.2 = 0 ∨ trap = false) :
    (endWord s c trap world accs late).arch = (s.updCore c fun k => { k with pc := k.pc + 4 }).arch := by
  unfold endWord
  dsimp only
  rw [watchAct_off _ _ (by rw [finishWord_next hf, updCore_same]; exact hw), finishWord_next hf]
  split
  · exact lateAct_arch _ _ _ (hl _ rfl)
  · rfl

theorem reg_arch {k j : CoreState} (h : k.arch = j.arch) (r : Reg) : k.reg r = j.reg r := by
  have : k.arch.g = j.arch.g := congrArg CoreState.g h
  have : k.g = j.g := this
  simp [CoreState.reg, this]

/-- Writing the same registers keeps two cores alike. -/
theorem writeRegs_fields (l : List (Reg × Word)) (k : CoreState) : ∃ g, writeRegs k l = { k with g := g } := by
  induction l generalizing k with
  | nil => exact ⟨k.g, rfl⟩
  | cons a r ih =>
    obtain ⟨g, hg⟩ := ih (k.setReg a.1 a.2)
    refine ⟨g, ?_⟩
    show writeRegs (k.setReg a.1 a.2) r = _
    rw [hg]
    unfold CoreState.setReg
    split <;> rfl

theorem setReg_arch (k : CoreState) (r : Reg) (v : Word) : (k.setReg r v).arch = k.arch.setReg r v := by
  unfold CoreState.setReg
  split <;> rfl

theorem writeRegs_arch (l : List (Reg × Word)) (k : CoreState) : (writeRegs k l).arch = writeRegs k.arch l := by
  induction l generalizing k with
  | nil => rfl
  | cons a r ih =>
    show (writeRegs (k.setReg a.1 a.2) r).arch = writeRegs (k.arch.setReg a.1 a.2) r
    rw [ih, setReg_arch]

/-- The architecture of a core after register results, flags and the move to the next word. -/
def wordResult (k : CoreState) (regs : List (Reg × Word)) (fl : Option Fl) : CoreState :=
  { writeRegs k regs with fl := fl.getD k.fl, pc := k.pc + 4 }

theorem wordResult_arch (k : CoreState) (regs : List (Reg × Word)) (fl : Option Fl) :
    (wordResult k regs fl).arch = wordResult k.arch regs fl := by
  unfold wordResult
  rw [← writeRegs_arch]
  rfl

/-- A word that leaves the fabric alone leaves its core waiting for nothing. -/
theorem endWord_fab {s : State} {c : Core} (trap world : Bool) (accs : List (Word × Bool × Bool)) (hf : s.cores[c].flow = none)
    (hw : ∀ i : Fin 2, s.cores[c].watch[i].ctrl.getLsbD 31 = false) : (endWord s c trap world accs none).fab = s.fab := by
  unfold endWord
  dsimp only
  rw [watchAct_off _ _ (by rw [finishWord_next hf, updCore_same]; exact hw), finishWord_next hf]
  rfl

/-- A calm word without a memory access writes its registers and flags and moves on. -/
theorem runPlans_noMem {s : State} {c : Core} {p : Pace} {ps : List Plan} (hm : ps.findSome? (·.mem) = none)
    (hf : s.cores[c].flow = none) (hw : ∀ i : Fin 2, s.cores[c].watch[i].ctrl.getLsbD 31 = false) :
    (runPlans s c p ps).arch = (s.updCore c fun k => wordResult k (ps.flatMap (·.regs)) (ps.findSome? (·.fl))).arch ∧
    (runPlans s c p ps).fab = s.fab := by
  unfold runPlans
  dsimp only
  rw [hm]
  dsimp only
  have hfab : (payWord s c (ps.foldl (fun (a : Cost) q => a.max q.cost) ⟨1, 1⟩) 0 0).fab = s.fab := spend_fab ..
  revert hfab
  generalize hq : ps.foldl (fun (a : Cost) q => a.max q.cost) ⟨1, 1⟩ = own
  have hp := payWord_arch s c own 0 0
  generalize payWord s c own 0 0 = t at hp
  intro hfab
  have e1 : t.cores[c].flow = none := by rw [arch_get c (·.flow) hp]; exact hf
  have e2 : ∀ i : Fin 2, t.cores[c].watch[i].ctrl.getLsbD 31 = false := by
    have : t.cores[c].watch = s.cores[c].watch := arch_get c (·.watch) hp
    rw [this]; exact hw
  obtain ⟨g, hg⟩ := writeRegs_fields (ps.flatMap (·.regs)) t.cores[c]
  have key : ∀ o : Option Fl, ((t.updCore c fun k => match o with
        | some f => { writeRegs k (ps.flatMap (·.regs)) with fl := f } | none => writeRegs k (ps.flatMap (·.regs))).cores[c]) =
      { t.cores[c] with g := g, fl := o.getD t.cores[c].fl } := by
    intro o
    rw [updCore_same, hg]
    cases o <;> rfl
  have e4 : ∀ o : Option Fl, (t.updCore c fun k => match o with
        | some f => { writeRegs k (ps.flatMap (·.regs)) with fl := f } | none => writeRegs k (ps.flatMap (·.regs))).cores[c].flow = none :=
    fun o => (congrArg CoreState.flow (key o)).trans e1
  have e5 : ∀ o : Option Fl, ∀ i : Fin 2, (t.updCore c fun k => match o with
        | some f => { writeRegs k (ps.flatMap (·.regs)) with fl := f }
        | none => writeRegs k (ps.flatMap (·.regs))).cores[c].watch[i].ctrl.getLsbD 31 = false :=
    fun o i => (congrArg (fun k : CoreState => k.watch[i].ctrl.getLsbD 31) (key o)).trans (e2 i)
  refine ⟨?_, (endWord_fab _ _ _ (e4 _) (e5 _)).trans hfab⟩
  rw [endWord_next]
  · generalize ps.findSome? (·.fl) = o
    have hc := arch_core hp c
    have : ((t.updCore c fun k => match o with
        | some f => { writeRegs k (ps.flatMap (·.regs)) with fl := f } | none => writeRegs k (ps.flatMap (·.regs))).updCore c
          fun k => { k with pc := k.pc + 4 }).arch = (t.updCore c fun k => wordResult k (ps.flatMap (·.regs)) o).arch := by
      refine arch_eq_iff.2 ⟨rfl, fun d => ?_⟩
      by_cases hd : d = c
      · subst hd
        rw [updCore_same, updCore_same, updCore_same]
        unfold wordResult
        cases o <;> (dsimp only [Option.getD]; rw [hg])
      · rw [updCore_other _ _ _ _ hd, updCore_other _ _ _ _ hd, updCore_other _ _ _ _ hd]
    refine Eq.trans this (updCore_arch c hp ?_)
    rw [wordResult_arch, wordResult_arch, hc]
  · exact e4 _
  · exact e5 _
  · intro x hx; exact absurd hx (by simp)

/-! ### The causes and the effect depend on the architecture alone -/

theorem slotPlan_arch (k : CoreState) (x : Slot) : slotPlan k.arch x = slotPlan k x := rfl

theorem plans_arch (k : CoreState) (c : Core) (w : TWord) : plans k.arch c w = plans k c w := by
  cases w <;> rfl

theorem wordCause_arch (k : CoreState) (c : Core) (w : TWord) : wordCause k.arch c w = wordCause k c w := by
  unfold wordCause
  rw [plans_arch]
  cases w <;> rfl

/-- What a calm word that is no delay slot runs, when it is legal, permitted and has no cause of its own. -/
theorem runWord_plain {s : State} {c : Core} {p : Pace} {w : TWord} (h : calmWord s c p = true) (hi : w.illegal = none)
    (hp : w.privileged = false ∨ s.cores[c].priv = true) (hc : wordCause s.cores[c] c w = none) :
    ∃ t, t.arch = s.arch ∧ coreAsking t c = false ∧ runWord s c p w = slipAct s (cueSettle
      (let u := runPlain t c p w
       if coreAsking u c && u.cores[c].blk.isNone then unpaid t u c else u)) c p.slip := by
  simp only [calmWord, Bool.and_eq_true, Option.isNone_iff_eq_none] at h
  obtain ⟨t, ha, hk, ht⟩ := runWord_calm h.1 w
  obtain ⟨-, -, -, -, h3, h4, -⟩ := calm_facts h.1
  refine ⟨t, ha, hk, ?_⟩
  rw [ht, decodeRun_plain (by rw [arch_get c (·.sec) ha]; exact h3) (by rw [arch_get c (·.ded) ha]; exact h4) hi
    (Or.inr (by rw [arch_get c (·.flow) ha]; exact h.2)) (by rw [arch_get c (·.priv) ha]; exact hp)
    (by rw [arch_get c (fun k => wordCause k c w) ha (fun k => wordCause_arch k c w)]; exact hc)]

/-- A calm word whose plans make no memory access: its registers, its flags, the next word. -/
theorem runWord_regs {s : State} {c : Core} {p : Pace} {w : TWord} {ps : List Plan} (h : calmWord s c p = true)
    (hi : w.illegal = none) (hp : w.privileged = false ∨ s.cores[c].priv = true) (hc : wordCause s.cores[c] c w = none)
    (hw : ∀ t, runPlain t c p w = runPlans t c p ((plans t.cores[c] c w).getD [])) (hs : plans s.cores[c] c w = some ps)
    (hm : ps.findSome? (·.mem) = none) :
    (runWord s c p w).arch = (s.updCore c fun k => wordResult k (ps.flatMap (·.regs)) (ps.findSome? (·.fl))).arch := by
  obtain ⟨t, ha, hk, ht⟩ := runWord_plain (p := p) h hi hp hc
  simp only [calmWord, Bool.and_eq_true, Option.isNone_iff_eq_none] at h
  obtain ⟨-, -, -, -, -, -, -, -, h7, -, h9⟩ := calm_facts h.1
  have hr := runPlans_noMem (s := t) (c := c) (p := p) hm (by rw [arch_get c (·.flow) ha]; exact h.2)
    (by have := arch_get c (·.watch) ha; rw [this]; exact h7)
  have hps : plans t.cores[c] c w = some ps := by
    rw [arch_get c (fun k => plans k c w) ha (fun k => plans_arch k c w)]; exact hs
  have key : (runPlans t c p ps).arch = (s.updCore c fun k => wordResult k (ps.flatMap (·.regs)) (ps.findSome? (·.fl))).arch := by
    rw [hr.1]
    refine updCore_arch c ha ?_
    rw [wordResult_arch, wordResult_arch, arch_core ha c]
  have hq : quiet (runPlans t c p ps) = true := by
    rw [quiet_arch key, ← h9]; rfl
  rw [ht, slipAct_arch, hw, hps, Option.getD_some]
  dsimp only
  have hu : coreAsking (runPlans t c p ps) c = false := (asking_eq c (by rw [hr.2])).trans hk
  rw [hu]
  show (cueSettle (runPlans t c p ps)).arch = _
  rw [cueSettle_quiet hq, key]

end Sys2Proof.Machine
end

