-- ==== Sys2Proof/Machine/Pins.lean ====
section
/-!
DEFINITION. What the BL24 drives on its output pins in every phase (25_pins_electrical.md, R513, R514), from the state alone. The levels of the
serial and GPIO pads are in SerialOps (`padLevel`), and a pad under EXTEST takes its level from the boundary register (R491, R514).
-/

namespace Sys2Proof.Machine

/-- The state of a pad (R513): high-impedance, with the fixed pull-down of a LOUT pin; driven to a level; driven high for the first LCLK
periods of a PWM period; clamped to VSSA; an output voltage of range × code ÷ 1,024; released, for an open-drain pin; driven with a stream; under boundary
scan. -/
inductive Pad where
  | hiZ
  | level (high : Bool)
  | pulse (high period : Nat)
  | clamped
  | code (range : Bool) (code : Nat)
  | released
  | driven
  | scan
deriving DecidableEq, Repr

/-- The Reset column of R513 holds: a reset, and the first stage up to the release of the stage cores (R249, R253). -/
def pinsReset (s : State) : Bool := s.boot.stage = .reset || s.boot.stage = .release

/-- EXTEST drives every scanned pad from the boundary register (R491, R514). -/
def underScan (s : State) (p : Pad) : Pad := if s.dbg.extest then .scan else p

/-- LOUTn (R388-R392, R513, R514): high-impedance up to the opening of the Curtain, in STANDBY and while LANES is dark; low in NAP and for a lane
that does not run. -/
def loutPad (s : State) (n : Fin 24) : Pad :=
  let l := s.lane[n]
  underScan s (
    if pinsReset s || !curtainOpen s || prDark s || !lanesUp s then .hiZ
    else if s.pwr.mode ≠ .run || l.st ≠ 2 || l.low then .level false
    else if l.mode = 2 then .level l.pdmOut
    else .pulse l.high (l.per + 1))

/-- SPDd (R424, R425, R513, R514). -/
def spdPad (s : State) (d : Fin 8) : Pad :=
  if pinsReset s || prDark s || spdClamped s d then .clamped else .code s.spd[d].now (spdInForce s d)

/-- nHATN (R218, R513): driven low for attention, and released in NAP and STANDBY, and before link-up. -/
def nhatnPad (s : State) : Pad := underScan s (if linkAttn s then .level false else .released)

/-- VSET (R360, R362, R513): as Elvuk has set it, `none` for high-impedance. -/
def vsetPin (s : State) : Option (BitVec 16) := if pinsReset s || prDark s then none else s.pwr.vset

/-- VCEN (R342, R513). -/
def vcenPad (s : State) : Pad := underScan s (.level (vcen s))

/-- The trace port (R475, R513): driven while the stream goes to it, low in NAP. -/
def trcPad (s : State) : Pad :=
  underScan s (
    if pinsReset s || !curtainOpen s || prDark s || !s.trc.sink || s.variant ≠ .x then .hiZ
    else if s.pwr.mode ≠ .run then .level false
    else .driven)

end Sys2Proof.Machine
end

