-- ==== Sys2Proof/WellFormed.lean ====
section
/-!
DEFINITION. Which commands are well formed: the ranges that the spec gives an operand and that its type does not already
give it. `exec` is total on ill-formed commands too; what such a command means is no claim about the hardware.
-/

namespace Sys2Proof.WellFormed

open Sys2Proof.Machine

/-- At most 1,024 argument bytes reach Elvuk from the host (R209) and through REQUEST_INDIRECT (R224), at most 56 in a
REQUEST (R224); a result area holds at most 1,024 bytes (R224). -/
def reqOk (r : Req) : Bool :=
  match r.who with
  | .host _ _ => r.args.length ≤ 1024
  | .core _ _ _ => r.args.length ≤ 56
  | .coreIndirect _ _ _ _ cap => r.args.length ≤ 1024 && cap ≤ 1024

/-- What a failed flash operation leaves is at most the sector it was to erase (R276). -/
def failOk (f : Option FlashFail) : Bool :=
  match f with
  | some f => f.left.bytes.length ≤ 4096
  | none => true

/-- At most eight pulses go to one word (R334, R335). -/
def pulsesOk (l : List Pulse) : Bool := l.length ≤ 8

/-- A nonce has 32 bytes (R305). -/
def nonceOk (l : List Byte) : Bool := l.length = 32

/-- The wake reasons are 1 to 11 (R352). -/
def wakeOk (reason : BitVec 4) : Bool := 1 ≤ reason.toNat && reason.toNat ≤ 11

/-- A transaction of the fabric is a read, a write or a line fetch of 1 to 32 bytes (R152). -/
def txnOk (t : Txn) : Bool := t.kind ≠ 3 && 1 ≤ t.bytes && t.bytes ≤ 32

/-- A DATA packet carries 4 to 512 bytes, a multiple of 4 (R408). -/
def statOk (payload : List Byte) : Bool := 4 ≤ payload.length && payload.length ≤ 512 && payload.length % 4 = 0

/-- A CEC frame has 1 to 16 blocks (R434). -/
def cecOk (blocks : List Byte) : Bool := 1 ≤ blocks.length && blocks.length ≤ 16

/-- Durations alternate from the first mark and saturate at 65,535 (R446). -/
def irOk (l : List Nat) : Bool := l ≠ [] && l.all fun d => 1 ≤ d && d ≤ 65535

/-- A transfer moves at most 32 bytes (R461). -/
def i2cOk (e : I2cEnd) : Bool :=
  match e with
  | .done d => d.length ≤ 32
  | .nackAddr => true
  | .nackData n => n ≤ 32
  | .arbLost n d => n ≤ 32 && d.length ≤ 32

/-- A command is well formed. The constructors that the last arm takes have operands of which every value is one of the
spec's. -/
def ok (i : Instr) : Bool :=
  match i with
  | .undefinedOpcode _ _ w => (decodeWord w).illegal.isSome
  | .bwrGrant arrive _ => arrive.all txnOk
  | .reservedLinkOpcode op _ => op = 0 || 5 ≤ op.toNat
  | .userCommand r code => reqOk r && isUser code.toNat
  | .unknownCommand r code => reqOk r && !isUser code.toNat && !elvCodes.contains code.toNat
  | .ping r | .getInfo r | .getFeatures r | .getResetHistory r | .getBootStatus r | .powerSetState r | .powerGetState r
  | .powerSetWake r | .powerSetPoint r _ | .leaveSetBudget r | .leaveGetStats r | .corePower r | .domainDark r | .imageStatus r
  | .setRead r | .setWrite r | .setDelete r | .otpRead r | .otpScan r _ | .authResponse r _ | .authDrop r | .authStatus r
  | .cecConfig r | .cecSend r | .cecStandbyFilter r | .irConfig r | .keypadConfig r | .wakeKeys r | .laneFrame r _
  | .laneSafeAll r | .wdCountRead r | .wdCountClear r | .keyDerive r | .keyRelease r | .coreRestart r
  | .coreQuarantineStatus r => reqOk r
  | .installBegin r _ f | .installData r _ f | .installEnd r _ f | .imageConfirm r _ f | .imageReject r _ f | .setCommit r _ f
  | .setStartFresh r _ f => reqOk r && failOk f
  | .otpProgram r l | .otpReinforce r l | .lifecycleAdvance r l => reqOk r && pulsesOk l
  | .authChallenge r nonce => reqOk r && nonceOk nonce
  | .dbgAuth _ nonce => nonceOk nonce
  | .flashOpDone (some l) => l.bytes.length ≤ 4096
  | .otpOpDone l => pulsesOk l
  | .firstStage f => failOk f
  | .napWake reason => wakeOk reason
  | .standbyWake reason _ _ _ => wakeOk reason
  | .frameEvent src => src.toNat < 3
  | .waitCap _ lane => lane.toNat < 24
  | .waitPh _ lane _ => lane.toNat < 24
  | .statDataPacket _ payload => statOk payload
  | .cecFrameReceived blocks _ => cecOk blocks
  | .irFrameEnd _ l => irOk l
  | .i2cTransferEnd _ e => i2cOk e
  | .i2cStretchTimeout _ moved data => moved ≤ 32 && data.length ≤ 32
  | .dbgAccessReservedOp op _ _ _ => 10 ≤ op.toNat
  | .bypass ir => !([0, 1, 2, 8, 9].contains ir.toNat)
  | _ => true

end Sys2Proof.WellFormed
end

