-- ==== Sys2Proof/Tests/Slice0.lean ====
section
/-!
SUPPORT. Tests: an ill-formed command for each check of WellFormed; for every statement, states and operands that meet the
hypotheses of each of its clauses (witness_…); values from the spec's own examples and tables, and single steps (test_…).
-/

namespace Sys2Proof.Tests

set_option Elab.async false

open Sys2Proof Sys2Proof.Machine

/-! ### WellFormed -/

theorem ill_formed_refused :
    ([.undefinedOpcode 0 ⟨0, 0, 0, 0⟩ 0x02000000, .bwrGrant [⟨0, 0, 3, 0, 0, 4⟩] true, .bwrGrant [⟨0, 0, 0, 0, 0, 33⟩] true, .reservedLinkOpcode 1 0,
      .userCommand ⟨.host 0 0, []⟩ 0x7EFF, .unknownCommand ⟨.host 0 0, []⟩ 1, .unknownCommand ⟨.host 0 0, []⟩ 0x7F00,
      .ping ⟨.host 0 0, List.replicate 1025 0⟩, .keyDerive ⟨.core 0 true 0, List.replicate 57 0⟩,
      .setRead ⟨.coreIndirect 0 true 0 0 1025, []⟩, .installBegin ⟨.host 0 0, []⟩ none (some ⟨0, ⟨List.replicate 4097 0, false⟩⟩),
      .otpProgram ⟨.host 0 0, []⟩ (List.replicate 9 ⟨0, 0⟩), .authChallenge ⟨.host 0 0, []⟩ [1], .dbgAuth 0 [],
      .flashOpDone (some ⟨List.replicate 4097 0, false⟩), .otpOpDone (List.replicate 9 ⟨0, 0⟩),
      .firstStage (some ⟨0, ⟨List.replicate 4097 0, false⟩⟩), .napWake 0, .standbyWake 12 false 0 0, .frameEvent 3, .waitCap 0 24,
      .waitPh 0 31 0, .statDataPacket 0 [1, 2, 3], .cecFrameReceived [] none, .irFrameEnd 0 [], .irFrameEnd 0 [65536],
      .i2cTransferEnd 0 (.done (List.replicate 33 0)), .i2cStretchTimeout 0 33 [], .dbgAccessReservedOp 9 0 0 0, .bypass 8]
      : List Instr).all (fun i => !WellFormed.ok i) = true := by decide +kernel

theorem well_formed_accepted :
    ([.undefinedOpcode 0 ⟨0, 0, 0, 0⟩ 0, .bwrGrant [⟨0, 0, 2, 0, 0, 32⟩] true, .reservedLinkOpcode 5 0, .reservedLinkOpcode 0 9,
      .userCommand ⟨.host 0 0, List.replicate 1024 0⟩ 0x7F00, .unknownCommand ⟨.host 0 0, []⟩ 6, .keyDerive ⟨.core 0 true 0, List.replicate 56 0⟩,
      .otpProgram ⟨.host 0 0, []⟩ (List.replicate 8 ⟨0, 0⟩), .napWake 11, .frameEvent 2, .waitCap 0 23, .statDataPacket 0 (List.replicate 512 0),
      .cecFrameReceived (List.replicate 16 0) none, .irFrameEnd 0 [65535], .i2cTransferEnd 0 (.nackData 32), .dbgAccessReservedOp 10 0 0 0,
      .bypass 31] : List Instr).all WellFormed.ok = true := by decide +kernel

/-! ### States for the witnesses -/

def core0 : CoreState :=
  { run := .running, pc := 0x18000010, fl := 0b0110, rs := [0x20000, 0x18000400], tvecS := 0x10001000, tvecO := 0x10020000, state := 3
    g := #v[0, 0x18000100, 0x80000000, 0xFFFFFFFF, 7, 0x10000040, 0xC0, 0x12345678, 3, 0x80000001, 0xFFFF8000, 5, 0, 0x18000203, 0x10000100, 0x18001000] }

/-- A device in use: core 0 runs in its own CLS, the Curtain is open, the link is up, and leave is held for two seats. -/
def st : State :=
  let s := State.reset
  { s with pwr := { s.pwr with dom := 0x3FFF }, cores := putV s.cores 0 core0, tb := 12345678, sys := { s.sys with phase := 2 }
           link := { s.link with up := true, evtch := 2 }, lv := { s.lv with held := putV s.lv.held 3 15 }
           boot := { s.boot with stage := .done, life := 1 } }

def pace : Pace := ⟨0, 0, 0, 0⟩

/-- The same with core 0 changed. -/
def stC (f : CoreState → CoreState) : State := st.updCore 0 f

/-- A stage core, the Prompter and another stage core as ports. -/
def pc0 : Port := ⟨0, 0⟩
def pp : Port := ⟨8, 0⟩

/-! ### Twiard words -/

theorem witness_ImmediateAndAluWords :
    calmWord st 0 pace = true ∧ stackOk st.cores[(0 : Core)] 15 0 = true ∧
    calmWord (stC fun k => { k with dsl := 0x18001000 }) 0 pace = true ∧
    stackOk (stC fun k => { k with dsl := 0x18001000 }).cores[(0 : Core)] 15 0x18001000 = true := by decide +kernel

theorem witness_ShiftFieldAndDivideWords :
    calmWord st 0 pace = true ∧ stackOk st.cores[(0 : Core)] 0 0 = true ∧ st.cores[(0 : Core)].tl = false ∧
    (0 : BitVec 5).toNat + (31 : BitVec 5).toNat + 1 ≤ 32 ∧ 32 < (1 : BitVec 5).toNat + (31 : BitVec 5).toNat + 1 ∧
    ((1 : Reg) ≠ 2 ∨ (2 : Reg) = 0) ∧ ((0 : Reg) ≠ 0 ∨ (0 : Reg) = 0) := by decide +kernel

theorem witness_LoadWords :
    calmWord st 0 pace = true ∧ coreBus st 0 = true ∧ memOk st 0 .read 0x101FF7FC 4 = true ∧ noOverlap st 0 0x101FF7FC 4 = true ∧
    memOk st 0 .read 0x18003FFC 4 = true ∧ noOverlap st 0 0x18003FFC 4 = true ∧ memOk st 0 .read 0x18003FFE 2 = true ∧
    memOk st 0 .read 0x18003FFF 1 = true ∧
    (let s := stC fun k => { k with sb := [⟨0x1C000200, 4, 1, true, true⟩, ⟨0x10000040, 4, 5, true, false⟩, ⟨0x10000044, 4, 6, true, false⟩] }
     calmWord s 0 pace = true ∧ ([⟨0x10000044, 4, 6, true, false⟩] : List SbEntry).all (fun y => !y.overlaps 0x10000040 4) = true ∧
     (⟨0x10000040, 4, 5, true, false⟩ : SbEntry).overlaps 0x10000040 4 = true ∧ memOk s 0 .read 0x10000040 4 = true ∧
     (targetOf 0x10000040).buffered = true) := by decide +kernel

theorem witness_StoreAndAtomicWords :
    calmWord st 0 pace = true ∧ regionOf 0x18003FFC = .ownCls ∧ memOk st 0 .write 0x18003FFC 4 = true ∧ memOk st 0 .write 0x18003FFE 2 = true ∧
    memOk st 0 .write 0x18003FFF 1 = true ∧ (targetOf 0x101FF7FC).buffered = true ∧ st.cores[(0 : Core)].sb.length < 8 ∧
    memOk st 0 .write 0x101FF7FC 4 = true ∧ memOk st 0 .write 0x101FF7FE 2 = true ∧ memOk st 0 .write 0x101FF7FF 1 = true ∧
    (stC fun k => { k with sb := List.replicate 7 ⟨0x10000000, 4, 0, true, false⟩ }).cores[(0 : Core)].sb.length < 8 ∧
    st.cores[(0 : Core)].sb = [] ∧ coreBus st 0 = true ∧ memOk st 0 .atomic 0x1C007FFC 4 = true := by decide +kernel

theorem witness_FenceAndWaitWords :
    calmWord st 0 pace = true ∧ st.cores[(0 : Core)].sb = [] ∧ st.cores[(0 : Core)].tl = false ∧ listenNext st 0 = none ∧
    (let s := stC fun k => { k with sb := List.replicate 8 ⟨0x10000000, 4, 0, true, false⟩ }
     calmWord s 0 pace = true ∧ coreBus s 0 = true) ∧
    (stC fun k => { k with state := 0x103 }).cores[(0 : Core)].tl = true ∧ calmWord (stC fun k => { k with state := 0x103 }) 0 pace = true := by
  decide +kernel

theorem witness_FlowWords :
    (let k := st.cores[(0 : Core)]
     calmWord st 0 pace = true ∧ (14 : BitVec 4) ≠ 15 ∧ k.rs.length < 256 ∧ (k.reg 1).toNat % 4 = 0 ∧ k.rs ≠ [] ∧ k.priv = true ∧ k.world = true ∧
     ((0x7FFF : BitVec 16).getLsbD 15 = false ∨ k.world = true) ∧ k.tl = false) ∧
    (∀ r ∈ [List.replicate 256 4, []], let s := stC fun k => { k with rs := r }
     calmWord s 0 pace = true ∧ s.cores[(0 : Core)].tl = false ∧ (s.cores[(0 : Core)].reg 1).toNat % 4 = 0 ∧ s.cores[(0 : Core)].rs = r) ∧
    (let s := stC fun k => { k with state := 1, rs := List.replicate 255 4 }
     calmWord s 0 pace = true ∧ s.cores[(0 : Core)].world = false ∧ (0x8000 : BitVec 16).getLsbD 15 = true ∧ s.cores[(0 : Core)].rs.length < 256) ∧
    (let s (f : FlowKind) : State := stC fun k => { k with flow := some ⟨0x1800000C, f⟩ }
     stackOk (s (.ret 8)).cores[(0 : Core)] 5 0 = true ∧ calm (s (.branch none false)) 0 pace = true ∧ calm (s (.branch (some 8) true)) 0 pace = true ∧
     calm (s (.call 8 4 true)) 0 pace = true ∧ calm (s (.ret 8)) 0 pace = true ∧ calm (s (.rett 8 1 3)) 0 pace = true ∧
     calm (s (.trap 0x0B 3)) 0 pace = true ∧ (s (.trap 0x0B 3)).cores[(0 : Core)].tl = false ∧
     (s (.trap 0x0B 3)).cores[(0 : Core)].hctrl = false) := by decide +kernel

theorem witness_SystemRegisterAndReturnStackWords :
    calmWord st 0 pace = true ∧ st.cores[(0 : Core)].priv = true ∧ st.cores[(0 : Core)].world = true ∧ stackOk st.cores[(0 : Core)] 15 0 = true ∧
    st.sec = [] ∧ st.ded = [] ∧ st.poison = [] ∧ 0x18003BFC % 4 = 0 ∧ 0x18003BFC + 1028 ≤ 0x18004000 ∧
    (∀ i < 257, inTable st (0x18003BFC + 4 * i) = false) ∧ st.cores[(0 : Core)].rs.length ≤ 256 ∧
    ((st.put (physAddr 0 0x18003BFC) [0, 1]).word (physAddr 0 0x18003BFC)).toNat ≤ 256 ∧
    256 < ((st.put (physAddr 0 0x18003BFC) [1, 1]).word (physAddr 0 0x18003BFC)).toNat ∧ st.cores[(0 : Core)].tl = false := by decide +kernel

theorem witness_PairWords :
    calmWord st 0 pace = true ∧ pairBad ⟨1, 4, 1, 0⟩ ⟨1, 5, 2, 0⟩ = none ∧ (slotPlan st.cores[(0 : Core)] ⟨1, 4, 1, 0⟩).mem = none ∧
    (slotPlan st.cores[(0 : Core)] ⟨1, 5, 2, 0⟩).mem = none ∧ (slotPlan st.cores[(0 : Core)] ⟨1, 4, 1, 0⟩).limit 0 = none ∧
    (slotPlan st.cores[(0 : Core)] ⟨1, 5, 2, 0⟩).limit 0 = none ∧
    regionOf 0x18000FFC = .ownCls ∧ memOk st 0 .write 0x18000FFC 4 = true ∧ stackOk st.cores[(0 : Core)] 15 0x18000FFC = true ∧
    (14 : BitVec 4) ≠ 15 ∧ regionOf 0x18001000 = .ownCls ∧ memOk st 0 .read 0x18001000 4 = true := by decide +kernel

theorem witness_WordsThatTrap :
    calmWord st 0 pace = true ∧ st.cores[(0 : Core)].tl = false ∧ (decodeWord 0).illegal = some (0, 0) ∧
    (let s := stC fun k => { k with state := 0 }
     calmWord s 0 pace = true ∧ s.cores[(0 : Core)].priv = false ∧ s.cores[(0 : Core)].tl = false) ∧
    0x18000203 % 4 ≠ 0 ∧ 0x18000203 % 2 ≠ 0 ∧
    (let s := stC fun k => { k with dsl := 0x18001004 }
     calmWord s 0 pace = true ∧ stackOk s.cores[(0 : Core)] 15 0x18001000 = false) ∧
    (let s := stC fun k => { k with rs := List.replicate 256 4 }
     calmWord s 0 pace = true ∧ 256 ≤ s.cores[(0 : Core)].rs.length) ∧
    (let s := stC fun k => { k with rs := [] }
     calmWord s 0 pace = true ∧ s.cores[(0 : Core)].rs = []) ∧
    (let s := stC fun k => { k with state := 0x103 }
     calmWord s 0 pace = true ∧ s.cores[(0 : Core)].tl = true) ∧
    targetOf 0x08000000 ≠ .periph ∧ staticAns st (coreWho st 0) .read 0x08000000 4 ≠ 0 ∧ staticAns st (coreWho st 0) .write 0x08000000 4 ≠ 0 := by
  decide +kernel

/-! ### Queue words and core events -/

/-- One open user queue 0x100 of core 0's, with its messages, and two buffers of core 0, the second queued. -/
def stQ (msgs : List Msg) : State :=
  { st with cue := { st.cue with queues := [⟨0x100, true, true, false, 0, 0, 15, 3, none, false, msgs⟩], k := 9 }
            pool := { st.pool with tags := [⟨1, 1, 0, 9, 0⟩, ⟨2, 2, 0, 9, 0x100⟩] }, mem := memPut [] 0x101C0040 [4, 1, 2, 3, 4] }

theorem witness_QueueWords :
    calmWord (stQ []) 0 pace = true ∧ (stQ []).cores[(0 : Core)].sb = [] ∧ cueWaits (stQ []) 0 = false ∧ cueBad (stQ []) 0x100 = false ∧
    sendCheck (stQ []) 0x100 0x101C0040 0 true none = 0 ∧ 2 ≤ sendCheck (stQ []) 0x1FF 0x101C0040 0 true none ∧
    2 ≤ sendCheck (stQ []) 0x100 0x101C0080 0 true none ∧ (stQ []).pwr.mode = .run ∧ (stQ []).pwr.entering = none ∧
    (stQ []).cue.table = none ∧ (stQ []).cue.halt = false ∧ (queueOf (stQ []) 0x100).msgs = [] ∧
    (let s := stQ [⟨0x101C0080, true⟩]
     let x := queueOf s 0x100
     calmWord s 0 pace = true ∧ queueExists s 0x100 = true ∧ x.isOpen = true ∧ isDevice 0x100 = false ∧ x.consumer = 15 ∧ x.secure = false ∧
     descDark s 0x100 = false ∧ descBad s 0x100 = false ∧ x.msgs.head? = some ⟨0x101C0080, true⟩) := by decide +kernel

/-- Core 0 listens to queue 0x10, which holds a message. -/
def stL (r : CoreRun) : State :=
  { st with cue := { st.cue with queues := [⟨0x10, true, true, false, 1, 11, 0, 3, some (0, 7), true, [⟨0x101C0080, true⟩]⟩] } }.updCore 0 fun k =>
    { k with run := r, listen := putV k.listen 7 { en := true, level := 7, queue := 0x10, world := true }, lineReq := some ⟨8, false, 0⟩
             sb := [⟨0x10000040, 4, 5, true, false⟩] }

theorem witness_CoreEvents :
    (∀ r ∈ [CoreRun.running, CoreRun.waiting],
      coreUp (stL r) 0 = true ∧ (stL r).cores[(0 : Core)].run = r ∧ (stL r).cores[(0 : Core)].flow = none ∧ (stL r).cores[(0 : Core)].stopped = false ∧
      coreInWord (stL r) 0 = false ∧ (stL r).cores[(0 : Core)].held = none ∧ listenNext (stL r) 0 = some 7) ∧ coreReady (stL .running) 0 = true ∧
    (stL .running).cores[(0 : Core)].lineReq = some ⟨8, false, 0⟩ ∧ lineHeld (stL .running) 0 8 = false ∧
    (stL .running).cores[(0 : Core)].sb = [⟨0x10000040, 4, 5, true, false⟩] ∧ admits (stL .running) 0 9 32 = true ∧ memAnswer (stL .running) ⟨⟨0, 0⟩, true, true⟩ .write 0x10000040 4 = 0 ∧
    (let s := stC fun k => { k with held := some { addr := 0x1234, answer := 6, dropped := 7, more := true } }
     s.cores[(0 : Core)].held.isSome = true ∧ coreUp s 0 = true ∧ coreReady s 0 = true ∧ s.cores[(0 : Core)].run = .running ∧ s.cores[(0 : Core)].tl = false ∧
     s.cores[(0 : Core)].flow = none ∧ s.cores[(0 : Core)].stopped = false ∧ coreInWord s 0 = false) := by decide +kernel

/-! ### Registers, the fabric, DMA, the Cue engine, the pool -/

theorem witness_RegisterAccesses :
    (let s := (stQ []).updCore 0 fun k => { k with listen := putV k.listen 7 { level := 1 } }
     let x := queueOf s 0x100
     canWrite s pc0 0xE0000070 = true ∧ s.cores[(0 : Core)].listen[(7 : Fin 8)].en = false ∧ s.cores[(0 : Core)].world = true ∧
     queueExists s 0x100 = true ∧ x.isOpen = true ∧ isDevice 0x100 = false ∧ x.bound = none ∧ x.consumer = 15 ∧ x.secure = false ∧
     s.cores[(0 : Core)].listen[(7 : Fin 8)].level ≠ 0 ∧ (queueOf s 0x101).isOpen = false ∧ canWrite s pc0 0xE0000100 = true ∧
     s.cores[(0 : Core)].metEn = false) ∧
    (let s := stC fun k => { k with metEn := true, metNm1 := 63 }
     canWrite s pc0 0xE0000100 = true ∧ s.cores[(0 : Core)].metEn = true ∧ (0x1FF : Word).setWidth 6 = s.cores[(0 : Core)].metNm1) ∧
    canWrite st pp 0x40060004 = true ∧ canWrite st pp 0x40060008 = true ∧ canWrite st pp 0x40050000 = true ∧ (portWho st pp).secure = true ∧
    24 ≤ ((24 : Word).setWidth 16).toNat ∧ canWrite st pp 0x400903C0 = true ∧ st.dma[(15 : Fin 16)].busy = false ∧ portMay st pp = true ∧
    portMay st pc0 = true ∧ st.cores[(0 : Core)].sb = [] ∧ st.cores[(0 : Core)].held = none ∧ st.cores[(0 : Core)].flow = none ∧
    st.cores[(0 : Core)].tl = false ∧ quiet st = true ∧ regionOf 0x400A0000 = .periph 0xA 0 ∧ blockAt 0xA = none ∧ canWrite st pp 0x40080004 = true ∧
    canWrite st pp 0x40060028 = true ∧ canWrite st pp 0x40070018 = true := by decide +kernel

theorem witness_PaceAndRegulator :
    canWrite st pp 0x40000020 = true ∧ ((0x60 : Word) >>> 4 &&& 0x1F).toNat = 6 ∧ ((0x100 : Word) >>> 4 &&& 0x1F).toNat = 16 ∧
    ({ st with sys := { st.sys with paceRun := some (16, 12280142) } }).sys.paceRun = some (16, 12280142) ∧ 12280142 + 2 ^ 16 ≤ st.tb.toNat ∧
    canWrite st pp 0x40051000 = true ∧ (portWho st pp).secure = true ∧ 12 ≤ ((0x8000000C : Word).setWidth 11).toNat ∧
    ((0x600 : Word).setWidth 11).toNat ≤ 1536 ∧ canWrite st pp 0x40050138 = true ∧ masterPresent st.variant 14 = true ∧
    (putV st.fab.alloc 14 1).toList.sum ≤ tagCount st.variant ∧ tagCount st.variant < (putV st.fab.alloc 14 4095).toList.sum ∧
    (let s := { st with bwr := { st.bwr with start := 12345678 - st.bwr.window } }
     s.bwr.start + s.bwr.window ≤ s.tb.toNat ∧ s.tb.toNat < s.bwr.start + s.bwr.window + s.bwr.wantWin ∧ s.tb.toNat ≤ s.bwr.start + s.bwr.window ∧
     canWrite s pp 0x40051000 = true) := by decide +kernel

/-- Two accepted transactions of SRAM: a write and a read. -/
def stF : State :=
  { st with
    fab := { st.fab with
      accepted := [(⟨⟨8, 0, 1, 0x101FFFFC, 7, 4⟩, true, true⟩, 12345654), (⟨⟨0, 0, 0, 0x10000000, 0, 4⟩, true, true⟩, 0)]
      limit := 24 }
    cue := { st.cue with tbase := 0x10100000 }
    bwr := { st.bwr with start := 12345670 } }

theorem witness_FabricArbitration :
    stF.fab.waiting = [] ∧ masterPresent stF.variant 9 = true ∧ inSram 0x10000100 = true ∧ accept stF (portWho stF ⟨9, 0⟩) .read 0x10000100 4 = 0 ∧
    admits stF 9 1 4 = true ∧ stF.tb.toNat < stF.bwr.start + stF.bwr.window ∧
    stF.fab.accepted[0]? = some (⟨⟨8, 0, 1, 0x101FFFFC, 7, 4⟩, true, true⟩, 12345654) ∧ quiet stF = true ∧ inSram 0x101FFFFC = true ∧ stF.sec = [] ∧
    memAnswer stF (portWho stF pp) .write 0x101FFFFC 4 = 0 ∧ wordBad stF 0x101FFFFC = false ∧
    stF.fab.accepted[1]? = some (⟨⟨0, 0, 0, 0x10000000, 0, 4⟩, true, true⟩, 0) ∧ inSram 0x10000000 = true ∧
    memAnswer stF (portWho stF pc0) .read 0x10000000 4 = 0 ∧ stF.cores[(0 : Core)].sb = [] ∧ stF.cores[(0 : Core)].held = none ∧
    stF.cores[(0 : Core)].run = .running ∧ stF.cores[(0 : Core)].tl = false ∧ stF.cores[(0 : Core)].flow = none ∧ coreInWord stF 0 = false ∧
    12345654 + stF.fab.limit ≤ stF.tb.toNat ∧
    (let s := { stF with dma := putV stF.dma 15 { busy := true, held := some (12345654, 0x4), put := 3 } }
     s.dma[(15 : Fin 16)].held = some (12345654, 0x4) ∧ s.dma[(15 : Fin 16)].queue = 0 ∧ quiet s = true) := by decide +kernel

/-- Channel 15 with a block of `n` words, idle or at work. -/
def stD (b : Bool) (n : Nat) : State :=
  { st with dma := putV st.dma 15 { src := 0x10000200, dst := 0x10000208, len := natW (4 * n), busy := b, secure := true } }

theorem witness_DmaChannel :
    canWrite (stD false 8) pp 0x400903CC = true ∧ (stD false 8).dma[(15 : Fin 16)].busy = false ∧ (stD false 8).dma[(15 : Fin 16)].len ≠ 0 ∧
    (0x14 : Word).getLsbD 3 = false ∧ (0x14 : Word).getLsbD 5 = false ∧ canWrite (stD true 8) pp 0x400903CC = true ∧
    (∀ n ∈ [1, 8],
      let s := stD true n
      let w := portWho s ⟨9, 15⟩
      quiet s = true ∧ s.sec = [] ∧ s.ded = [] ∧ s.poison = [] ∧ s.pwr.mode = .run ∧ s.dma[(15 : Fin 16)].busy = true ∧
      s.dma[(15 : Fin 16)].count = 0 ∧ s.dma[(15 : Fin 16)].queue = 0 ∧ s.dma[(15 : Fin 16)].len = BitVec.ofNat 32 (4 * n) ∧
      s.dma[(15 : Fin 16)].buf = [] ∧ s.dma[(15 : Fin 16)].put = 0 ∧ s.dma[(15 : Fin 16)].adm = 0 ∧ s.dma[(15 : Fin 16)].held = none ∧
      admits s 9 1 64 = true ∧ s.dma[(15 : Fin 16)].srcFix = false ∧ s.dma[(15 : Fin 16)].dstFix = false ∧
      (∀ i < n, inSram (0x10000200 + 4 * i) = true ∧ memAnswer s w .read (0x10000200 + 4 * i) 4 = 0 ∧ inSram (0x10000208 + 4 * i) = true ∧
        memAnswer s w .write (0x10000208 + 4 * i) 4 = 0)) := by decide +kernel

theorem witness_CueEngine :
    (let s := { stQ [] with cue := { (stQ []).cue with arg0 := putV st.cue.arg0 8 0xE8E0003F } }
     let x := queueOf s 0x100
     canWrite s pp 0x40060000 = true ∧ s.cue.table = none ∧ queueExists s 0x100 = true ∧ queueExists s 0x1FF = true ∧ (queueOf s 0x1FF).isOpen = false ∧
     (queueOf s 0x1FF).msgs = [] ∧ s.cue.arg0[(8 : Master)] &&& 0x000FFFC0 = 0 ∧ (s.cue.arg0[(8 : Master)]).extractLsb' 28 2 ≠ (3 : BitVec 2) ∧
     (s.cue.arg0[(8 : Master)]).extractLsb' 24 4 ≠ (15 : BitVec 4) ∧ x.isOpen = true ∧ x.secure = false ∧ descBad s 0x100 = false ∧ x.bound = none) ∧
    (∀ k ∈ [8, 16],
      let s := { st with cue := { st.cue with arg0 := putV st.cue.arg0 8 0x10100000, arg1 := putV st.cue.arg1 8 (natW k) } }
      canWrite s pp 0x40060000 = true ∧ s.cue.table = none ∧ (s.cue.arg1[(8 : Master)]).toNat = k ∧ 0x10100000 % (8 * 2 ^ k) = 0 ∧
      sramOn s 0x10100000 (8 * 2 ^ k) = true ∧ overlaps 0x10100000 (8 * 2 ^ k) s.pool.base.toNat (64 * poolCount s.pool) = false ∧ s.cue.queues = []) ∧
    (let s := { st with cue := { st.cue with table := some ⟨8, 0x10100000, 9⟩ } }
     s.cue.table = some ⟨8, 0x10100000, 9⟩ ∧ quiet s = true ∧ memWf s.mem = true) := by decide +kernel

/-- A POOL_ALLOC of the Prompter that waits beyond its limit. -/
def stW : State :=
  { st with pool := { st.pool with waits := [⟨.read 8, 1, 30⟩] }
            fab := { st.fab with blocked := [{ port := pp, kind := .poolAlloc, addr := 0x40070004, arrival := 30 }] } }

theorem witness_BufferPool :
    canRead st pp 0x40070004 = true ∧ (∀ c ∈ [(1 : Fin 16)], allocClass st 8 = some c ∧ poolCan st.pool c = true) ∧
    (let s := stQ []
     canWrite s pc0 0x40070008 = true ∧ poolIndex s.pool 5 = none ∧ poolIndex s.pool 0x101C0000 = some 0 ∧ poolTag s.pool 0 = none ∧
     poolIndex s.pool 0x101C0040 = some 1 ∧ poolTag s.pool 1 = some ⟨1, 1, 0, 9, 0⟩ ∧ poolIndex s.pool 0x101C0080 = some 2 ∧
     poolTag s.pool 2 = some ⟨2, 2, 0, 9, 0x100⟩) ∧
    stW.pool.waits = [⟨.read 8, 1, 30⟩] ∧ stW.cue.held = [] ∧ 30 + stW.pool.cls[(1 : Fin 16)].waitlim ≤ stW.now ∧
    stW.fab.blocked = [{ port := pp, kind := .poolAlloc, addr := 0x40070004, arrival := 30 }] ∧
    canWrite st pp 0x40070000 = true ∧ 64 ≤ poolMax st.variant ∧ st.pool.tags = [] ∧
    sramOn st 0x10000000 (64 * 16384) = true ∧ overlaps 0x10000000 (64 * 16384) st.cue.tbase.toNat (8 * 2 ^ st.cue.k) = false ∧
    (∀ c ∈ [(0 : Fin 16), 15], canWrite st pp (BitVec.ofNat 32 (0x40070100 + 0x20 * c.val)) = true ∧
      canWrite st pp (BitVec.ofNat 32 (0x40070100 + 0x20 * c.val + 4)) = true) ∧
    (let q (r : Nat) : Pool := { st.pool with cls := updV st.pool.cls 15 fun k => { k with res := r } }
     poolSumRes (q 0) ≤ poolCount (q 0) ∧ poolShared (q 0) ≤ poolCount (q 0) - poolSumRes (q 0) ∧ poolCount (q 0x7FFF) < poolSumRes (q 0x7FFF)) ∧
    canWrite st pp 0x40070020 = true := by decide +kernel

/-! ### The host link -/

/-- Channel 2 expects sequence 5, keeps one reply, and has one request before the one given. -/
def stK (c : LinkChan → LinkChan) (k : Link → Link) : State :=
  { st with link := k { st.link with chan := putV st.link.chan 2 (c { e := 5, credits := 1, kept := [⟨0x84, 9, [1, 2]⟩], unread := [4] }) } }

def longFrame : Perup := ⟨0xBF, 0x7FFF, List.replicate 1024 0x5A⟩

theorem witness_FrameRoundTrip :
    linkServes (stK id id) = true ∧ longFrame.payload.length ≤ 1024 ∧ (stK id fun k => { k with rx := [longFrame] }).link.rx.length < 2 ∧
    ([1] : List Byte) ≠ [] ∧ ([0xA6] : List Byte).head? ≠ some 0xA7 := by decide +kernel

theorem witness_HostLink :
    (stK id id).link.tx = [] ∧ linkServes (stK id fun k => { k with tx := [⟨⟨0x84, 9, [1, 2]⟩, false⟩] }) = true ∧
    (⟨0x84, 9, [1, 2]⟩ : Perup).bytes.length ≤ 10 ∧ (stK id id).link.chan[(⟨0x84, 9, [1, 2]⟩ : Perup).chan].unread.contains (⟨0x84, 9, [1, 2]⟩ : Perup).seq = true ∧
    4 < (5 : Byte).toNat ∧ linkServes (stK id fun k => { k with rx := [⟨0x85, 5, [1]⟩] }) = true ∧
    (⟨0x85, 5, [1]⟩ : Perup).seq = (stK id id).link.chan[(⟨0x85, 5, [1]⟩ : Perup).chan].e ∧ 0 < (stK id id).link.chan[(2 : Fin 4)].credits ∧
    (stK (fun c => { c with credits := 0 }) id).link.chan[(2 : Fin 4)].credits = 0 ∧
    ((stK id id).link.chan[(2 : Fin 4)].e - (⟨0x84, 5, [1]⟩ : Perup).seq).toNat = 1 ∧
    ((stK id id).link.chan[(2 : Fin 4)].kept.find? fun r => r.seq = (⟨0x84, 5, [1]⟩ : Perup).seq) = some ⟨0x84, 9, [1, 2]⟩ ∧
    ((stK (fun c => { c with e := 7 }) id).link.chan[(2 : Fin 4)].e - (⟨0x84, 5, [1]⟩ : Perup).seq).toNat = 3 ∧
    3 < ((stK id id).link.chan[(2 : Fin 4)].e - (⟨0x81, 5, [1]⟩ : Perup).seq).toNat := by decide +kernel

/-- The host's request on channel ch, which Elvuk can take up. -/
def ask (ch : Fin 4) (code : BitVec 16) (args : List Byte) (s : State := st) : State :=
  { s with link := { s.link with chan := putV s.link.chan ch { e := 2, credits := 2, reqs := [⟨1, code, args, false, none⟩] } } }

/-- A message of firmware for Elvuk, and a USER request that waits for it. -/
def mail (type : Nat) (body : List Byte) : State :=
  { st with elv := { st.elv with inbox := [⟨0, true, type, body⟩] }
            link := { st.link with chan := putV st.link.chan 2 { reqs := [⟨1, 0x7F01, [], false, some 345678⟩] } } }

theorem witness_UserCommands :
    (let s := ask 3 0x7FFF (List.replicate 54 1)
     hostAsks s 3 1 0x7FFF (List.replicate 54 1) = true ∧ poolCan s.pool 1 = true ∧ userFits s 3 1 = true ∧ cueWaits s 8 = false ∧
     descDark s 0x93 = false ∧ descBad s 0x93 = false ∧ 8 ≤ s.cue.k ∧ (queueOf s 0x93).pmode = 1 ∧ (queueOf s 0x93).producer = 8 ∧ memWf s.mem = true ∧
     s.pool.base.toNat % 64 = 0 ∧ s.pool.base.toNat + 64 * poolCount s.pool ≤ 2 ^ 32) ∧
    (∀ x ∈ ([(2, [1, 2, 2, 1, 3, 2, 9]), (3, [1, 2, 2, 1, 3, 2] ++ leBytes 4 0x10000100 ++ leBytes 2 1022), (4, [1])] : List (Nat × List Byte)),
      let s := mail x.1 x.2
      s.pwr.mode = .run ∧ s.pwr.entering = none ∧ s.sys.phase = 2 ∧ quiet s = true ∧ (queueOf s 0xC0).msgs = [] ∧
      s.elv.inbox = [⟨0, true, x.1, x.2⟩] ∧ (elvJob s (.core 0)).isNone = true ∧
      s.link.chan[(2 : Fin 4)].reqs = [⟨1, 0x7F01, [], false, some 345678⟩] ∧ elvArea s 0x10000100 1022 true = none ∧ s.link.up = true ∧
      (s.link.tx.filter (·.event)).length < 16) ∧
    345678 + (mail 2 []).link.userto * 24000 ≤ (mail 2 []).now := by decide +kernel

/-! ### Commands of Elvuk -/

theorem witness_QueriesReply :
    (∀ x ∈ ([(1, List.replicate 56 7), (2, []), (3, []), (4, [7, 1]), (4, [0, 8]), (5, []), (0x102, []), (0x106, [0]), (0x206, []), (0x504, []),
      (0x901, []), (0xB02, [])] : List (BitVec 16 × List Byte)), hostAsks (ask 3 x.1 x.2) 3 1 x.1.toNat x.2 = true) ∧
    st.boot.life ≠ 0 := by decide +kernel

def kpdArgs : List Byte :=
  [5, 0] ++ ([3932, 3870, 3900, 48, 126, 253, 508, 1019, 2048, 4096, 2000, 3, 500, 150] : List Nat).flatMap (leBytes 2)

def irArgs : List Byte := [1, 1] ++ leBytes 4 (9000 + 4500 * 65536) ++ leBytes 4 (560 + 3 * 65536 + 32 * 2 ^ 24) ++
  leBytes 4 (30 + 256 + 2 * 65536 + 20 * 2 ^ 24) ++ leBytes 2 0

theorem witness_SetupAndLaneCommands :
    (∀ x ∈ ([(0x103, leBytes 4 127 ++ leBytes 4 0), (0x103, leBytes 4 1 ++ leBytes 4 0xFFFFFFFF), (0x105, leBytes 2 40), (0x105, leBytes 2 400),
      (0x601, [0, 0, 0x34, 0x12, 7, 0]), (0x603, 16 :: List.replicate 16 0x82), (0x603, [0]), (0x701, irArgs), (0x702, kpdArgs),
      (0x703, [8, 63, 0, 0] ++ List.replicate 32 9), (0x902, []), (0x801, leBytes 4 0x800001 ++ leBytes 4 0xFFFFF ++ leBytes 4 7), (0x802, [])]
      : List (BitVec 16 × List Byte)), hostAsks (ask 3 x.1 x.2) 3 1 x.1.toNat x.2 = true) ∧
    st.lv.waiting = [] ∧ st.lv.held.toList.sum ≤ 40 ∧ st.boot.life ≠ 0 ∧ st.cec.tx = none ∧ st.cec.poll = none ∧
    irArgs.length = 16 ∧ irField ⟨.host 3 1, irArgs⟩ = true ∧ irRange ⟨.host 3 1, irArgs⟩ = true ∧ kpdArgs.length = 30 ∧
    kpdRange st ⟨.host 3 1, kpdArgs⟩ = true ∧ ((List.finRange 24).filter fun n => (0x800001 : BitVec 24).getLsbD n.val).length = 2 ∧
    (0x800001 : BitVec 24).toNat < 2 ^ laneCount st.variant ∧ lanesUp st = true := by decide +kernel

/-- With the supply behind the I2C controller, as OTP word 0x4A says. -/
def stV : State := { st with otp := { st.otp with loaded := [(0x4A, 1)] } }

theorem witness_PowerCommands :
    (∀ x ∈ ([(0x101, [0, 0]), (0x101, [1, 0]), (0x101, [2, 0]), (0x104, leBytes 2 620), (0x104, leBytes 2 1100), (0x108, [11, 2]), (0x108, [13, 0])]
      : List (BitVec 16 × List Byte)), hostAsks (ask 3 x.1 x.2) 3 1 x.1.toNat x.2 = true) ∧
    hostAsks (ask 3 0x104 (leBytes 2 950) stV) 3 1 0x104 (leBytes 2 950) = true ∧
    ({ st with pwr := { st.pwr with wakeMask := 1 } }).pwr.wakeMask ≠ 0 ∧ otpHalf st 0x49 false 620 ≤ 620 ∧ 1100 ≤ otpHalf st 0x49 true 1100 ∧
    otpRuns st = false ∧ vsetI2c st = false ∧ vsetI2c stV = true ∧ st.boot.life ≠ 0 ∧
    (∀ d ∈ [(11 : Fin 32), 13], domPresent st.variant d = true ∧ st.pwr.drain.getLsbD d.val = false ∧ st.pwr.coming.contains d = false ∧
      st.pwr.dom.getLsbD d.val = true ∧ ({ st with pwr := { st.pwr with dom := 3 } }).pwr.dom.getLsbD d.val = false ∧
      hostAsks (ask 3 0x108 [BitVec.ofNat 8 d.val, 2] { st with pwr := { st.pwr with dom := 3 } }) 3 1 0x108 [BitVec.ofNat 8 d.val, 2] = true ∧
      hostAsks (ask 3 0x108 [BitVec.ofNat 8 d.val, 0] { st with pwr := { st.pwr with dom := 3 } }) 3 1 0x108 [BitVec.ofNat 8 d.val, 0] = true) ∧
    st.elv.jobs = [] ∧ st.fab.accepted = [] := by decide +kernel

/-- Core 7 is quarantined; core 6 is off. -/
def stR : State :=
  { st with cores := putV st.cores 7 { run := .quarantined }, pwr := { st.pwr with dom := 0x3CFF }
            pool := { st.pool with tags := [⟨1, 3, 7, 9, 0⟩, ⟨2, 2, 8, 1, 0xA7⟩] }
            cue := { st.cue with queues := [{ queueDefault .x 0xA7 with msgs := [⟨0x101C0080, true⟩] }] } }

theorem witness_CoreCommands :
    st.boot.life ≠ 0 ∧ 7 < coreCount st.variant ∧ st.elv.jobs = [] ∧ st.lv.waiting = [] ∧ st.fab.accepted = [] ∧ st.fab.blocked = [] ∧
    (∀ c ∈ [(0 : Core), 6, 7], st.pwr.drain.getLsbD (2 + c.val) = false ∧ st.pwr.coming.contains ⟨2 + c.val, by omega⟩ = false ∧
      st.lv.held[33 + c.val] = 0 ∧ st.cores[c].sb = [] ∧ cryOwner st false ≠ some (coreM c)) ∧
    st.lv.held.toList.sum + 35 ≤ st.lv.budget ∧
    hostAsks (ask 3 0x107 [0, 1]) 3 1 0x107 [0, 1] = true ∧ hostAsks (ask 3 0x107 [0, 0]) 3 1 0x107 [0, 0] = true ∧ st.pwr.dom.getLsbD 2 = true ∧
    hostAsks (ask 3 0x107 [6, 1] stR) 3 1 0x107 [6, 1] = true ∧ hostAsks (ask 3 0x107 [6, 0] stR) 3 1 0x107 [6, 0] = true ∧
    stR.pwr.dom.getLsbD 8 = false ∧ stR.cores[(6 : Core)].run = .off ∧ stR.cores[(7 : Core)].run = .quarantined ∧ stR.boot.life ≠ 2 ∧
    stR.lv.held.toList.sum + 35 ≤ stR.lv.budget ∧ hostAsks (ask 3 0xB01 [7] stR) 3 1 0xB01 [7] = true := by decide +kernel

/-! ### Images, settings, OTP, authorisation -/

/-- An image header of 256 bytes (R279), built by hand with a P-256 key, for the body [1, 2, 3, 4]: its bytes, most significant first. -/
def imgHead : List Byte := beBytes 256
  0x424C4954070000000001000004010000000009000000000000000000000000009F64A747E1B97F131FABB6B447296C9B6F0201E79FB3C5356E6C77E89B6A806AF9EBE464147CC102D92324D099D927C1A50E42D57A08A116FFEC0A29819D8C6570BAF7D12888902A6A0C1D67ADD103123C859AB69BF8E9431C9384930D4B7EEE000000000000000000000000000000000000000000000000000000000000000000000000000000000000000000000000000000000000000000000000000000008E8B4AA496887F3A0ABF6D586E11180DDAB6852D677EC594D8BC4BE89F94A117EFD024B090B36730DB4E4793C1959C5F829C7D8D194B57E4BDB10DA4BA19F0CC

/-- The SHA-256 of the key in it. -/
def keyHash : List Byte := beBytes 32 0xB4A554A124A36EF1564C565670DFFEDA3D8AD292C43394A18DC91B0BBCDA8111

/-- The key and its signature over the message of R306 for a nonce of 32 bytes 0x01, level FULL, channel 3. -/
def authArgs : List Byte := beBytes 128
  0xF9EBE464147CC102D92324D099D927C1A50E42D57A08A116FFEC0A29819D8C6570BAF7D12888902A6A0C1D67ADD103123C859AB69BF8E9431C9384930D4B7EEE8E8B4AA496887F3A0ABF6D586E11180DDAB6852D677EC594D8BC4BE89F94A1177C226C065ED9E7614BEA3EBDE99E8500A86973DB414E5B94B8AB40A0ABB7B861

/-- OTP with the key's hash as image key and as debug key of level FULL. -/
def keyed (s : State) : State :=
  let words (a : Nat) : List (Nat × Word) := (List.range 8).map fun i => (a + i, natW (argN keyHash (4 * i) 4))
  { s with otp := { s.otp with loaded := words 0x18 ++ words 0x28 ++ [(7, 2)] } }

/-- A session of channel 3 for slot A, with what it has received. -/
def ses (n g : Nat) (h p : List Byte) : Session := { who := .chan 3, slot := false, length := n, got := g, head := h, part := p }

def stI (k : Session) (s : State := st) : State :=
  { s with install := { s.install with session := some k, state := 1, stage := 1, journal := some ⟨k.slot, 1, 0, 0, false⟩ } }

theorem witness_InstallSession :
    (∀ n ∈ [256, 0x100000],
      let s := ask 3 0x201 (leBytes 4 n)
      hostAsks s 3 1 0x201 (leBytes 4 n) = true ∧ n % 4 = 0 ∧ 256 ≤ n ∧ n ≤ flashBank s.variant ∧ runsTrial s = false ∧ flashReady s = true ∧
      leaveReady s 40 = true ∧ s.install.session = none ∧ recInUse s = none) ∧
    (∀ x ∈ [(ses 0x100000 0 [] [], 4), (ses 0x100000 256 (List.replicate 256 5) [], 1020), (ses 260 252 (List.replicate 252 5) [], 8),
        (ses 0x100000 260 (List.replicate 256 5) [1, 2, 3, 4], 1020)],
      let k := x.1
      let d : List Byte := List.replicate x.2 9
      let s := ask 3 0x202 (leBytes 4 k.got ++ d) (stI k)
      hostAsks s 3 1 0x202 (leBytes 4 k.got ++ d) = true ∧ s.install.session = some k ∧ k.who = .chan 3 ∧ flashReady s = true ∧
      leaveReady s 25 = true ∧ 4 ≤ d.length ∧ d.length ≤ 1020 ∧ d.length % 4 = 0 ∧ k.got + d.length ≤ k.length ∧ k.length ≤ flashBank s.variant ∧
      (k.part.length + 256 ≤ k.got ∨ (k.got = k.head.length ∧ k.part = []))) ∧
    (let k := ses 512 512 (List.replicate 256 7) []
     let s := ask 3 0x203 [] (stI k)
     hostAsks s 3 1 0x203 [] = true ∧ s.install.session = some k ∧ flashReady s = true ∧ leaveReady s 40 = true ∧ recInUse s = none ∧ k.got = k.length ∧
     k.head.length = 256 ∧ k.part = [] ∧ installHeadOk s k = false) := by decide +kernel

/-- A boot record in copy 0 (R280). -/
def recA (stt tr : Byte) : BootRec := ⟨7, 1, tr, 2, stt, 0, 0, 3, 4, 1, 4⟩

def stT : State := { (st.put 0x200020 (recA 1 1).bytes) with boot := { st.boot with slot := some true } }

theorem witness_TrialDecisions :
    stT.boot.life ≠ 0 ∧ flashReady stT = true ∧ leaveReady stT 25 = true ∧ stT.boot.slot = some true ∧ runsTrial stT = true ∧
    recCopy stT = some (false, recA 1 1) ∧ (recBlank stT true).isSome = true ∧ (recBlank stT false).isSome = true ∧
    hostAsks (ask 3 0x204 [] stT) 3 1 0x204 [] = true ∧ hostAsks (ask 3 0x205 [2] stT) 3 1 0x205 [2] = true ∧
    hostAsks (ask 3 0x305 [] stT) 3 1 0x305 [] = true ∧ (recA 1 1).nextgen.toNat ≤ (recA 1 1).cgen.toNat + 1 := by decide +kernel

/-- A settings store with one sector and one entry. -/
def stS (batch : List Staged) : State :=
  let s := (st.put 0x200020 (recA 0 0xFF).bytes).put 0x201000 (sectorBytes 1 0 ++ entryBytes 9 9 2 [])
  { s with key := { s.key with setEnc := List.replicate 16 3, setMac := List.replicate 32 4 }, boot := { s.boot with slot := some true, schMax := 0x99 }
           sets := { batches := if batch.isEmpty then [] else [(.chan 3, batch)] } }

def big : List Byte := List.replicate 1016 5

/-- The store with one committed record of key 0x55. -/
def stS' : State :=
  let s := stS []
  let e := entryBytes 0x55 0x11 1 [1, 2, 3]
  let s := s.put 0x20101C (e ++ entryBytes 0xFFFF 0 3 (leBytes 4 3 ++ leBytes 4 1 ++ (hmac s.key.setMac (leBytes 4 3 ++ e)).take 16))
  ask 3 0x301 [0x55, 0] s

/-- OTP words that are worn, full, and of the keys' places. -/
def stO (s : State := st) : State :=
  { s with lv := { s.lv with held := Vector.replicate 41 0 }
           otp := { s.otp with cells := ((List.range 8).map fun i => ⟨0x10 + i, 1, 1, 1⟩) ++ ((List.range 8).map fun i => ⟨0x18 + i, 1, 1, 1⟩) ++
             [⟨0x30, otpCode 5, 0, otpCode 5⟩, ⟨0x210, otpCode 6, otpCode 6, otpCode 6⟩] } }

def stO0 : State := stO { st with boot := { st.boot with life := 0 } }

theorem witness_OtpCommands :
    (∀ x ∈ [(0x18, 1), (0, 16), (0x3FF, 1)], hostAsks (ask 3 0x401 (leBytes 2 x.1 ++ leBytes 2 x.2) stO) 3 1 0x401 (leBytes 2 x.1 ++ leBytes 2 x.2) = true) ∧
    (stO).otp.busy = none ∧ (otpReadAll stO 0x3FF 1).isSome = true ∧ otpRuns stO = false ∧
    hostAsks (ask 3 0x404 [0, 0, 0, 4] stO) 3 1 0x404 [0, 0, 0, 4] = true ∧
    (let a := leBytes 2 0x3FF ++ leBytes 4 0x1234
     hostAsks (ask 3 0x402 a stO) 3 1 0x402 a = true ∧ otpMay (stO).boot.life 0x3FF = true ∧ vddLow stO = false ∧ leaveReady stO 30 = true ∧
     otpWordOf (stO).otp 0x3FF = ⟨0x3FF, 0, 0, 0⟩) ∧
    (hostAsks (ask 3 0x403 [0x30, 0] stO) 3 1 0x403 [0x30, 0] = true ∧ otpMay (stO).boot.life 0x30 = true) ∧
    (let a : List Byte := [1, 0x4C, 0x43, 0x41]
     hostAsks (ask 3 0x405 a stO0) 3 1 0x405 a = true ∧ otpCharged stO0 0x10 8 = true ∧ otpCharged stO0 0x18 8 = true ∧ otpRuns stO0 = false ∧
     leaveReady stO0 30 = true ∧ otpWordOf (stO0).otp 0 = ⟨0, 0, 0, 0⟩) := by decide +kernel

theorem witness_OtpCommands_pulses :
    otpProgram (otpWordOf (stO).otp 0x3FF) 0x1234 [⟨otpCode 0x1234, otpCode 0x1234⟩] = some (⟨0x3FF, otpCode 0x1234, otpCode 0x1234, otpCode 0x1234⟩, 0, 1) ∧
    otpReinforce (otpWordOf (stO).otp 0x30) [⟨otpCode 5, otpCode 5⟩] = some (⟨0x30, otpCode 5, otpCode 5, otpCode 5⟩, 0, 1) ∧
    (otpWordOf (stO).otp 0x30).normal ≠ 0 ∧
    otpProgram (otpWordOf (stO0).otp 0) 0x4C564544 [⟨otpCode 0x4C564544, otpCode 0x4C564544⟩] =
      some (⟨0, otpCode 0x4C564544, otpCode 0x4C564544, otpCode 0x4C564544⟩, 0, 1) :=
  ⟨otpProgram_once 0x3FF 0x1234, otpReinforce_once 0x30 5 (by decide), otpCode_ne 5 (by decide), otpProgram_once 0 0x4C564544⟩

def chall : Challenge := ⟨List.replicate 32 1, 2, 30⟩

def stH (d : Dbg) : State := { st with dbg := d, key := { st.key with reserve := 8, stopped := false } }

theorem witness_Authorisation :
    hostAsks (ask 3 0x501 [2] (stH {})) 3 1 0x501 [2] = true ∧ (stH {}).dbg.failures < 8 ∧ (stH {}).key.stopped = false ∧ 8 ≤ (stH {}).key.reserve ∧
    (let s := ask 3 0x502 (List.replicate 128 0) (stH { chHost := some chall, failures := 7 })
     hostAsks s 3 1 0x502 (List.replicate 128 0) = true ∧ s.dbg.failures < 8 ∧ s.dbg.chHost = some chall ∧ authHeld s = false ∧ leaveReady s 15 = true ∧
     (debugSlot s (List.replicate 64 0)).isSome = false) ∧
    hostAsks (ask 3 0x503 [] (stH { level := 2, source := 2 })) 3 1 0x503 [] = true ∧
    (∀ tap ∈ [true, false],
      let s := { stH { chHost := some chall, chTap := some chall } with tb := 240000030 }
      chall.issued + 240000000 ≤ s.now ∧ (if tap then s.dbg.chTap else s.dbg.chHost) = some chall) := by decide +kernel

/-- A request of core 0 at Elvuk. -/
def coreAsk (code : Nat) (a : List Byte) (s : State := st) : State :=
  { s with elv := { s.elv with inbox := [⟨0, true, 0, leBytes 2 code ++ leBytes 2 0x77 ++ a⟩], spare := putV s.elv.spare 0 (some 0x101C0000) }
           pool := { s.pool with tags := [⟨0, 1, 8, 1, 0⟩] } }

theorem witness_KeysFramesAndUnknownCodes :
    (let a : List Byte := [2, 0, 0, 0] ++ List.replicate 16 7
     let s := coreAsk 0xA01 a { st with key := { st.key with drv := List.replicate 32 8, slots := putV (Vector.replicate 16 ⟨true, 5, 1, 0, [1]⟩) 15 ⟨false, 4095, 0, 0, []⟩ } }
     coreRequests s 0 0x77 0xA01 a = true ∧ s.boot.life ≠ 0 ∧ leaveReady s 15 = true ∧ ((List.finRange 16).find? fun i => !s.key.slots[i].held) = some 15) ∧
    (let h := leBytes 2 (4095 * 16 + 15)
     let s := coreAsk 0xA02 h { st with key := { st.key with slots := putV st.key.slots 15 ⟨true, 4095, 1, 0, [1]⟩ } }
     coreRequests s 0 0x77 0xA02 h = true ∧ s.key.slots[(15 : Fin 16)].held = true ∧ s.key.slots[(15 : Fin 16)].owner = 0) ∧
    (let a : List Byte := [0, 14] ++ List.replicate 15 1
     let s := ask 3 0x602 a { st with cec := { st.cec with mask := 0x4000 } }
     hostAsks s 3 1 0x602 a = true ∧ s.cec.mask.getLsbD 14 = true ∧ s.cec.tx = none ∧ s.cec.poll = none) ∧
    hostAsks (ask 3 0x7EFF [2]) 3 1 0x7EFF [2] = true ∧ elvCodes.contains 0x7EFF = false ∧ isUser 0x7EFF = false := by decide +kernel

/-! ### Controllers and leave -/

/-- The flash controller with an address and an operation at work. -/
def stFl (a : Word) (b : Option FlcOp) : State := { st with flc := { st.flc with addr := a, busy := b } }

/-- The OTP controller with an operation at work on a word of these cells. -/
def stOt (w : Nat) (b : Option (BitVec 4)) (cells : List OtpWord) : State :=
  { st with otp := { st.otp with busy := b.map fun o => (o, w), cells := cells, wdata := 77 } }

theorem witness_FlashAndOtpControllers :
    (∀ a ∈ [(0x1FFFFF, (1 : Fin 3)), (0, 0), (0x200830, 2)], flashArray (stFl (natW a.1) none) a.1 = some a.2 ∧ canWrite (stFl (natW a.1) none) pp 0x4F000000 = true) ∧
    (stFl 0 none).flc.busy = none ∧ quiet st = true ∧ st.fab.blocked = [] ∧ (stFl 0 (some (.erase 0x1FF000))).flc.busy = some (.erase 0x1FF000) ∧
    (stFl 0 (some (.erase 0x20F800))).flc.busy = some (.erase 0x20F800) ∧ (List.replicate 2048 (3 : Byte)).length = 2048 ∧
    (List.replicate 4096 (3 : Byte)).length = 4096 ∧
    (stFl 0 (some (.program 0x1FFFE0 (List.replicate 32 7)))).flc.busy = some (.program 0x1FFFE0 (List.replicate 32 7)) ∧
    canWrite (stOt 0 none []) pp 0x4F010000 = true ∧ (stOt 0 none []).otp.busy = none ∧ vddLow st = false ∧
    (∀ w ∈ [0xF, 0x10, 0x17, 0x18, 0x3FF], ∀ op ∈ [(1 : BitVec 4), 2, 3, 4, 5], (stOt w (some op) []).otp.busy = some (op, w)) ∧
    (∀ w ∈ [0xF, 0x18], w < 0x10 ∨ 0x17 < w) ∧ (otpWordOf (stOt 0x3FF (some 5) []).otp 0x3FF).charge = 0 := by decide +kernel

theorem witness_OtpController_cells :
    (∀ op : BitVec 4, otpWordOf (stOt 0x18 (some op) [⟨0x18, otpCode 77, otpCode 77, otpCode 77⟩]).otp 0x18 = ⟨0x18, otpCode 77, otpCode 77, otpCode 77⟩) ∧
    otpCode 77 ≠ 0 ∧ otpWordOf (stOt 0x18 (some 4) [⟨0x18, otpCode 77, 0, otpCode 77⟩]).otp 0x18 = ⟨0x18, otpCode 77, 0, otpCode 77⟩ ∧
    (0 : BitVec 39) &&& ~~~otpCode 77 = 0 ∧ (stOt 0x18 (some 3) []).otp.wdata = 77 :=
  ⟨fun _ => rfl, otpCode_ne 77 (by decide), rfl, by simp, rfl⟩

/-- Leave with one request that waits. -/
def stLv (w : List LvWait) : State := { st with lv := { st.lv with waiting := w } }

theorem witness_LeaveArbiter :
    canWrite st pp 0x40020000 = true ∧ st.lv.held[(7 : Fin 41)] = 0 ∧ st.lv.held[(3 : Fin 41)] ≠ 0 ∧ st.lv.waiting = [] ∧
    1 ≤ st.lv.budget ∧ st.lv.held.toList.sum + 1 ≤ st.lv.budget ∧ st.lv.held.toList.sum + (st.lv.budget - 15) ≤ st.lv.budget ∧
    st.lv.budget < st.lv.held.toList.sum + st.lv.budget ∧ st.lv.waitlim[(3 : Fin 4)] ≠ 0 ∧
    (∀ x ∈ (stLv [⟨17, 90, 2, 5⟩]).lv.waiting, x.r ≠ 7) ∧ (∀ x ∈ (stLv [⟨17, 90, 2, 5⟩]).lv.waiting, (1 : BitVec 2).toNat < x.cls.toNat) ∧
    (∀ r ∈ [(17 : Fin 41), 20, 32, 33, 40], (stLv [⟨r, 90, 3, 5⟩]).lv.waiting = [⟨r, 90, 3, 5⟩] ∧
      5 + (stLv [⟨r, 90, 3, 5⟩]).lv.waitlim[(3 : Fin 4)] ≤ (stLv [⟨r, 90, 3, 5⟩]).now ∧ (stLv [⟨r, 90, 3, 5⟩]).elv.jobs = [] ∧
      quiet (stLv [⟨r, 90, 3, 5⟩]) = true) ∧ (∃ x ∈ (stLv [⟨7, 90, 2, 5⟩]).lv.waiting, x.r = 7) ∧ (stLv [⟨7, 90, 2, 5⟩]).lv.held[(7 : Fin 41)] = 0 := by
  decide +kernel

/-! ### Resets, start-up, power -/

theorem witness_ResetsKeepAo :
    st.flc.busy = none ∧ st.otp.busy = none ∧ st.boot.stage ≠ .reset ∧ memWf st.mem = true ∧
    ({ st with elv := { st.elv with reject := some ⟨.host 3 63, 0⟩ } }).elv.reject = some ⟨.host 3 63, 0⟩ ∧
    ({ st with fatal := some 255 }).fatal = some 255 := by decide +kernel

/-- At a stage of the start-up, with candidates. -/
def stB (stage : BootStage) (c : List Bool) (s : State := st) : State :=
  { s with boot := { s.boot with stage := stage, cause := ⟨2, 7⟩, cands := c, slot := c.head? }, sys := {}, lv := {} }

theorem witness_StartUp :
    memWf st.mem = true ∧ (stB .reset []).boot.stage = .reset ∧ (stB .reset []).boot.cause.cause ≠ 1 ∧ (stB .reset []).boot.cause.cause ≠ 3 ∧
    (stB .release []).boot.cands = [] ∧ quiet (stB .release []) = true ∧ (stB .release []).boot.standby = false ∧ (stB .release []).boot.quick = false ∧
    (stB .release [true, false]).boot.cands = [true, false] ∧
    (let s := stB .verify [true] (st.put 0x10000C (leBytes 4 260))
     s.boot.stage = .verify ∧ s.boot.slot = some true ∧ memWf s.mem = true ∧ quiet s = true ∧ s.boot.standby = false ∧ s.sec = [] ∧ s.lv.waiting = [] ∧
     slotVerifies s true = false ∧ s.boot.cands = [true]) := by decide +kernel

/-- In a power mode, on its way to another, with wakes that have come. -/
def stM (m : PowerMode) (e : Option PowerMode) (w : List Nat) (o : Option ElvOrder) : State :=
  { st with pwr := { st.pwr with mode := m, entering := e, wakes := w, alarm := 3, alarmArmed := true, wakeMask := 1, napBanks := [0, 15], recTb := 800000, recRtc := 90000 }
            time := { st.time with rtc := 3 * 32768 }, elv := { st.elv with standby := o } }

theorem witness_SleepAndWake :
    (stM .run (some .nap) [] none).pwr.entering = some .nap ∧ (stM .run (some .nap) [] none).pwr.wakes = [] ∧ st.elv.jobs = [] ∧
    (∀ c : Core, (stM .run (some .nap) [] none).cores[c].sb = []) ∧
    (∀ r ∈ [(1 : BitVec 4), 11], (stM .nap none [1, 11] none).pwr.wakes.contains r.toNat = true) ∧ quiet (stM .nap none [1, 11] none) = true ∧
    standbyReady (stM .run none [] (some ⟨.host 2 3, 0⟩)) = true ∧ memWf (stM .run none [] (some ⟨.host 2 3, 0⟩)).mem = true ∧
    (stM .standby none [8] none).pwr.mode = .standby ∧ (stM .standby none [8] none).pwr.wakes.contains (8 : BitVec 4).toNat = true ∧
    (stM .standby none [8] none).pwr.early = false ∧ (stM .run none [] none).pwr.alarmArmed = true ∧
    (stM .run none [] none).pwr.alarm.toNat ≤ (stM .run none [] none).time.rtc / 32768 := by decide +kernel

def jobV : ElvJob := { req := ⟨.host 2 1, [9]⟩, code := 0x104, stage := .vset, res := [5, 6] }

/-- Domains that drain, come up, or are retried; a command that waits for the supply. -/
def stDm (dr : BitVec 32) (co : List (Fin 32)) (dom : BitVec 16) (js : List ElvJob) : State :=
  { st with pwr := { st.pwr with drain := dr, coming := co, dom := dom, retry := putV st.pwr.retry 7 (some 12321678) }
            elv := { st.elv with jobs := js }
            link := { st.link with chan := putV st.link.chan 2 { reqs := [⟨1, 0x104, [9], false, none⟩] } } }

theorem witness_DomainsAndSupply :
    (∀ d ∈ [(11 : Fin 32), 12, 13], let s := stDm (BitVec.ofNat 32 (2 ^ d.val)) [] 0x3C03 []
      s.pwr.drain.getLsbD d.val = true ∧ s.pwr.mode = .run ∧ s.lv.waiting = [] ∧ quiet s = true ∧ s.elv.jobs = []) ∧
    (∀ d ∈ [(10 : Fin 32), 13], let s := stDm 0 [10, 13] 3 []
      s.pwr.coming.contains d = true ∧ s.pwr.drain.getLsbD d.val = false ∧ s.pwr.dom.getLsbD d.val = false ∧ s.elv.jobs = [] ∧ quiet s = true) ∧
    (let s := stDm 0 [] 3 [jobV]
     s.elv.jobs = [jobV] ∧ jobV.stage = .vset ∧ jobV.delayed = none ∧ s.link.chan[(2 : Fin 4)].reqs = [⟨1, 0x104, [9], false, none⟩] ∧ quiet s = true) ∧
    (let s := stDm 0 [] 3 []
     s.pwr.retry[(7 : Core)] = some 12321678 ∧ 12321678 + 24000 ≤ s.now ∧ 7 < coreCount s.variant ∧ s.pwr.dom.getLsbD 9 = false ∧
     s.lv.held[(40 : Fin 41)] = 0 ∧ s.lv.held.toList.sum + 35 ≤ s.lv.budget) := by decide +kernel

/-! ### Watchdog and timers -/

def stWd (d : Wd) (m : PowerMode := .run) : State := { st with wd := d, pwr := { st.pwr with mode := m } }

theorem witness_WatchdogCommands :
    canWrite (stWd {}) pp 0x40040000 = true ∧ 8 ≤ ((0x208 : Word).setWidth 5).toNat ∧ ((0x018 : Word).setWidth 5).toNat ≤ 24 ∧
    (0x208 : Word).extractLsb' 8 2 ≠ (3 : BitVec 2) ∧ (stWd {}).wd.en = false ∧
    (let inside (d : Wd) : Bool := d.grace || decide (2 ^ d.period.toNat - 2 ^ d.period.toNat / 2 ^ (d.window.toNat + 1) ≤ d.count)
     (∀ d ∈ [({ en := true, period := 8, window := 0, count := 128, armed := true } : Wd), { en := true, grace := true, count := 0, armed := true }], inside d = true ∧
       canWrite (stWd d) pp 0x40040000 = true ∧ canWrite (stWd d) pp 0x40040004 = true) ∧
     (∀ d ∈ [({ en := true, period := 8, window := 0, count := 127, armed := true } : Wd), { en := true, period := 8, count := 127 },
        { en := true, period := 8, count := 127, warn := true }],
       inside d = false ∧ canWrite (stWd d) pp 0x40040000 = true ∧ canWrite (stWd d) pp 0x40040004 = true ∧ quiet (stWd d) = true ∧ (stWd d).dbg.level ≠ 2) ∧
     canPost (stWd { en := true, warn := true }) .watchdog = true) ∧
    (stWd { en := true, gwake := true } .run).pwr.mode = .run ∧ (stWd { en := true } .nap).pwr.mode ≠ .standby := by decide +kernel

def stTm (k : Tmr) : State := { st with time := { st.time with tmr := putV st.time.tmr 7 k } }

theorem witness_TimeBaseAndTimers :
    canRead st pp 0x40030000 = true ∧ canRead st pp 0x40030010 = true ∧ st.pwr.mode ≠ .standby ∧ quiet st = true ∧ (∀ a : Fin 4, st.adc[a].trig ≠ 2) ∧
    canPost (stTm { en := true, qen := 1, topNow := 5, count := 5, compare := 9 }) (.timer 7) = true ∧
    (let k : Tmr := { en := true, topNow := 0xFFFFFFFF, count := 0xFFFFFFFF, compare := 9 }
     k.count = k.topNow ∧ k.compare ≠ 0 ∧ k.qen.getLsbD 0 = false ∧ k.qen = 0) ∧
    (let k : Tmr := { en := true, topNow := 9, count := 4, compare := 5 }
     k.count ≠ k.topNow ∧ k.count + 1 = k.compare ∧ k.qen.getLsbD 1 = false) ∧
    (let k : Tmr := { capsrc := 7, pin := 31 }
     k.capsrc ≠ 0 ∧ 4 ≤ k.capsrc.toNat ∧ k.qen.getLsbD 2 = false) ∧
    canWrite st pp 0x400302C4 = true ∧ canWrite st pp 0x400302CC = true ∧ st.time.tmr[(7 : Fin 8)].en = false := by decide +kernel


/-! ### Lanes and the stat port -/

/-- All the conditions hold. -/
def hold (l : List Bool) : Bool := l.all id

def stLn (n : Fin 24) (l : Lane) (ph : BitVec 2 := 2) (budget : Nat := 120) (a : Adc := {}) : State :=
  { st with lane := putV st.lane n l, sys := { st.sys with phase := ph }, lv := { st.lv with budget := budget }
            adc := putV st.adc ⟨n.val / 6, by omega⟩ a, laneBlk := { fsrc := 1 } }

def laneOpen (n : Fin 24) (s : State) (v : Word) : Bool :=
  let r : Fin 41 := ⟨29 + n.val / 8, by omega⟩
  hold [n.val < laneCount s.variant, canWrite s pp (0x40100000 + 0x400 * BitVec.ofNat 32 n.val), s.lv.waiting = [], s.lane[n].mode = 0, s.lane[n].st = 0, s.lv.held[r] = 0,
    (List.finRange 24).all fun m => m == n || laneGroup m != r || s.lane[m].st != 1, !v.getLsbD 25, v.extractLsb' 16 4 = 0,
    (v.setWidth 3).toNat < 6, v.setWidth 3 ≠ (0 : BitVec 3), s.lane[n].spd = 0, !s.lane[n].outsel]

theorem witness_LanesAndFrames_opening :
    hold [
      (let s := stLn 23 {}; hold [laneOpen 23 s 0xD0000005, s.sys.phase = 2, s.lv.held.toList.sum + 10 ≤ s.lv.budget]),
      (let s := stLn 0 {} 1; hold [laneOpen 0 s 1, s.sys.phase ≠ 2, s.lv.held.toList.sum + 10 ≤ s.lv.budget]),
      (let s := stLn 0 {} 2 16; hold [laneOpen 0 s 1, s.lv.budget < s.lv.held.toList.sum + 10, 10 ≤ s.lv.budget, s.lv.waitlim[(1 : Fin 4)] ≠ 0])] = true := by
  decide +kernel

theorem witness_LanesAndFrames_controls :
    hold [
      (let s := stLn 0 { mode := 1, st := 2, seqen := true }
       hold [canWrite s pp 0x40100000, s.lv.waiting = [], s.lane[(0 : Fin 24)].mode ≠ 0, s.lane[(0 : Fin 24)].st ≠ 3,
         (List.finRange 24).all fun m => m == 0 || laneGroup m != 29 || s.lane[m].st == 0,
         canWrite s pp 0x40100004, s.lane[(0 : Fin 24)].st = 2, s.lane[(0 : Fin 24)].seqen, canWrite s pp 0x40100014, canWrite s pp 0x4010000C,
         s.lane[(0 : Fin 24)].mode ≠ 3, s.lane[(0 : Fin 24)].mode ≠ 5]),
      (let s := stLn 7 { mode := 3, st := 3 }
       hold [canWrite s pp 0x40101C04, s.lane[(7 : Fin 24)].st = 3, canWrite s pp 0x40101C0C, s.lane[(7 : Fin 24)].mode = 3])] = true := by decide +kernel

theorem witness_LanesAndFrames_frames :
    hold ([({ fsync := true, mode := 1, st := 2, tgtNext := 777 } : Lane), { mode := 3, st := 2, swait := some .frame, tgtNext := 4 },
      { mode := 0, st := 3, clrPend := true }].flatMap fun l => [(0 : Fin 24), 23].map fun n =>
        let s := stLn n l
        hold [s.pwr.mode = .run, quiet s, lanesUp s, s.lv.waiting = [], (1 : BitVec 2) = s.laneBlk.fsrc, canWrite s pp 0x40108004,
          (List.finRange 24).all fun n => s.lane[n].st != 4 && (s.lane[n].st != 3 || !s.lane[n].clrPend || s.lane[n].mode == 0) &&
            (s.lane[n].st != 2 || s.lane[n].mode != 5)]) = true := by decide +kernel

def laneEvent (n : Fin 24) (s : State) : Bool :=
  hold [n.val < laneCount s.variant, lanesUp s, s.pwr.mode = .run, quiet s, anaUp s]

theorem witness_LaneRegulation :
    hold [
      (let s := stLn 9 { mode := 3, st := 2 } 2 120 { en := true, conv := some .keypad }
       hold [laneEvent 9 s, !s.adc[(1 : Fin 4)].calib, !s.lane[(9 : Fin 24)].asked, !s.lane[(9 : Fin 24)].low]),
      (let s := stLn 9 { mode := 3, st := 2 } 2 120 { en := true, enabled := true }
       hold [laneEvent 9 s, !s.adc[(1 : Fin 4)].calib, s.adc[(1 : Fin 4)].conv = none, s.adc[(1 : Fin 4)].reqs = []]),
      (let s := stLn 23 { mode := 1, sense := true, st := 2, asked := true, nfault := 3, skipN := 1 } 2 120 { en := true, reqs := [23] }
       hold [laneEvent 23 s, s.adc[(3 : Fin 4)].reqs.contains 23, s.lane[(23 : Fin 24)].skipN + 1 < s.lane[(23 : Fin 24)].nfault]),
      (let s := stLn 9 { mode := 3, st := 2, inbox := some 555, tgt := 500000, kp := 3, ki := 77, integ := 12345, smax := 4000, nfault := 3 }
       let l := s.lane[(9 : Fin 24)]
       hold [laneEvent 9 s, l.factor ≠ 0, !l.log, 555 ≤ l.smax, 1 < l.nfault, l.smin ≤ 555]),
      laneEvent 0 (stLn 0 { mode := 4, st := 2, capedge := 1 }), (1 : BitVec 2).getLsbD 0, !(1 : BitVec 2).getLsbD 1,
      (let s := stLn 23 { mode := 4, st := 2, tachto := 3, duty := 99, runAt := 7 }
       hold [laneEvent 23 s, max s.lane[(23 : Fin 24)].edge s.lane[(23 : Fin 24)].runAt + 3 * 8192 ≤ s.now, s.sys.phase = 2, s.ec.fifo.length < 32, canPost s (.lane 23)]),
      laneEvent 5 (stLn 5 { mode := 1, st := 2, duty := 0xFFFFF, per := 399 })] = true := by decide +kernel

theorem witness_SequencerWords :
    hold ([(0 : Word), 0x10000003, 0x20FFFFFF, 0x30000000, 0x40000017, 0x5017FFFF, 0x6000000F, 0x70000FFF, 0x800000FF, 0x9ABCDEF0, 0xFFFFFFFF].flatMap fun w =>
      [({ mode := 1, st := 2, seqrun := true, slot := 15 } : Lane), { mode := 1, st := 2, seqrun := true, slot := 15, loopc := 1 },
        { mode := 1, st := 2, seqrun := true, slot := 15, loopc := 2, swait := some (.lclk 5) }].map fun l =>
      let s := stLn 23 { l with prog := Vector.replicate 16 w }
      let l := s.lane[(23 : Fin 24)]
      hold [laneEvent 23 s, l.st = 2, s.sys.phase = 2, l.seqrun, l.swait.all fun x => seqOver s x, !l.fsync, canPost s (.lane 23), s.ec.fifo.length < 32]) = true := by
  decide +kernel

theorem witness_SequencerWords_operands :
    (0x10000003 : Word) = 0x10000000 + (3 : BitVec 2).setWidth 32 ∧ (0x20FFFFFF : Word) = 0x20000000 + (0xFFFFFF : BitVec 24).setWidth 32 ∧
    (0x40000017 : Word) = 0x40000000 + (23 : BitVec 5).setWidth 32 ∧ (0x5017FFFF : Word) = 0x50000000 + (23 : BitVec 5).setWidth 32 * 65536 + (0xFFFF : BitVec 16).setWidth 32 ∧
    (0x6000000F : Word) = 0x60000000 + (15 : BitVec 4).setWidth 32 ∧ (0x70000FFF : Word) = 0x70000000 + (255 : BitVec 8).setWidth 32 * 16 + (15 : BitVec 4).setWidth 32 ∧
    (0x800000FF : Word) = 0x80000000 + (255 : BitVec 8).setWidth 32 ∧ 9 ≤ (0x9ABCDEF0 : Word).toNat / 2 ^ 28 ∧ 9 ≤ (0xFFFFFFFF : Word).toNat / 2 ^ 28 := by decide +kernel

def stSp (k : Stat) : State := { st with stat := k }

theorem witness_StatPort :
    hold [
      (let k : Stat := { en := true, active := true, rbase := 0x10004000, slot64 := 4, nslot := 3, slot := 2, begun := true, bytes := 8, seqExp := some 6 }
       let s := stSp k
       let a := k.rbase.toNat + k.slot * k.slot64 * 64
       let ok (a n : Nat) : Bool := (List.range n).all fun i => inSram (a + 4 * i) && memAnswer s (unitWho 12) .write (a + 4 * i) 4 == 0
       hold [k.active, k.en, statUp s, s.pwr.mode = .run, quiet s, s.sec = [], s.ded = [], s.poison = [], k.rbase.toNat % 64 = 0, k.bytes % 4 = 0,
         k.bytes + 4 * 58 + 16 ≤ k.slot64 * 64, !k.flags.getLsbD 4, ok (a + 16 + k.bytes) 58, ok a 4, a < 2 ^ 32, canPost s .stat, s.laneBlk.fsrc ≠ 2,
         canWrite s pp 0x40130000, s.lv.waiting = []]),
      (let s := stSp {}
       hold [canWrite s pp 0x40130000, !s.stat.en, s.lv.held.toList.sum + 8 ≤ s.lv.budget])] = true := by decide +kernel

/-! ### Converters, setpoint outputs and viewer inputs -/

def stAd (a : Fin 4) (k : Adc) (budget : Nat := 120) : State := { st with adc := putV st.adc a k, lv := { st.lv with budget := budget } }

theorem witness_ConverterControls :
    hold [
      (let s := stAd 2 {}
       hold [2 < adcCount s.variant, canWrite s pp 0x40110800, s.lv.waiting = [], !s.adc[(2 : Fin 4)].en, s.lv.held.toList.sum + 6 ≤ s.lv.budget]),
      (let s := stAd 2 { lowPower := true } 0
       hold [canWrite s pp 0x40110800, s.lv.waiting = [], s.lv.budget < 1]),
      (let s := stAd 0 { en := true, enabled := true, conv := some .keypad, scan := some 1 }
       hold [canWrite s pp 0x40110000, canWrite s pp 0x40110004, s.pwr.mode = .run, anaUp s]),
      (let s := stAd 2 { en := true, enabled := true }
       hold [canWrite s pp 0x40110804, anaUp s, s.adc[(2 : Fin 4)].conv = none, s.adc[(2 : Fin 4)].reqs = []]),
      (let s := stAd 2 { en := true, enabled := true, calib := true, startWait := true }
       hold [canWrite s pp 0x40110804, anaUp s, s.pwr.mode = .run, quiet s, s.adc[(2 : Fin 4)].conv = none])] = true := by decide +kernel

theorem witness_ConversionResults :
    hold [
      (let s := stAd 1 { en := true, enabled := true, conv := some (.lane 8), kpdReq := true, ofs := 0xFF0, gain := 30001 }
       hold [anaUp s, s.pwr.mode = .run, quiet s, 8 / 6 = 1, 8 < laneCount s.variant, lanesUp s]),
      (let s := stAd 2 { en := true, enabled := true, seqlen := 4, scan := some 3, conv := some (.entry 3), uncal := true, seq := Vector.replicate 8 { hi := 900, lo := 500, input := 9 } }
       hold [anaUp s, s.pwr.mode = .run, quiet s, (3 : Fin 8).val < s.adc[(2 : Fin 4)].seqlen.toNat, s.adc[(2 : Fin 4)].reqs = [], !s.adc[(2 : Fin 4)].kpdReq]),
      (let k : Adc := { en := true, enabled := true, seqlen := 7, scan := some 7, conv := some (.entry 7) }
       let s := stAd 0 k
       hold [anaUp s, quiet s, k.trig ≠ 3, !k.post, !k.scanOut]),
      (let k : Adc := { en := true, enabled := true, seqlen := 0, scan := some 0, conv := some (.entry 0), post := true }
       let s := stAd 0 k
       hold [anaUp s, quiet s, k.trig ≠ 3, canPost s (.adc 0)])] = true := by decide +kernel

def stSd (d : Fin 8) (k : Spd) (ph : BitVec 2 := 2) (budget : Nat := 120) : State :=
  { st with spd := putV st.spd d k, sys := { st.sys with phase := ph }, lv := { st.lv with budget := budget } }

theorem witness_SetpointOutputs :
    hold [
      5 < spdCount st.variant, canWrite (stSd 5 {}) pp 0x40120140, canWrite (stSd 5 { ranging := true }) pp 0x40120144, canWrite (stSd 0 {} 0) pp 0x40120004,
      (let s := stSd 5 { written := true }
       hold [canWrite s pp 0x40120144, s.sys.phase = 2, anaUp s, (List.finRange 24).all fun n => s.lane[n].spd.toNat != 6, s.lv.waiting = [],
         s.lv.held.toList.sum + 4 ≤ s.lv.budget]),
      (let s := stSd 5 { written := true } 2 3; hold [canWrite s pp 0x40120144, s.lv.budget < 4]),
      (let s := stSd 5 { written := true } 2 16
       hold [canWrite s pp 0x40120144, s.lv.budget < s.lv.held.toList.sum + 4, 4 ≤ s.lv.budget, s.lv.waitlim[(0 : Fin 4)] ≠ 0]),
      hold ([({ ranging := true, inner := true, range := true } : Spd), { written := true, ranging := true, phase := 2, range := true },
        { written := true, ranging := true, phase := 3, now := true, range := true, pend := some true }, { written := true, ranging := true, phase := 3, pend := some true },
        { ranging := true, now := true, inner := true, switched := true, pend := some false }, { ranging := true, inner := true, switched := true },
        { written := true, ranging := true, phase := 3 }].map fun k =>
          let s := stSd 5 k
          hold [anaUp s, s.pwr.mode = .run, quiet s, s.lv.waiting = [], s.lv.held.toList.sum + 4 ≤ s.lv.budget])] = true := by decide +kernel

def jobC (k : ElvStage) : ElvJob := { req := ⟨.host 2 1, [9]⟩, code := 0x104, stage := k }

def stCe (c : Cec) (m : PowerMode := .run) (js : List ElvJob := []) : State :=
  { st with cec := c, pwr := { st.pwr with mode := m, wakeMask := 2 }, elv := { st.elv with jobs := js }
            link := { st.link with chan := putV st.link.chan 2 { reqs := [⟨1, 0x104, [9], false, none⟩] } } }

theorem witness_CecLine :
    hold [
      hold ([({} : Cec), { en := true, mask := 16 }].map fun c => quiet (stCe c)), (16 : BitVec 15).getLsbD (0x04 : Byte).toNat, !(16 : BitVec 15).getLsbD 5,
      quiet (stCe { en := true, mask := 16, buf := [⟨[4], false, false, false, 0⟩, ⟨[4], false, false, false, 0⟩] } .nap),
      (let s := stCe { en := true, mask := 16 }; hold [s.pwr.entering = none, s.cec.buf = [], canPost s .cec]),
      (let c : Cec := { en := true, mask := 16, fcount := 2, fopc := #v[0x8244, 0, 0, 0] }
       let f := (c.fopc.toList.flatMap fun w => leBytes 4 w.toNat).take c.fcount
       hold [quiet (stCe c .standby), f.contains 0x82, !f.contains 5, c.buf.length < 2]),
      hold ([ElvStage.cecSend, .cecPoll].map fun k => hold [(jobC k).delayed = none, quiet (stCe {} .run [jobC k]), (jobC k).code = (0x104 : BitVec 16).toNat,
        (jobC k).req.who = .host 2 1]),
      (let x : CecTx := { blocks := [0x4F, 5], attempts := 4 }
       hold [(x.blocks.headD 0).toNat % 16 = 15, 5 ≤ x.attempts + 1, quiet (stCe { tx := some x } .run [jobC .cecSend])]),
      quiet (stCe { poll := some ([14], 1) } .run [jobC .cecPoll]), quiet (stCe { poll := some ([14], 0) } .run [jobC .cecPoll])] = true := by decide +kernel

def irBits (v : Nat) : List (Nat × Nat) := (List.range 32).map fun i => (18, if Nat.testBit v i then 55 else 18)

/-- An IR input in PULSE_DISTANCE with leader 9000 + 4500, unit 560, ratio 3, tolerance 30 %, repeat frames, gap 20 ms. -/
def irPd (e : Option Nat) : Ir := { dec := 1, param := #v[9000 + 4500 * 65536, 560 + 3 * 65536 + 32 * 2 ^ 24, 30 + 256 + 2 * 65536 + 20 * 2 ^ 24, 0], lastEnd := e }

def stIr (k : Ir) : State := { st with ir := putV st.ir 1 k, time := { st.time with rtc := 100000 } }

theorem witness_RemoteFrames :
    hold [
      quiet (stIr {}),
      (let near (t d : Nat) : Bool := decide (((1000000 * d : Int) - 32768 * t).natAbs * 100 ≤ 32768 * t * 30 + 100000000)
       let nearHalf (t d : Nat) : Bool := decide (((2000000 * d : Int) - 32768 * t).natAbs * 100 ≤ 32768 * t * 30 + 200000000)
       let short (x : Nat) : Bool := decide (x * 1000 < 20 * 32768)
       let bits := irBits 0xED12FF00
       let s := stIr (irPd (some 99000))
       hold [s.pwr.mode = .run, s.pwr.entering = none, canPost s (.ir 1), short 147, short 74, bits.all fun b => short b.2 && near 560 b.1 && (near 560 b.2 || near 1680 b.2),
         bits.length = 32, near 9000 295, near 4500 147, near 560 18, near 9000 20 = false, nearHalf 4500 74,
         (0xED12FF00 : Word).extractLsb' 24 8 = ~~~((0xED12FF00 : Word).extractLsb' 16 8), (irPd none).param[(2 : Fin 4)].toNat / 256 % 256 = 1,
         (irPd none).param[(2 : Fin 4)].toNat / 2 ^ 17 % 2 = 1,
         (100000 - 99000) * 1000000 < (295 + 74 + 18) * 1000000 + 20 * 32768000 / 1000 + 120000 * 32768]),
      canPost (stIr (irPd none)) (.ir 1), canPost (stIr { dec := 3, param := #v[20, 0, 0, 0] }) (.ir 1)] = true := by decide +kernel

def kpdTh : Vector (BitVec 16) 14 := #v[3932, 3870, 3900, 48, 126, 253, 508, 1019, 2048, 4096, 2000, 3, 500, 150]

def stKp (k : Kpd) (c : Adc) (m : PowerMode := .run) : State := { st with kpd := k, adc := putV st.adc 1 c, pwr := { st.pwr with mode := m, wakeMask := 16 } }

theorem witness_Keypad :
    hold [
      (let s := stKp { en := true, ain := 5, th := kpdTh, wakemask := 63 } {} .nap; hold [s.pwr.mode ≠ .run, s.pwr.wakeMask.getLsbD 4, !s.kpd.down, s.kpd.wakemask ≠ 0]),
      hold ([none, some (Conv.lane 8)].map fun x =>
        let s := stKp { en := true, ain := 5, th := kpdTh, down := true } { en := true, enabled := true, uncal := false, conv := x }
        hold [s.kpd.down, anaUp s, s.pwr.mode = .run, quiet s, s.adc[Fin.ofNat 4 (s.kpd.ain.toNat / 4)].enabled, !s.adc[(1 : Fin 4)].uncal, s.adc[(1 : Fin 4)].reqs = []]),
      (let s := stKp { en := true, ain := 5, th := kpdTh, acc := .keys 4, repAt := 4000 } {}
       hold [kpdTh[(12 : Fin 14)].toNat ≠ 0, s.kpd.repAt ≤ s.now, canPost s .keypad]),
      (let s := stKp { en := true, ain := 5, th := kpdTh, cand := .keys 4, runs := 2, wakePend := true, wakemask := 7 } { en := true, enabled := true, conv := some .keypad }
       let x : Nat := 3498
       let load := (8192 * (3932 - x) + x) / (2 * x)
       let near (m : Fin 6) : Bool := decide (kpdTh[(⟨4 + m.val, by omega⟩ : Fin 14)].toNat ≤ load + 48) && decide (load ≤ kpdTh[(⟨4 + m.val, by omega⟩ : Fin 14)].toNat + 48)
       hold [anaUp s, s.adc[(1 : Fin 4)].scan = none, s.kpd.ain.toNat < 4 * adcCount s.variant, canPost s .keypad, quiet s, 3900 ≤ 4095, s.kpd.acc = .none,
         max 0 (min 4095 (((16 * (x : Int) - s.adc[(1 : Fin 4)].ofs.toInt) * s.adc[(1 : Fin 4)].gain + 262144).fdiv 524288)) = (x : Int),
         x < 3900, x ≤ 3870, near 2, !near 0, !near 1, BitVec.ofNat 6 (2 ^ 2) = (4 : BitVec 6), 3 ≤ 2 + 1])] = true := by decide +kernel

/-! ### Serial and GPIO -/

def stU (u : Fin 2) (k : Uart) (ph : BitVec 2 := 2) : State :=
  { st with uart := putV st.uart u k, sys := { st.sys with phase := ph }, gpio := { st.gpio with func := #v[0x55555550, 0], pads := 0xFFFFFFFF } }

def rxOf (bs : List (Byte × BitVec 64)) : List RxItem := bs.map fun x => .char x.1 false false x.2

theorem witness_UartLines :
    hold [
      hold ([[], [((5 : Byte), (77 : BitVec 64)), (6, 88)]].flatMap fun bs => [(0 : Fin 2), 1].map fun u =>
        let s := stU u { en := true, rx := rxOf bs, rxthr := 3, idle := 4 }
        hold [s.pwr.mode = .run, pinAlt s (if u = 0 then 3 else 7), quiet s, canPost s (.uart u), s.uart[u].rx = rxOf bs, !s.uart[u].ovr, bs.length < 3]),
      (2 + 1 = 3),
      (let s := stU 0 {}; hold [canWrite s pp 0x401C0010, canWrite s pp 0x401C000C, s.uart[(0 : Fin 2)].tx.length < 64, !s.uart[(0 : Fin 2)].en, s.fab.blocked = []]),
      (let s := stU 1 { en := true, tx := List.replicate 64 3 }; hold [canWrite s pp 0x401C1010, 64 ≤ s.uart[(1 : Fin 2)].tx.length]),
      (let s := stU 1 { en := true }; hold [canWrite s pp 0x401C1010, canWrite s pp 0x401C100C, s.sys.phase = 2, s.uart[(1 : Fin 2)].shift = none, s.uart[(1 : Fin 2)].tx = []]),
      hold ([({ en := true, shift := some (.char 4), tx := [1, 2] } : Uart), { en := true, shift := some .brk, brkPend := true }, { en := true, shift := some (.char 4) },
        { en := true, shift := some (.char 4), txqen := true }].map fun k =>
          let s := stU 1 k
          hold [s.sys.phase = 2, s.pwr.mode = .run, s.fab.blocked = [], quiet s, canPost s (.uart 1), !k.flow]),
      (let s := stU 0 { en := true, flow := true, tx := [1, 2] }; hold [quiet s, pinAlt s 5, s.fab.blocked = [], s.pwr.mode = .run])] = true := by decide +kernel

def stI2 (i : Fin 2) (k : I2c) : State :=
  { st with i2c := putV st.i2c i k, cue := { st.cue with queues := [⟨0x150, true, true, false, 0, 0, 0, 0, none, false, []⟩], k := 10 } }

def xRead : I2cXfer := ⟨true, 3, true, 0x48, 2, []⟩
def xWrite : I2cXfer := ⟨false, 3, false, 0x48, 2, [1, 2, 3]⟩

theorem witness_I2cTransfers :
    hold [
      (let s := stI2 1 { en := true, tx := [1, 2, 3], rx := [8, 9] }
       hold [canWrite s pp 0x401D1008, s.i2c[(1 : Fin 2)].busy = none, (0x2248 : Word).getLsbD 7 = false, ((0x2248 : Word).extractLsb' 8 5).toNat + 1 ≤ 3,
         (0x1FC8 : Word).getLsbD 7, ((0x1DC8 : Word).extractLsb' 8 5).toNat + 1 + 2 ≤ 32, 32 < 2 + ((0x1FC8 : Word).extractLsb' 8 5).toNat + 1,
         3 < ((0x0348 : Word).extractLsb' 8 5).toNat + 1, canWrite s pp 0x401D100C, canRead s pp 0x401D1010]),
      (let s := stI2 0 { en := true, queue := 0x150, tx := List.replicate 32 0 }
       hold [canWrite s pp 0x401D0008, s.i2c[(0 : Fin 2)].queue ≠ 0, canWrite s pp 0x401D000C, 32 ≤ s.i2c[(0 : Fin 2)].tx.length, canRead s pp 0x401D0010]),
      hold ([xRead, xWrite].map fun x =>
        let s := stI2 1 { en := true, busy := some x, rx := [4] }
        hold [canWrite s pp 0x401D1008, s.sys.phase = 2, s.pwr.mode = .run, quiet s, [(1 : Byte), 2, 3].length = x.bytes]), !xWrite.read, xRead.read,
      (let s := stI2 1 { en := true, busy := some xRead, queue := 0x150 }
       hold [canPostTo s (.i2c 1) (masterClass s.pool 2) 0x150, xRead.bytes ≤ 32])] = true := by decide +kernel

def stG (q : BitVec 16) (m : PowerMode := .run) : State :=
  { st with cue := { st.cue with queues := [⟨0x150, true, true, false, 0, 0, 0, 0, none, false, []⟩], k := 10 }
            gpio := { st.gpio with queue := q, edge := #v[0x55AAFF00, 0xE4E4E4E4], out := 0x1234 }, pwr := { st.pwr with mode := m, wakeMask := 0x20 } }

theorem witness_GpioPins :
    hold [
      canWrite (stG 0) pp 0x401E0004, canWrite (stG 0) pp 0x401E0008,
      hold ([(0 : BitVec 16), 0x150].map fun q =>
        let s := stG q
        hold [s.variant ≠ .t, s.pwr.mode = .run, !s.gpio.oe.getLsbD 0, !s.gpio.oe.getLsbD 31, !s.uart[(0 : Fin 2)].en, !s.uart[(1 : Fin 2)].en, s.fab.blocked = [], quiet s,
          s.gpio.edge[(0 : Fin 2)].extractLsb' 0 2 = 0, s.gpio.edge[(1 : Fin 2)].extractLsb' 30 2 = 3]),
      (let s := stG 0x150; canPostTo s .gpio (masterClass s.pool s.gpio.qBy) 0x150),
      (let s := stG 0 .nap; hold [s.pwr.wakeMask.getLsbD (5 + 0), s.pwr.mode ≠ .run, !s.pwr.wakeMask.getLsbD (5 + 1)])] = true := by decide +kernel

/-! ### The crypto engine and the entropy source -/

def stCy (f : CryCtx) (busy : Bool := false) (budget : Nat := 120) (k : KeyStore := {}) : State :=
  { st with cry := { f := f, p := if busy then { job := some { cfg := {}, owner := 8, secure := true } } else {} }
            lv := { st.lv with budget := budget }, key := k, cue := { st.cue with queues := [⟨0x150, true, true, false, 0, 0, 0, 0, none, false, []⟩], k := 10 } }

def cfgs (c : CryCfg) : Vector CryCfg 15 := Vector.replicate 15 c
def cj : CryJob := { cfg := { len := 40 }, owner := 0, secure := true, fed := 3, inp := [1, 2, 3] }

theorem witness_CryptoJob :
    hold [
      (let s := stCy { job := some cj, dout := [4, 5] }
       hold [s.sys.phase = 2, s.fab.blocked = [], canWrite s pc0 0x40200054, canWrite s pp 0x40200054, canWrite s pc0 0x40200060, canWrite s pp 0x40200060,
         canRead s pc0 0x40200064, cj.owner = 0, cj.owner ≠ 8, cj.cfg.queue = 0, s.cry.p.job = none, s.lv.waiting = [], cj.fed < 10]),
      (let s := stCy { job := some { cj with fed := 10 }, din := List.replicate 16 3 }; hold [canWrite s pc0 0x40200060, canRead s pc0 0x40200064]),
      (let c : CryCfg := { key := Vector.replicate 8 7, len := 30 }
       let s := stCy { cfg := cfgs c }
       hold [canWrite s pc0 0x40200054, c.alg = 0, c.aadlen = 0, s.lv.held[(16 : Fin 41)] = 0, s.lv.waiting = [], s.lv.held.toList.sum + 15 ≤ s.lv.budget]),
      (let s := { stCy { cfg := cfgs { alg := 2, len := 32 } } with lv := { st.lv with held := putV st.lv.held 16 15 } }
       hold [canWrite s pc0 0x40200054, s.lv.held[(16 : Fin 41)] ≠ 0, (32 : Word).toNat % 16 = 0]),
      (let s := stCy { cfg := cfgs { alg := 3, len := 31 } }; hold [canWrite s pc0 0x40200054, (31 : Word).toNat % 16 ≠ 0]),
      (let s := stCy { cfg := cfgs { alg := 1, ksrc := 1, handle := 0x13 } } true
       hold [canWrite s pc0 0x40200054, !s.key.slots[(3 : Fin 16)].held, s.cry.p.job.isSome])] = true := by decide +kernel

def cjEnd (alg : BitVec 4) (d : Bool) (q : BitVec 16) : CryJob :=
  { cfg := { alg := alg, dir := d, len := if alg = 6 then 160 else 16, aadlen := if alg = 5 then 3 else 0, queue := q }, owner := 3, secure := true, key := List.replicate 16 4
    aad := if alg = 5 then [1, 2, 3] else [], inp := List.replicate (if alg = 6 then 160 else 16) 7, out := List.replicate 16 6 }

theorem witness_CryptoResultsAndEntropy :
    hold [
      hold ([(0 : BitVec 4), 1, 2, 5, 6].flatMap fun a => [(0 : BitVec 16), 0x150].map fun q =>
        let j := cjEnd a true q
        let s := stCy { job := some j }
        hold [!s.cry.f.waitLeave, s.cry.f.dout = [], s.cry.p.job = none, s.lv.waiting = [], quiet s, j.aad.length = j.cfg.aadlen.toNat, j.inp.length = j.cfg.len.toNat]),
      (let s := stCy { job := some cj }; hold [quiet s, cj.inp.length ≠ cj.cfg.len.toNat]),
      (let s := stCy { job := some (cjEnd 0 true 0x150) }; canPostTo s .cry (masterClass s.pool 3) 0x150),
      (let s := stCy {} false 120 { reserve := 3, testing := 0 }; hold [canRead s pp 0x40200700, s.sys.phase = 2, !s.key.stopped, s.key.reserve ≠ 0]),
      (let s := stCy {} false 120 { reserve := 3, testing := 5, fails := 2, since := 77 }
       hold [canRead s pp 0x40200700, s.key.testing ≠ 0, s.key.fails ≠ 0, s.key.since < 1228800, 3 ≤ 2 + 1, s.ec.fifo.length < 32]),
      (let s := stCy {} false 120 { stopped := true }; s.key.stopped)] = true := by decide +kernel

/-! ### Trace, TAP and debug access; faults -/

def stTr (t : Trc) : State := { st with trc := t }

theorem witness_TraceCollector :
    hold [
      hold ([(0x000A0A00 : Word), 0x801414FF, 0xC00A0B07].map fun v =>
        let s := stTr {}
        let tk : BitVec 5 := v.extractLsb' 16 5
        let sy : BitVec 5 := v.extractLsb' 8 5
        hold [canWrite s pp 0x40210000, !s.trc.en, !s.trc.active, 10 ≤ tk.toNat, tk.toNat ≤ 20, 10 ≤ sy.toNat, sy.toNat ≤ 20, s.variant = .x, s.trc.buf = []]),
      (let s := stTr { en := true, active := true, cores := 0x83, mode := 0x83, core := putV (Vector.replicate 8 {}) 7 { steps := 0xFFFFFF }, timeMark := 12345678 / 1024, buf := [1, 2, 3] }
       hold [canWrite s pp 0x4021005C, s.trc.cores.getLsbD 7, s.trc.mode.getLsbD 7, s.trc.core[(7 : Core)].outs = [], s.trc.core[(7 : Core)].rep = 0, s.trc.buf.length + 13 ≤ 4096,
         s.trc.timeMark = s.now / 2 ^ s.trc.timek.toNat, s.trc.sinceSync + 14 ≤ 2 ^ s.trc.synclog.toNat]),
      (let s := stTr { en := true, active := true, cores := 5, discarded := 1, buf := List.replicate 3584 9 }; hold [0 < s.trc.discarded, s.trc.buf.length + 512 ≤ 4096])] = true := by
  decide +kernel

def stTp (d : Dbg) (m : PowerMode := .run) (ph : BitVec 2 := 2) : State :=
  { st with dbg := d, pwr := { st.pwr with mode := m }, sys := { st.sys with phase := ph }, key := { reserve := 60 } }

theorem witness_TapScansAndLevel :
    hold [
      (stTp {}).pwr.mode ≠ .standby, (stTp {} .standby).pwr.mode = .standby, (List.replicate 315 true).length = 315, (stTp {}).variant = .x, (stTp {}).dbg.pend = none,
      (0x133 : BitVec 9).getLsbD 8, !(0x33 : BitVec 9).getLsbD 8, (0x101 : BitVec 9).setWidth 8 = (1 : Byte), (0x102 : BitVec 9).setWidth 8 = (2 : Byte),
      (stTp {} .run 1).sys.phase ≠ 2, (stTp { req := [1, 5], failures := 7 }).dbg.failures < 8, !(stTp {}).key.stopped, 8 ≤ (stTp {}).key.reserve,
      8 ≤ (stTp { req := [1, 5], failures := 8 }).dbg.failures] = true := by decide +kernel

/-- Core 0 as given, a debug session, and ADDI r3, r4, 777 at core 0's pc. -/
def stX (f : CoreState → CoreState) (d : Dbg) (m : PowerMode := .run) : State :=
  ({ st with dbg := d, pwr := { st.pwr with mode := m } }.put (physAddr 0 core0.pc.toNat) (leBytes 4 (0#1 ++ 0x01#6 ++ (3 : Reg) ++ (4 : Reg) ++ (777 : BitVec 17) : Word).toNat)).updCore 0 f

theorem witness_DebugAccess :
    hold [
      hold ([({} : Dbg), { level := 1 }, { level := 2 }].map fun d =>
        let s := stX id d
        let who := portWho s ⟨14, 0⟩
        hold [s.dbg.heldOp = none, s.fab.blocked.all fun b => b.port.m.val != 14, s.pwr.mode = .run, coreCount s.variant ≤ 9, 0 < coreCount s.variant,
          s.sec = [], s.ded = [], s.poison = [], quiet s, coreUp s 0, s.cores[(0 : Core)].run = .running, s.cores[(0 : Core)].sec = [], s.cores[(0 : Core)].ded = [],
          d.level ≠ 2 || [Acc.read, .write].all fun x => [0x10000040, 0x10040000].all fun a => inSram a && staticAns s who x a 4 == 0 && memAnswer s who x a 4 == 0]),
      (let s := stX (fun k => { k with run := .waiting, haltReq := true, stepping := true, state := 1 }) { level := 1 }
       let k := s.cores[(0 : Core)]
       hold [coreUp s 0, k.run = .waiting, k.flow = none, !k.stopped, !coreBlocked s 0, !k.world]),
      (let s := stX (fun k => { k with run := .waiting }) { level := 2 }; hold [coreUp s 0, !coreBlocked s 0, !s.cores[(0 : Core)].stepping]),
      (let s := stX (fun k => { k with run := .halted, haltInfo := 0x80000031 }) { level := 2 }
       let k := s.cores[(0 : Core)]
       hold [coreUp s 0, k.run = .halted, calmWord (s.updCore 0 fun k => { k with run := .running }) 0 ⟨0, 0, 0, 0⟩,
         s.word (physAddr (coreM 0) k.pc.toNat) = 0#1 ++ 0x01#6 ++ (3 : Reg) ++ (4 : Reg) ++ (777 : BitVec 17), stackOk k 3 (k.reg 4 + (777 : BitVec 17).signExtend 32)]),
      (stX id { level := 1 } .nap).pwr.mode = .nap] = true := by decide +kernel

def ecR : EcRec := ⟨1, 1, 3, true, 5, 77, 88, 99⟩

def stEc (f : CoreState → CoreState) (l : List EcRec) (o : CoreState := {}) : State :=
  { st with cores := putV (putV st.cores 0 (f core0)) 7 o, ec := { st.ec with fifo := l }, key := { slots := Vector.replicate 16 { held := true, owner := 0 } }
            pool := { st.pool with tags := [⟨0, 1, 0, 1, 0⟩, ⟨3, 2, 0, 1, 0x55⟩, ⟨4, 1, 2, 1, 0⟩] } }

theorem witness_FaultsAndQuarantine :
    hold [
      quiet (stEc id []), (let s := stEc id [ecR, ecR]; hold [!s.ec.posting, canPost s .ec]),
      hold ([({} : CoreState), { run := .waiting }].map fun o =>
        let s := stEc (fun k => { k with stepTb := 5 }) [] o
        let k := s.cores[(0 : Core)]
        hold [k.run = .running, !k.stopped, !coreBlocked s 0, !s.pwr.drain.getLsbD 2, s.pwr.mode = .run, k.stepTb + 2 ^ 20 ≤ s.now, s.ec.fifo.length < 32,
          ((List.finRange 8).any fun d => d != 0 && decide (d.val < coreCount s.variant) && (s.cores[d].run == .running || s.cores[d].run == .waiting || s.cores[d].run == .halted)) ==
            (o.run == .waiting)]),
      (let s := stEc (fun k => { k with stepTb := 12345600 }) []; s.now < 12345600 + 2 ^ 20),
      (let s := stEc (fun k => { k with run := .check, reason := 3 }) []
       hold [s.fatal = none, s.pwr.mode = .run, quiet s, s.elv.jobs = [], s.fab.blocked = [], s.fab.waiting = [], s.cores[(0 : Core)].sb = [], s.lv.waiting = [], s.cry.f.job = none,
         s.install.session = none, s.link.up, !linkBooting s, s.link.tx = []])] = true := by decide +kernel

theorem witness_MemoryStaysCanonical :
    memWf ({ stS [] with pending := [.ping ⟨.host 1 5, [1]⟩] }).mem = true ∧
    (match step { stS [] with pending := [.ping ⟨.host 1 5, [1]⟩] } with | .next _ => true | _ => false) = true := by decide +kernel

/-! ### Values from the spec's own examples, and from the standards it names -/

/-- R208: the check value over "123456789", and the frame of the PING example of file 11. -/
theorem test_crc16 : crc16 [0x31, 0x32, 0x33, 0x34, 0x35, 0x36, 0x37, 0x38, 0x39] = 0x29B1 ∧ crc16 [0, 0, 5, 1, 0] = 0xC9CD := by decide +kernel

/-- FIPS 180-4, the message "abc". -/
theorem test_sha256 : sha256 [0x61, 0x62, 0x63] =
    [0xBA, 0x78, 0x16, 0xBF, 0x8F, 0x01, 0xCF, 0xEA, 0x41, 0x41, 0x40, 0xDE, 0x5D, 0xAE, 0x22, 0x23,
     0xB0, 0x03, 0x61, 0xA3, 0x96, 0x17, 0x7A, 0x9C, 0xB4, 0x10, 0xFF, 0x61, 0xF2, 0x00, 0x15, 0xAD] := by decide +kernel

/-- RFC 4231, test case 1. -/
theorem test_hmac : hmac (List.replicate 20 0x0B) [0x48, 0x69, 0x20, 0x54, 0x68, 0x65, 0x72, 0x65] =
    [0xB0, 0x34, 0x4C, 0x61, 0xD8, 0xDB, 0x38, 0x53, 0x5C, 0xA8, 0xAF, 0xCE, 0xAF, 0x0B, 0xF1, 0x2B,
     0x88, 0x1D, 0xC2, 0x00, 0xC9, 0x83, 0x3D, 0xA7, 0x26, 0xE9, 0x37, 0x6C, 0x2E, 0x32, 0xCF, 0xF7] := by decide +kernel

/-- FIPS 197: the S-box of its example, both ways, a mixed column, and the last round of appendix C.1. -/
theorem test_aes :
    subByte 0x53 = 0xED ∧ invSubByte 0xED = 0x53 ∧ mixColumn [2, 3, 1, 1] [0xDB, 0x13, 0x53, 0x45] = [0x8E, 0x4D, 0xA1, 0xBC] ∧
    mixColumn [14, 11, 13, 9] [0x8E, 0x4D, 0xA1, 0xBC] = [0xDB, 0x13, 0x53, 0x45] ∧
    shiftRows [0x7A, 0x9F, 0x10, 0x27, 0x89, 0xD5, 0xF5, 0x0B, 0x2B, 0xEF, 0xFD, 0x9F, 0x3D, 0xCA, 0x4E, 0xA7] =
      [0x7A, 0xD5, 0xFD, 0xA7, 0x89, 0xEF, 0x4E, 0x27, 0x2B, 0xCA, 0x10, 0x0B, 0x3D, 0x9F, 0xF5, 0x9F] := by decide +kernel

/-- The GCM specification, test case 2: the first block under its hash key. -/
theorem test_ghash :
    ghashBlock 0x66E94BD4EF8A2C3B884CFA59CA342B2E 0 [0x03, 0x88, 0xDA, 0xCE, 0x60, 0xB6, 0xA3, 0x92, 0xF3, 0x28, 0xC2, 0xB9, 0x71, 0xB2, 0xFE, 0x78] =
      0x5E2EC746917062882C85B0685353DEB7 := by decide +kernel

/-- The store loop of file 04. -/
theorem test_decode_store_loop :
    decodeWord 0x0A220000 = .lui 1 0x20000 ∧ decodeWord 0x06220400 = .imm .ori 1 1 0x400 ∧ decodeWord 0x4AA20000 = .store .w 5 1 0 ∧
    decodeWord 0x0804001E = .cmpi 2 30 ∧ decodeWord 0x605FFFFD = .b 2 0x1FFFFD ∧ decodeWord 0x02220004 = .imm .addi 1 1 4 ∧
    (decodeWord 0x84820000).illegal = none ∧ (decodeWord 0x888E0548).illegal = none ∧ decodeWord 0x888E0548 = .pair ⟨2, 2, 3, 2⟩ ⟨1, 5, 2, 0⟩ := by decide +kernel

/-- The words of the table of file 04, each with its WHERE and SUB (R76, R78). -/
theorem test_illegal_words :
    ([0x00000000, 0xFFFFFFFF, 0x80000000, 0xD44C5914, 0x84480846, 0xBC480000, 0x80007000, 0x61E00002] : List Word).map (fun w => (decodeWord w).illegal) =
      [some (0, 0), some (3, 3), none, some (3, 1), some (3, 1), some (1, 3), some (2, 0), some (0, 3)] := by decide +kernel

/-- The answers of the table of file 03: SC2 of a BL24-S in User mode of the Secure world. -/
theorem test_answers_of_sc2 :
    let s : State := { st with variant := .s }.updCore 2 fun k => { k with state := 2 }
    let w := coreWho s 2
    let read (a : Nat) : Option Nat := match busRead s w a 4 with | .done _ ans _ => some ans | _ => none
    let store (a : Nat) : Option Nat := match busWrite s w a 4 0 0 with | .done _ ans _ => some ans | _ => none
    [read 0x80000, store 0x10100000, read 0x18120000, store 0x1C000000, read 0x1C000060, read 0x4F000000, store 0x40190000, read 0x40210000] =
      [some 2, some 2, some 3, some 3, some 3, some 1, some 3, some 0] ∧ staticAns s w .read 0x18000000 4 = 0 ∧ staticAns s w .atomic 0x40110000 4 = 1 := by
  decide +kernel

/-- The ladder of the keypad example of file 21: key 0, the chord of keys 1 and 3, three keys. -/
theorem test_keypad_ladder :
    let k : Kpd := { en := true, th := #v[3932, 3870, 3900, 48, 126, 253, 508, 1019, 2048, 4096, 2000, 3, 500, 150] }
    kpdDecode k 3815 = (.keys 1, 126) ∧ kpdDecode k 3000 = (.keys 0b1010, 1272) ∧ kpdDecode k 2741 = (.unresolved, 1780) := by decide +kernel

/-- The stream of the trace example of file 23: its restart address, its step count and its return. -/
theorem test_trace_varints :
    varint 5 (zigzag (0x10004010 >>> 2)) = [0x88, 0xC0, 0x80, 0x40] ∧ varint 5 550 = [0xA6, 0x04] ∧
    varint 5 (zigzag ((0x10003F88 >>> 2) - (0x10004010 >>> 2))) = [0x43] := by decide +kernel

/-- R480. -/
theorem test_idcode : idcode .x = 0x10B24ECF ∧ idcode .s = 0x10B25ECF ∧ idcode .t = 0x10B26ECF := by decide +kernel

/-- Right after reset an empty queue lets a tick pass, and a command in the queue is taken. -/
theorem test_steps_from_reset :
    (match step State.reset with | .next t => decide (t.tb = 1) | _ => false) = true ∧
    (match step { State.reset with pending := [.tapReset, .idcode] } with | .next t => decide (t.pending = [.idcode] ∧ t.dbg.ir = 2) | _ => false) = true := by
  decide +kernel


/-! ### The witnesses that hash or verify, last: they take the longest to check -/

theorem witness_InstallEnd_verifies :
    let k := ses 260 260 imgHead []
    let s := ask 3 0x203 [] (stI k (keyed (st.put 0x100 [1, 2, 3, 4])))
    hostAsks s 3 1 0x203 [] = true ∧ flashReady s = true ∧ leaveReady s 40 = true ∧ recInUse s = none ∧
    (installHeadOk s k && bodyOk s k.slot (headerOf k.head) && signOk k.head) = true := by decide +kernel

theorem witness_SettingsCommands :
    st.boot.life ≠ 0 ∧ recInUse (stS []) = some (recA 0 0xFF) ∧ recInUse stS' = some (recA 0 0xFF) ∧
    hostAsks stS' 3 1 0x301 [0x55, 0] = true ∧ flashReady stS' = true ∧ (setLookup stS' 0x55).isSome = true ∧
    (let a := leBytes 2 0xFEFF ++ leBytes 2 0x99 ++ leBytes 2 1016 ++ big
     hostAsks (ask 3 0x302 a (stS [])) 3 1 0x302 a = true ∧ big.length ≤ 1016 ∧ (stS []).boot.slot.isSome = true ∧ (stS []).boot.schMin.toNat ≤ 0x99 ∧
     0x99 ≤ (stS []).boot.schMax.toNat ∧ 6 + big.length ≤ 1024) ∧
    hostAsks (ask 3 0x303 [1, 0] (stS [])) 3 1 0x303 [1, 0] = true ∧
    (let s := ask 3 0x304 [] (stS [⟨0xFEFF, 0x99, some big⟩])
     hostAsks s 3 1 0x304 [] = true ∧ flashReady s = true ∧ leaveReady s 25 = true ∧ batchOf s (.chan 3) = [⟨0xFEFF, 0x99, some big⟩] ∧
     (logEnd s (setSectors s)).pos = some (0, 1, 28) ∧ 28 + (12 + (1016 + 3) / 4 * 4) + 36 ≤ 2048) := by decide +kernel

theorem witness_AuthResponse_good :
    let s := ask 3 0x502 authArgs (keyed (stH { chHost := some chall }))
    hostAsks s 3 1 0x502 authArgs = true ∧ authArgs.length = 128 ∧ s.dbg.level = 0 ∧ s.boot.life ≠ 2 ∧
    (ecdsaVerify (sha256 (authMessage chall false)) (authArgs.take 64) ((authArgs.drop 64).take 64) && (debugSlot s (authArgs.take 64)).isSome) = true := by
  decide +kernel

theorem witness_StartUp_verified :
    let s := stB .verify [true, false] (keyed (st.put (slotBase true) (imgHead ++ [1, 2, 3, 4])))
    slotVerifies s true = true ∧ memWf s.mem = true := by decide +kernel

theorem witness_StartUp_next_candidate :
    let s := stB .verify [true, false] (keyed ((st.put (slotBase false) (imgHead ++ [1, 2, 3, 4])).put 0x10000C (leBytes 4 260)))
    slotVerifies s true = false ∧ slotHeaderOk s false = true ∧ s.boot.cands = [true, false] := by decide +kernel

end Sys2Proof.Tests
end

/-!
PROOF of `Obligations.FlowWords` (04, 05): the flow words on a calm core, their traps on a full and on an empty return stack, and the transfer at the
end of a delay slot. First what a whole word comes to in terms of `decodeRun`, then trap entry, then the two halves of a transfer: the flow word
that holds it (`flowHeld`) and the slot's end that makes it happen (`finishFlow`).
-/

namespace Sys2Proof.Machine

/-! ### One core changed -/

theorem updCore_updCore (s : State) (c : Core) (f g : CoreState → CoreState) :
    (s.updCore c f).updCore c g = s.updCore c fun k => g (f k) := by
  have hv : updV (updV s.cores c f) c g = updV s.cores c fun k => g (f k) := by simp [updV]
  unfold State.updCore
  rw [hv]

/-- A change of one core that its architecture alone decides keeps the agreement of two states. -/
theorem updCore_arch_congr {s t : State} (c : Core) {f : CoreState → CoreState} (h : s.arch = t.arch)
    (hf : ∀ k : CoreState, (f k).arch = f k.arch := by intro; rfl) : (s.updCore c f).arch = (t.updCore c f).arch :=
  updCore_arch c h (by rw [hf, hf, arch_core h c])

/-! ### What a word of a calm core leaves -/

/-- A count that is taken back is a matter of pace and of the trace. -/
theorem unpaid_arch (s t : State) (c : Core) : (unpaid s t c).arch = t.arch := by
  refine arch_eq_iff.2 ⟨rfl, fun d => ?_⟩
  unfold unpaid
  dsimp only
  by_cases hd : d = c
  · subst hd; rw [putV_same]; rfl
  · rw [putV_other _ _ _ _ hd]

/-- A word of a calm core leaves what `decodeRun` leaves, from every state that agrees with the one in which it begins. -/
theorem runWord_arch {s u : State} {c : Core} {p : Pace} {w : TWord} (h : calm s c p = true) (hq : quiet u = quiet s)
    (hd : ∀ t, t.arch = s.arch → (decodeRun t c p w).arch = u.arch) : (runWord s c p w).arch = u.arch := by
  obtain ⟨t, ha, -, ht⟩ := runWord_calm h w
  obtain ⟨-, -, -, -, -, -, -, -, -, -, hs⟩ := calm_facts h
  have key : (if coreAsking (decodeRun t c p w) c && (decodeRun t c p w).cores[c].blk.isNone
      then unpaid t (decodeRun t c p w) c else decodeRun t c p w).arch = u.arch := by
    split
    · rw [unpaid_arch, hd t ha]
    · exact hd t ha
  rw [ht, slipAct_arch]
  dsimp only
  rw [cueSettle_quiet (by rw [quiet_arch key, hq, hs]), key]

/-- A calm word that is no delay slot leaves what `runPlain` leaves, when it is legal, permitted and has no cause of its own. -/
theorem runWord_plain_arch {s u : State} {c : Core} {p : Pace} {w : TWord} (h : calm s c p = true) (hi : w.illegal = none)
    (hf : w.isFlow = false ∨ s.cores[c].flow = none) (hp : w.privileged = false ∨ s.cores[c].priv = true)
    (hc : wordCause s.cores[c] c w = none) (hq : quiet u = quiet s)
    (hr : ∀ t, t.arch = s.arch → (runPlain t c p w).arch = u.arch) : (runWord s c p w).arch = u.arch := by
  obtain ⟨-, -, -, -, hs, hd, -⟩ := calm_facts h
  refine runWord_arch h hq fun t ha => ?_
  rw [decodeRun_plain (by rw [arch_get c (·.sec) ha, hs]) (by rw [arch_get c (·.ded) ha, hd]) hi
    (by rw [arch_get c (·.flow) ha]; exact hf) (by rw [arch_get c (·.priv) ha]; exact hp)
    (by rw [arch_get c (fun k => wordCause k c w) ha (fun k => wordCause_arch k c w), hc])]
  exact hr t ha

theorem calmWord_facts {s : State} {c : Core} {p : Pace} (h : calmWord s c p = true) : calm s c p = true ∧ s.cores[c].flow = none := by
  simpa [-Fin.getElem_fin, calmWord] using h

theorem calm_running {s : State} {c : Core} {p : Pace} (h : calm s c p = true) : s.cores[c].run = .running := by
  have hr := (calm_facts h).1
  simp only [coreReady, Bool.and_eq_true, decide_eq_true_eq] at hr
  exact hr.1.1.1.2

/-! ### Trap entry -/

/-- STATE.LEVEL (R81): the field of bits 6 to 4. -/
theorem level_eq (k : CoreState) : k.level = (k.state >>> 4 &&& 7).toNat := by
  unfold CoreState.level bitsOf
  rw [BitVec.toNat_and, BitVec.toNat_ushiftRight, Nat.shiftRight_eq_div_pow]
  exact (Nat.and_two_pow_sub_one_eq_mod _ 3).symm

/-- STATE.LEVEL is three bits, and STATE masked to it has no other. -/
theorem level_field (k : CoreState) : ∃ l : BitVec 3, k.level = l.toNat ∧ k.state &&& (0x70 : Word) = l.setWidth 32 <<< 4 := by
  refine ⟨k.state.extractLsb' 4 3, ?_, ?_⟩
  · simp [CoreState.level, bitsOf, Nat.shiftRight_eq_div_pow]
  · ext i hi
    have hb : (0x70 : Word)[i] = (decide (4 ≤ i) && decide (i - 4 < 3)) := by
      revert i
      decide
    rw [BitVec.getElem_and, hb]
    by_cases h : 4 ≤ i
    · simp [h, Nat.add_sub_cancel' h, BitVec.getLsbD_eq_getElem hi, Bool.and_comm]
    · simp [h]

/-- The STATE word of a trap entry (R90): TL and PRIV 1, LEVEL as it was. -/
theorem trapState_eq (k : CoreState) (secure : Bool) :
    natW (256 + k.level * 16 + (if secure then 2 else 0) + 1) = 0x101 ||| (k.state &&& 0x70) ||| (if secure then 2 else 0) := by
  obtain ⟨l, hl, hm⟩ := level_field k
  rw [hl, hm]
  clear hl hm
  revert l secure
  decide

/-- The TCAUSE word (R92): the cause, and INDS in bit 8. -/
theorem trapCause_eq (cause : BitVec 8) (inds : Bool) :
    natW (cause.toNat + boolN inds 8) = cause.setWidth 32 ||| (if inds then 0x100 else 0) := by
  revert cause inds
  decide

/-- The offset of a cause's vector (R90). -/
theorem trapVector_eq (cause : BitVec 8) : natW (0x40 * cause.toNat) = 64 * cause.setWidth 32 := by
  apply BitVec.eq_of_toNat_eq
  simp [natW]

/-- Trap entry of a core that runs, with TL 0, is the change that R90-R92 give. -/
theorem trapEnter_arch {s : State} {c : Core} (cause : BitVec 8) (detail addr tpc : Word) (inds : Bool) (ht : s.cores[c].tl = false)
    (hr : s.cores[c].run = .running) (hb : s.cores[c].blk = none) :
    (trapEnter s c cause detail addr tpc inds none).arch = (trapped s c cause detail addr tpc inds).arch := by
  unfold trapEnter
  dsimp only
  rw [if_neg (by rw [ht]; simp), trcAddr_arch, trcState_arch, spend_arch]
  refine updCore_arch c rfl ?_
  simp only [Bool.or_false, trapCause_eq, trapVector_eq, trapState_eq, hr]
  rw [hb]
  rfl

theorem trapped_arch {s t : State} (c : Core) (cause : BitVec 8) (detail addr tpc : Word) (inds : Bool) (h : s.arch = t.arch) :
    (trapped s c cause detail addr tpc inds).arch = (trapped t c cause detail addr tpc inds).arch :=
  updCore_arch_congr c h

/-- A legal word that is permitted but has a cause of its own takes the trap of that cause and has no effect (R89 causes 6 to 9). -/
theorem decodeRun_cause {s : State} {c : Core} {p : Pace} {w : TWord} {cause : BitVec 8} {detail addr : Word} (hs : s.cores[c].sec = [])
    (hd : s.cores[c].ded = []) (hi : w.illegal = none) (hf : s.cores[c].flow = none) (hp : w.privileged = false ∨ s.cores[c].priv = true)
    (hc : wordCause s.cores[c] c w = some (cause, detail, addr)) : decodeRun s c p w = wordTrap s c cause detail addr := by
  unfold decodeRun
  dsimp only
  rw [hi, hf]
  simp only [Option.isSome_none, Bool.and_false, Bool.false_eq_true, if_false]
  rw [if_neg (by rcases hp with h | h <;> simp [-Fin.getElem_fin, h]), eccRead_clean _ hs hd]
  simp only [Bool.not_true, Bool.false_eq_true, if_false, hc]

/-- A word of a calm core with TL 0 that has a cause of its own takes the trap, and nothing else happens. -/
theorem traps_cause {i : Instr} {s : State} {c : Core} {p : Pace} {w : TWord} {cause : BitVec 8} {detail addr : Word}
    (h : calmWord s c p = true) (ht : s.cores[c].tl = false) (hx : exec i s = .next (runWord s c p w)) (hi : w.illegal = none)
    (hp : w.privileged = false ∨ s.cores[c].priv = true) (hc : wordCause s.cores[c] c w = some (cause, detail, addr)) :
    Traps i s c cause detail addr := by
  obtain ⟨hcalm, hflow⟩ := calmWord_facts h
  obtain ⟨-, hb, -, -, hs, hd, -⟩ := calm_facts hcalm
  refine ⟨_, hx, runWord_arch hcalm rfl fun t ha => ?_⟩
  have hf : t.cores[c].flow = none := by rw [arch_get c (·.flow) ha, hflow]
  rw [decodeRun_cause (by rw [arch_get c (·.sec) ha, hs]) (by rw [arch_get c (·.ded) ha, hd]) hi hf
    (by rw [arch_get c (·.priv) ha]; exact hp) (by rw [arch_get c (fun k => wordCause k c w) ha (fun k => wordCause_arch k c w), hc])]
  unfold wordTrap
  rw [hf]
  dsimp only
  rw [trapEnter_arch _ _ _ _ _ (by rw [arch_get c (·.tl) ha, ht]) (by rw [arch_get c (·.run) ha, calm_running hcalm])
    (by rw [arch_get c (·.blk) ha, hb]), arch_get c (·.pc) ha, trapped_arch c _ _ _ _ _ ha]

/-! ### A flow word holds its transfer (R75) -/

/-- The transfer that a flow word of a core holds until its delay slot ends (R65, R84, R85, R94); none for any other word. -/
def heldKind (k : CoreState) : TWord → Option FlowKind
  | .b cond off => some (.branch (if condHolds cond k.fl then some (relTarget k.pc (off.signExtend 32)) else none) false)
  | .jmp off => some (.branch (some (relTarget k.pc (off.signExtend 32))) false)
  | .call off => some (.call (k.pc + 8) (relTarget k.pc (off.signExtend 32)) false)
  | .jr a => some (.branch (some (k.reg a)) true)
  | .callr a => some (.call (k.pc + 8) (k.reg a) true)
  | .ret => some (.ret (k.rs.headD 0))
  | .rett => some (.rett k.tpc k.tfl k.tstate)
  | .syscall code =>
    some (if code.getLsbD 15 && !k.world then .trap 0x03 (3 + code.setWidth 32 <<< 16) else .trap 0x0C (code.setWidth 32))
  | .brk code => some (.trap 0x0B (code.setWidth 32))
  | _ => none

/-- The detail of a secure call (R92): 3, with CODE above it. -/
theorem secureCall_detail (code : BitVec 16) : natW (3 + code.toNat * 65536) = 3 + code.setWidth 32 <<< 16 := by
  apply BitVec.eq_of_toNat_eq
  simp [natW, Nat.shiftLeft_eq]

theorem heldKind_syscall {k : CoreState} {code : BitVec 16} (h : code.getLsbD 15 = false ∨ k.world = true) :
    heldKind k (.syscall code) = some (.trap 0x0C (code.setWidth 32)) :=
  congrArg some (if_neg (by rcases h with h | h <;> rw [h] <;> simp))

theorem heldKind_secureCall {k : CoreState} {code : BitVec 16} (hb : code.getLsbD 15 = true) (hw : k.world = false) :
    heldKind k (.syscall code) = some (.trap 0x03 (3 + code.setWidth 32 <<< 16)) :=
  congrArg some (if_pos (by rw [hb, hw]; rfl))

theorem heldKind_arch (k : CoreState) (w : TWord) : heldKind k.arch w = heldKind k w := by
  cases w <;> rfl

/-- Core c at the delay slot of the flow word at its pc. -/
def flowHeld (s : State) (c : Core) (f : FlowKind) : State :=
  s.updCore c fun k => { k with pc := k.pc + 4, flow := some ⟨k.pc, f⟩ }

theorem flowHeld_arch {s t : State} (c : Core) (f : FlowKind) (h : s.arch = t.arch) : (flowHeld s c f).arch = (flowHeld t c f).arch :=
  updCore_arch_congr c h

theorem runFlow_arch (s : State) (c : Core) (f : FlowKind) (cost : Cost) : (runFlow s c f cost).arch = (flowHeld s c f).arch :=
  flowHeld_arch c f (payWord_arch ..)

/-- A flow word whose causes have passed holds its transfer. -/
theorem runPlain_flow {s : State} {c : Core} {p : Pace} {w : TWord} {f : FlowKind} (h : heldKind s.cores[c] w = some f) :
    (runPlain s c p w).arch = (flowHeld s c f).arch := by
  cases w with
  | b cond off =>
    obtain rfl := Option.some.inj h
    refine (runFlow_arch ..).trans (flowHeld_arch c _ ?_)
    split
    · rfl
    · exact trcOutcome_arch ..
  | syscall code =>
    obtain rfl := Option.some.inj h
    rw [← secureCall_detail]
    exact runFlow_arch ..
  | jmp | call | jr | callr | ret | rett | brk =>
    obtain rfl := Option.some.inj h
    exact runFlow_arch ..
  | _ => exact absurd (show none = some f from h) (by simp)

/-- A legal and permitted flow word on a calm core, without a cause of its own, holds its transfer. -/
theorem completes_flow {i : Instr} {s : State} {c : Core} {p : Pace} {w : TWord} {f : FlowKind} (h : calmWord s c p = true)
    (hx : exec i s = .next (runWord s c p w)) (hi : w.illegal = none) (hp : w.privileged = false ∨ s.cores[c].priv = true)
    (hc : wordCause s.cores[c] c w = none) (hk : heldKind s.cores[c] w = some f) : Completes i s (flowHeld s c f) := by
  obtain ⟨hcalm, hflow⟩ := calmWord_facts h
  refine ⟨_, hx, runWord_plain_arch hcalm hi (.inr hflow) hp hc rfl fun t ha => ?_⟩
  rw [runPlain_flow (by rw [arch_get c (fun k => heldKind k w) ha (fun k => heldKind_arch k w), hk]), flowHeld_arch c f ha]

/-! ### The causes of the flow words (R84, R89) -/

theorem wordCause_call (k : CoreState) (c : Core) (off : BitVec 25) :
    wordCause k c (.call off) = if 256 ≤ k.rs.length then some (0x06, natW k.rs.length, 0) else none := rfl

theorem wordCause_ret (k : CoreState) (c : Core) : wordCause k c .ret = if k.rs = [] then some (0x07, 0, 0) else none := by
  unfold wordCause
  dsimp only [plans]
  simp

theorem wordCause_jr {k : CoreState} {c : Core} {a : Reg} (h : (k.reg a).toNat % 4 = 0) : wordCause k c (.jr a) = none := by
  unfold wordCause
  dsimp only [plans]
  rw [if_neg (by simp [h])]
  rfl

theorem wordCause_callr {k : CoreState} {c : Core} {a : Reg} (h : (k.reg a).toNat % 4 = 0) :
    wordCause k c (.callr a) = if 256 ≤ k.rs.length then some (0x06, natW k.rs.length, 0) else none := by
  unfold wordCause
  dsimp only [plans]
  rw [if_neg (by simp [h])]
  rfl

theorem wordCause_rett {k : CoreState} {c : Core} (h : k.world = true ∨ k.tstate.getLsbD 1 = false) : wordCause k c .rett = none := by
  unfold wordCause
  dsimp only [plans]
  rw [if_neg (by rcases h with h | h <;> rw [h] <;> simp)]
  rfl

/-! ### The end of a delay slot (R75, R84, R85, R90, R94) -/

theorem jumpTo_arch (s : State) (c : Core) (t : Word) :
    (jumpTo s c t).arch = (s.updCore c fun k => { k with pc := t, flow := none }).arch :=
  updCore_arch c rfl rfl

/-- A transfer that is not taken goes on after the slot. -/
theorem finishFlow_notTaken (s : State) (c : Core) (from' : Word) (ind : Bool) :
    (finishFlow s c ⟨from', .branch none ind⟩).arch = (s.updCore c fun k => { k with pc := from' + 8, flow := none }).arch := rfl

theorem finishFlow_taken (s : State) (c : Core) (from' t : Word) (ind : Bool) :
    (finishFlow s c ⟨from', .branch (some t) ind⟩).arch = (s.updCore c fun k => { k with pc := t, flow := none }).arch := by
  unfold finishFlow
  dsimp only
  split
  · rw [trcAddr_arch, jumpTo_arch]
  · exact jumpTo_arch s c t

theorem finishFlow_call (s : State) (c : Core) (from' r t : Word) (ind : Bool) :
    (finishFlow s c ⟨from', .call r t ind⟩).arch = (s.updCore c fun k => { k with pc := t, rs := r :: k.rs, flow := none }).arch := by
  have hj : (jumpTo (s.updCore c fun k => { k with rs := r :: k.rs }) c t).arch =
      (s.updCore c fun k => { k with pc := t, rs := r :: k.rs, flow := none }).arch := by
    rw [jumpTo_arch, updCore_updCore]
  unfold finishFlow
  dsimp only
  split
  · rw [trcAddr_arch, hj]
  · exact hj

theorem finishFlow_ret (s : State) (c : Core) (from' t : Word) :
    (finishFlow s c ⟨from', .ret t⟩).arch = (s.updCore c fun k => { k with pc := t, rs := k.rs.tail, flow := none }).arch := by
  unfold finishFlow
  dsimp only
  rw [trcAddr_arch, jumpTo_arch, updCore_updCore]

/-- RETT restores FL and STATE, and ACTIVE falls in the slots above the restored LEVEL (R94, R95). -/
theorem finishFlow_rett (s : State) (c : Core) (from' t fl st : Word) :
    (finishFlow s c ⟨from', .rett t fl st⟩).arch = (s.updCore c fun k =>
      { k with pc := t, fl := fl.setWidth 4, state := st, flow := none
               listen := k.listen.map fun l => if (st >>> 4 &&& 7).toNat < l.level.toNat then { l with active := false } else l }).arch := by
  have hj : ((jumpTo s c t).updCore c fun k =>
      ({ k with fl := fl.setWidth 4, state := st, skipBrk := true } : CoreState).clearActive).arch = (s.updCore c fun k =>
      { k with pc := t, fl := fl.setWidth 4, state := st, flow := none
               listen := k.listen.map fun l => if (st >>> 4 &&& 7).toNat < l.level.toNat then { l with active := false } else l }).arch := by
    unfold jumpTo
    rw [updCore_updCore]
    refine updCore_arch c rfl ?_
    simp only [CoreState.clearActive, level_eq]
    rfl
  unfold finishFlow
  dsimp only
  split
  · rw [trcState_arch, hj]
  · rw [trcAddr_arch, trcState_arch, hj]

/-- SYSCALL and BREAK trap at the end of their slot, when no debugger takes the BREAK (R89 cause 11, R485). -/
theorem finishFlow_trap (s : State) (c : Core) (from' detail : Word) (cause : BitVec 8) (hh : cause ≠ 0x0B ∨ s.cores[c].hctrl = false) :
    finishFlow s c ⟨from', .trap cause detail⟩ = trapEnter s c cause detail 0 (from' + 8) false none := by
  refine if_neg ?_
  simp only [Bool.and_eq_true, decide_eq_true_eq]
  rintro ⟨⟨hc, hb⟩, -⟩
  exact hh.elim (fun h => h hc) fun h => Bool.false_ne_true (h.symm.trans hb)

/-- A word without accesses meets no watchpoint. -/
theorem watchAct_nil (s : State) (c : Core) (world : Bool) : watchAct s c world [] = s := by
  have : watchMatch s.cores[c] world [] = none := by
    unfold watchMatch
    rw [List.findSome?_eq_none_iff]
    intro i _
    dsimp only
    split <;> rfl
  unfold watchAct
  rw [this]

/-- ADDI writes its register and ends its word. -/
theorem runPlain_addi (s : State) (c : Core) (p : Pace) (d a : Reg) (imm : BitVec 17) :
    runPlain s c p (.imm .addi d a imm) = finishWord ((payWord s c ⟨1, 1⟩ 0 0).updCore c fun k =>
      k.setReg d (s.cores[c].reg a + imm.signExtend 32)) c :=
  watchAct_nil ..

theorem wordCause_addi {k : CoreState} {c : Core} {d a : Reg} {imm : BitVec 17} (h : stackOk k d (k.reg a + imm.signExtend 32) = true) :
    wordCause k c (.imm .addi d a imm) = none := by
  have hl : Plan.limit { regs := [(d, k.reg a + imm.signExtend 32)] } k.dsl = none := by
    simpa [stackOk, Plan.limit, Decidable.imp_iff_not_or] using h
  unfold wordCause
  dsimp only [plans]
  simp [Plan.misaligned, immOp, hl]

/-- An ADDI in the delay slot of `f` on a calm core writes its register, and then the transfer takes effect. -/
theorem addi_endsSlot {s u : State} {c : Core} {p : Pace} {d a : Reg} {imm : BitVec 17} {f : Flow} (h : calm s c p = true)
    (hf : s.cores[c].flow = some f) (hk : stackOk s.cores[c] d (s.cores[c].reg a + imm.signExtend 32) = true) (hq : quiet u = quiet s)
    (hu : ∀ t, t.arch = (s.updCore c fun k => k.setReg d (s.cores[c].reg a + imm.signExtend 32)).arch → (finishFlow t c f).arch = u.arch) :
    Completes (.addi c p d a imm) s u := by
  refine ⟨_, rfl, runWord_plain_arch h rfl (.inl rfl) (.inl rfl) (wordCause_addi hk) hq fun t ha => ?_⟩
  have ht : ((payWord t c ⟨1, 1⟩ 0 0).updCore c fun k => k.setReg d (t.cores[c].reg a + imm.signExtend 32)).arch =
      (s.updCore c fun k => k.setReg d (s.cores[c].reg a + imm.signExtend 32)).arch := by
    rw [reg_arch (arch_core ha c) a]
    exact updCore_arch_congr c ((payWord_arch ..).trans ha) fun k => setReg_arch k d _
  have hflow : (s.updCore c fun k => k.setReg d (s.cores[c].reg a + imm.signExtend 32)).cores[c].flow = some f := by
    rw [updCore_same, setReg_eq, hf]
  rw [runPlain_addi]
  unfold finishWord
  rw [(arch_get c (·.flow) ht).trans hflow]
  exact hu _ ht

/-- As `addi_endsSlot`, for a transfer that changes only its core. -/
theorem addi_endsSlot_core {s : State} {c : Core} {p : Pace} {d a : Reg} {imm : BitVec 17} {f : Flow} {g : CoreState → CoreState}
    (h : calm s c p = true) (hk : stackOk s.cores[c] d (s.cores[c].reg a + imm.signExtend 32) = true) (hf : s.cores[c].flow = some f)
    (hg : ∀ t, (finishFlow t c f).arch = (t.updCore c g).arch) (ha : ∀ k : CoreState, (g k).arch = g k.arch := by intro; rfl) :
    Completes (.addi c p d a imm) s (s.updCore c fun k => g (k.setReg d (s.cores[c].reg a + imm.signExtend 32))) := by
  refine addi_endsSlot h hf hk rfl fun t ht => ?_
  rw [hg, updCore_arch_congr c ht ha, updCore_updCore]

/-- An ADDI in the slot of SYSCALL or BREAK on a calm core with TL 0: its result stands, and the trap follows with the address after the slot. -/
theorem addi_endsSlot_trap {s : State} {c : Core} {p : Pace} {d a : Reg} {imm : BitVec 17} {from' detail : Word} {cause : BitVec 8}
    (h : calm s c p = true) (hk : stackOk s.cores[c] d (s.cores[c].reg a + imm.signExtend 32) = true)
    (hf : s.cores[c].flow = some ⟨from', .trap cause detail⟩) (htl : s.cores[c].tl = false)
    (hh : cause ≠ 0x0B ∨ s.cores[c].hctrl = false) :
    Completes (.addi c p d a imm) s
      (trapped (s.updCore c fun k => { k.setReg d (s.cores[c].reg a + imm.signExtend 32) with flow := none }) c cause detail 0 (from' + 8) false) := by
  refine addi_endsSlot h hf hk rfl fun t ht => ?_
  have hc {α : Type} (q : CoreState → α) (hq : ∀ k : CoreState, q k.arch = q k := by intro; rfl)
      (hs : ∀ (k : CoreState) g, q { k with g := g } = q k := by intros; rfl) : q t.cores[c] = q s.cores[c] := by
    rw [arch_get c q ht hq, updCore_same, setReg_eq, hs]
  rw [finishFlow_trap _ _ _ _ _ (by rw [hc (·.hctrl)]; exact hh),
    trapEnter_arch _ _ _ _ _ (by rw [hc (·.tl), htl]) (by rw [hc (·.run), calm_running h]) (by rw [hc (·.blk), (calm_facts h).2.1]),
    trapped_arch c _ _ _ _ _ ht]
  unfold trapped
  rw [updCore_updCore, updCore_updCore]
  exact updCore_arch c rfl rfl

/-! ### The obligation -/

/-- Settles O6: each flow word holds its transfer (`completes_flow`) or takes the trap of its cause (`traps_cause`), and the end of
the slot makes the transfer happen (`addi_endsSlot`). -/
theorem flowWords : Obligations.FlowWords := by
  unfold Obligations.FlowWords
  refine ⟨fun s c p a cond off far code h => ?_, fun s c p d a imm from' t r fl st detail ind cause h => ?_⟩
  · intro k pc rel held
    refine ⟨fun hn => ?_, ?_, fun hd => ?_, fun ha => ⟨?_, fun hd => ?_⟩, fun hd => ?_, fun htl => ⟨fun hd => ⟨?_, fun ha => ?_⟩, fun hd => ?_⟩,
      fun hp hw => ?_, fun hs => ?_, fun hb hw => ?_, ?_⟩
    · exact completes_flow h rfl (if_neg hn) (.inl rfl) rfl rfl
    · exact completes_flow h rfl rfl (.inl rfl) rfl rfl
    · exact completes_flow h rfl rfl (.inl rfl) ((wordCause_call ..).trans (if_neg (Nat.not_le_of_lt hd))) rfl
    · exact completes_flow h rfl rfl (.inl rfl) (wordCause_jr ha) rfl
    · exact completes_flow h rfl rfl (.inl rfl) ((wordCause_callr ha).trans (if_neg (Nat.not_le_of_lt hd))) rfl
    · exact completes_flow h rfl rfl (.inl rfl) ((wordCause_ret ..).trans (if_neg hd)) rfl
    · exact traps_cause h htl rfl rfl (.inl rfl) ((wordCause_call ..).trans (if_pos hd))
    · exact traps_cause h htl rfl rfl (.inl rfl) ((wordCause_callr ha).trans (if_pos hd))
    · exact traps_cause h htl rfl rfl (.inl rfl) ((wordCause_ret ..).trans (if_pos hd))
    · exact completes_flow h rfl rfl (.inr hp) (wordCause_rett hw) rfl
    · exact completes_flow h rfl rfl (.inl rfl) rfl (heldKind_syscall hs)
    · exact completes_flow h rfl rfl (.inl rfl) rfl (heldKind_secureCall hb hw)
    · exact completes_flow h rfl rfl (.inl rfl) rfl rfl
  · intro k v pends ends hk
    refine ⟨fun hf => ?_, fun hf => ?_, fun hf => ?_, fun hf => ?_, fun hf => ?_, fun hf htl hh => ?_⟩
    · exact addi_endsSlot_core h hk hf fun t => finishFlow_notTaken ..
    · exact addi_endsSlot_core h hk hf fun t => finishFlow_taken ..
    · exact addi_endsSlot_core h hk hf fun t => finishFlow_call ..
    · exact addi_endsSlot_core h hk hf fun t => finishFlow_ret ..
    · exact addi_endsSlot_core h hk hf fun t => finishFlow_rett ..
    · exact addi_endsSlot_trap h hk hf htl hh

end Sys2Proof.Machine

/-!
PROOF of `Obligations.LeaveArbiter` (17): the commands of LV_REQ and the end of a wait for leave. First what a register write by a port that is no
stage core's comes to (`completes_regStore`), then the fields of LV_REQ, the decisions of the arbiter, its two commands (`lvCommand`), and what a
refusal after a wait tells its requester (`leaveWaitEnd_alone`).
-/

namespace Sys2Proof.Machine

/-! ### A port's write of a register -/

theorem setLast_arch_congr {s t : State} (h : s.arch = t.arch) (m : Master) (ans : BitVec 3) (data : Word) :
    (setLast s m ans data).arch = (setLast t m ans data).arch :=
  congrArg (fun u : State => ({ u with last := putV u.last m (ans, data) } : State)) h

theorem quiet_setLast (s : State) (m : Master) (ans : BitVec 3) (data : Word) : quiet (setLast s m ans data) = quiet s := rfl

theorem blockMay_arch {s t : State} (h : s.arch = t.arch) (b : Block) (w : Who) (wr : Bool) : blockMay s b w wr = blockMay t b w wr :=
  arch_field (fun u => blockMay u b w wr) h

theorem domUp_arch {s t : State} (h : s.arch = t.arch) (code : Fin 16) : domUp s code = domUp t code :=
  arch_field (fun u => domUp u code) h

theorem variant_arch {s t : State} (h : s.arch = t.arch) : s.variant = t.variant :=
  arch_field (fun u => u.variant) h

/-- What `canWrite` says of a master that is no stage core and the register at `off` of block b. -/
theorem canWrite_facts {s : State} {p : Port} {addr : Word} {blk off : Nat} {b : Block} (h : canWrite s p addr = true)
    (hr : regionOf addr.toNat = .periph blk off) (hb : blockAt blk = some b) :
    portMay s p = true ∧ admits s p.m 1 4 = true ∧ addr.toNat % 4 = 0 ∧ b.absent s.variant = false ∧
    (b.prompterOnly && decide (p.m.val ≠ 8)) = false ∧ blockMay s b (portWho s p) true = true ∧ domUp s b.domain = true ∧
    quiet s = true := by
  simp only [canWrite, reaches, hr, hb, Bool.and_eq_true, Bool.not_eq_true', decide_eq_true_eq] at h
  obtain ⟨⟨⟨⟨⟨hmay, hadm⟩, _⟩, hal⟩, ⟨⟨habs, hpr⟩, hown⟩, hdom⟩, hq⟩ := h
  exact ⟨hmay, hadm, hal, habs, hpr, hown, hdom, hq⟩

/-- A write that gets past the checks of R50 has the effect of its register. -/
theorem busWriteAt_reg {s t : State} {w : Who} {a blk off : Nat} {b : Block} {v : Word} (hr : regionOf a = .periph blk off)
    (hb : blockAt blk = some b) (ha : b.absent s.variant = false) (hi : instAbsent s b w off = false)
    (hp : (b.prompterOnly && decide (w.p.m.val ≠ 8)) = false) (hm : blockMay s b w true = true) (hd : domUp s b.domain = true)
    (hw : blockWrite s b w off v = .ok t) : busWriteAt s w a 4 v 0 = .done (setLast t w.p.m 0 0) 0 0 := by
  have hs : staticAns s w .write a 4 = 0 := by simp [staticAns, hr, hb, ha]
  have hpw : periphWrite s w blk off 4 v = .ok t := by
    simp only [periphWrite, hb, ha, hi, hp, hm, hd, hw]
    rfl
  simp only [busWriteAt, hs, hr, hpw]
  rfl

@[simp] theorem portWho_port (s : State) (p : Port) : (portWho s p).p = p := by
  unfold portWho
  dsimp only
  split
  · rfl
  · split
    · rfl
    · split <;> rfl

/-- A write by a port other than a stage core's that nothing turns aside: it is charged and answered OK, and has the effect t of its register on
a state s that its charge has not changed. -/
theorem completes_regStore {i : Instr} {s t : State} {p : Port} {addr v : Word} {blk off : Nat} {b : Block} (h : canWrite s p addr = true)
    (he : exec i s = .next (regStore s p addr v)) (hc : portCore p.m = none) (hr : regionOf addr.toNat = .periph blk off)
    (hb : blockAt blk = some b) (hi : ∀ u, instAbsent u b (portWho s p) off = false) (hq : quiet t = quiet s)
    (hw : ∀ u, u.arch = s.arch → ∃ x, blockWrite u b (portWho s p) off v = .ok x ∧ x.arch = t.arch) :
    Completes i s (wroteOk t p) := by
  obtain ⟨hmay, hadm, hal, habs, hpr, hown, hdom, hquiet⟩ := canWrite_facts h hr hb
  let u := (bwrTake s p.m 4).1
  have hu : u.arch = s.arch := bwrTake_arch s p.m 4
  obtain ⟨x, hx, hxt⟩ := hw u hu
  have hstat : staticAns s (portWho s p) .write addr.toNat 4 = 0 := by simp [staticAns, hr, hb, habs]
  have hbus : busWriteAt u (portWho s p) addr.toNat 4 v 0 = .done (setLast x p.m 0 0) 0 0 := by
    have := busWriteAt_reg (s := u) (w := portWho s p) hr hb (variant_arch hu ▸ habs) (hi u) (by simpa using hpr)
      (blockMay_arch hu b _ _ ▸ hown) (domUp_arch hu _ ▸ hdom) hx
    simpa using this
  have hport : portWrite s p addr v = setLast x p.m 0 0 := by
    have htake : (bwrTake s p.m 4).2 = true := bwrTake_admits hadm (by omega) (by omega) (by omega)
    have hch : busCharged s (portWho s p) .write addr.toNat 4 = true := by simp [busCharged, hstat, onFabric, hr]
    simp [portWrite, hmay, hal, hc, busWrite, busTake, hch, htake, show (bwrTake s p.m 4).1 = u from rfl, hbus, portLeft]
  have hxq : quiet (setLast x p.m 0 0) = true := by rw [quiet_setLast, quiet_arch hxt, hq, hquiet]
  exact ⟨setLast x p.m 0 0, by rw [he, regStore, hport, cueSettle_quiet hxq], setLast_arch_congr hxt ..⟩

/-! ### The words of LV_REQ -/

/-- The bits of LV_REQ without its OP for these fields (R359). -/
def lvReqWord (units ticket : Nat) (cls : BitVec 2) : BitVec 28 := BitVec.ofNat 28 (units + 4096 * ticket + 2 ^ 20 * cls.toNat)

theorem cmdWord_toNat {op : Nat} (rest : BitVec 28) (h : op < 16) :
    (cmdWord op rest).toNat = rest.toNat / 2 ^ 24 * 2 ^ 28 + op * 2 ^ 24 + rest.toNat % 2 ^ 24 := by
  have hl := rest.isLt
  simp only [cmdWord, natW, bitsOf, BitVec.toNat_setWidth, BitVec.toNat_ofNat]
  omega

theorem cmdRest_toNat (v : Word) : (cmdRest v).toNat = v.toNat / 2 ^ 28 * 2 ^ 24 + v.toNat % 2 ^ 24 := by
  have hl := v.isLt
  have hlow : (v.extractLsb' 0 24).toNat = v.toNat % 2 ^ 24 := by simp [BitVec.extractLsb'_toNat]
  have hhigh : (v.extractLsb' 28 4).toNat = v.toNat / 2 ^ 28 := by
    simp only [BitVec.extractLsb'_toNat, Nat.shiftRight_eq_div_pow]
    omega
  rw [cmdRest, BitVec.toNat_append, ← Nat.shiftLeft_add_eq_or_of_lt (BitVec.isLt _), Nat.shiftLeft_eq, hlow, hhigh]

theorem cmdRest_cmdWord {op : Nat} (rest : BitVec 28) (h : op < 16) : cmdRest (cmdWord op rest) = rest := by
  apply BitVec.eq_of_toNat_eq
  rw [cmdRest_toNat, cmdWord_toNat rest h]
  omega

theorem bitsOf_cmdWord_op {op : Nat} (rest : BitVec 28) (h : op < 16) : bitsOf (cmdWord op rest) 24 4 = op := by
  rw [bitsOf, cmdWord_toNat rest h]
  omega

theorem lvReqWord_toNat {units ticket : Nat} (cls : BitVec 2) (hu : units ≤ 400) (ht : ticket < 8) :
    (lvReqWord units ticket cls).toNat = units + 4096 * ticket + 2 ^ 20 * cls.toNat := by
  have hc := cls.isLt
  simp only [lvReqWord, BitVec.toNat_ofNat]
  omega

theorem lvReqWord_fields {units ticket : Nat} (cls : BitVec 2) (hu : units ≤ 400) (ht : ticket < 8) :
    let w := lvReqWord units ticket cls
    bitsOf (w.setWidth 32) 0 9 = units ∧ bitsOf (w.setWidth 32) 12 3 = ticket ∧ w.extractLsb' 20 2 = cls ∧
    w.extractLsb' 24 4 = 0#4 ∧ w.extractLsb' 22 2 = 0#2 ∧ w.extractLsb' 15 5 = 0#5 ∧ w.extractLsb' 9 3 = 0#3 := by
  have hc := cls.isLt
  simp only [bitsOf, BitVec.toNat_setWidth, ← BitVec.toNat_inj, BitVec.extractLsb'_toNat, Nat.shiftRight_eq_div_pow,
    lvReqWord_toNat cls hu ht, BitVec.toNat_ofNat]
  omega

/-- The number of the last command in LV_CSTAT (R359). -/
def lvCstat (s : State) (n : BitVec 4) : State := { s with lv := { s.lv with cstat := n } }

/-- A REQUEST whose fields are in range (R359). -/
theorem lvCommand_request (s : State) {units : Nat} (ticket : Fin 8) (cls : BitVec 2) (h1 : 1 ≤ units) (h2 : units ≤ 400) :
    let r : Fin 41 := ⟨ticket.val, by omega⟩
    lvCommand s 1 (lvReqWord units ticket.val cls) =
      if lvHolds s r || lvWaits s r then (lvCstat s 2, false) else (lvCstat (lvRequest s r units cls).1 0, false) := by
  obtain ⟨hun, htk, hcl, hr1, hr2, hr3, hr4⟩ := lvReqWord_fields cls h2 ticket.isLt
  simp only [lvCommand, hun, htk, hcl, hr1, hr2, hr3, hr4]
  rw [if_neg (by simp; omega)]
  rfl

/-- A RELEASE whose fields are in range (R359). -/
theorem lvCommand_release (s : State) {units : Nat} (ticket : Fin 8) (cls : BitVec 2) (h1 : 1 ≤ units) (h2 : units ≤ 400) :
    let r : Fin 41 := ⟨ticket.val, by omega⟩
    lvCommand s 2 (lvReqWord units ticket.val cls) = if lvHolds s r then (lvCstat (leaveRelease s r) 0, false) else (lvCstat s 3, false) := by
  obtain ⟨hun, htk, hcl, hr1, hr2, hr3, hr4⟩ := lvReqWord_fields cls h2 ticket.isLt
  simp only [lvCommand, hun, htk, hcl, hr1, hr2, hr3, hr4]
  rw [if_neg (by simp; omega), if_neg (by decide)]
  cases lvHolds s ⟨ticket.val, by omega⟩ <;> rfl

/-! ### The arbiter's decisions -/

theorem lvDecide_granted {l : Leave} {units : Nat} {cls : BitVec 2} (hb : units ≤ l.budget) (hw : ∀ x ∈ l.waiting, cls.toNat < x.cls.toNat)
    (hf : l.held.toList.sum + units ≤ l.budget) : lvDecide l units cls = .granted := by
  have hnone : (l.waiting.any fun w => decide (w.cls.toNat ≤ cls.toNat)) = false := by
    simpa using fun x hx => hw x hx
  rw [lvDecide, if_neg (by omega), if_pos (by rw [hnone]; exact decide_eq_true hf)]

theorem lvDecide_waiting {l : Leave} {units : Nat} {cls : BitVec 2} (hb : units ≤ l.budget) (hf : l.budget < l.held.toList.sum + units)
    (hl : l.waitlim[cls.toFin] ≠ 0) : lvDecide l units cls = .waiting := by
  have hfits : decide (lvGranted l + units ≤ l.budget) = false := decide_eq_false (by unfold lvGranted; omega)
  rw [lvDecide, if_neg (by omega), if_neg (by rw [hfits]; simp), if_neg hl]

theorem lvRequest_granted (s : State) (r : Fin 41) {units : Nat} {cls : BitVec 2} (hd : lvDecide s.lv units cls = .granted) :
    lvRequest s r units cls = (lvGive s r units cls none, .granted) := by
  rw [lvRequest, hd]

theorem lvRequest_waiting (s : State) (r : Fin 41) {units : Nat} {cls : BitVec 2} (hd : lvDecide s.lv units cls = .waiting) :
    lvRequest s r units cls = ({ s with lv := { s.lv with waiting := s.lv.waiting ++ [⟨r, units, cls, s.now⟩] } }, .waiting) := by
  rw [lvRequest, hd]

/-- A release while nothing waits serves nobody (R356). -/
theorem leaveRelease_unwaited {s : State} {r : Fin 41} (hw : s.lv.waiting = []) :
    leaveRelease s r = { s with lv := { s.lv with held := putV s.lv.held r 0 } } := by
  have ht : lvReturn (lvWithdraw s r) r = { s with lv := { s.lv with held := putV s.lv.held r 0 } } := by
    simp [lvReturn, lvWithdraw, hw]
  have hs : ∀ t : State, t.lv.waiting = [] → leaveServe t = t := by
    intro t h
    simp [leaveServe, lvServe, lvFirst, h]
  rw [leaveRelease, ht]
  dsimp only
  rw [hs { s with lv := { s.lv with held := putV s.lv.held r 0 } } hw, ite_self]

/-! ### LV_REQUEST and LV_RELEASE -/

/-- A command of LV_REQ that passes its field check and changes the arbiter only. -/
theorem completes_lvCommand {i : Instr} {s : State} {op : Nat} {rest : BitVec 28} {l : Leave} (h : canWrite s elvPort 0x40020000 = true)
    (he : exec i s = .next (regStore s elvPort 0x40020000 (cmdWord op rest))) (hop : op < 16)
    (hw : ∀ u : State, u.lv = s.lv → u.now = s.now → lvCommand u op rest = ({ u with lv := l }, false)) :
    Completes i s (wroteOk { s with lv := l } elvPort) := by
  refine completes_regStore (blk := 2) (off := 0) (b := .lv) h he rfl rfl rfl (fun u => rfl) rfl fun u hu => ⟨{ u with lv := l }, ?_, ?_⟩
  · have hc := hw u (arch_field (fun t => t.lv) hu) (arch_field (fun t => t.now) hu)
    simp only [blockWrite, lvWrite, bitsOf_cmdWord_op rest hop, cmdRest_cmdWord rest hop, hc]
    rfl
  · exact congrArg (fun t : State => ({ t with lv := l } : State)) hu

/-- What a request makes of the arbiter depends on the arbiter and the time only. -/
theorem lvRequest_congr {s u : State} (r : Fin 41) (units : Nat) (cls : BitVec 2) (hl : u.lv = s.lv) (ht : u.now = s.now) :
    (lvRequest u r units cls).1 = { u with lv := (lvRequest s r units cls).1.lv } := by
  unfold lvRequest
  rw [hl]
  cases lvDecide s.lv units cls <;> simp [lvGive, lvRefuse, hl, ht]

section
variable {s : State} {units : Nat} {ticket : Fin 8} {r : Fin 41} {cls : BitVec 2} (h : canWrite s elvPort 0x40020000 = true)
  (hr : r = ⟨ticket.val, by omega⟩) (h1 : 1 ≤ units) (h2 : units ≤ 400)
include h hr h1 h2

/-- A REQUEST on a ticket that neither holds nor waits reaches the arbiter (R356, R359). -/
theorem completes_lvRequest_free {t : State} {x : LvResult} (hh : s.lv.held[r] = 0) (hn : ∀ x ∈ s.lv.waiting, x.r ≠ r)
    (hd : lvRequest s r units cls = (t, x)) :
    Completes (.lvRequest (lvReqWord units ticket.val cls)) s (wroteOk (lvCstat { s with lv := t.lv } 0) elvPort) := by
  refine completes_lvCommand h rfl (by decide) fun u hl ht => ?_
  have hfree : ¬(lvHolds u r || lvWaits u r) := by simpa [lvHolds, lvWaits, hl, hh] using hn
  rw [lvCommand_request u ticket cls h1 h2, ← hr, if_neg hfree, lvRequest_congr r units cls hl ht, hd]
  rfl

/-- A REQUEST on a ticket that holds or waits is TICKET_BUSY and changes nothing (R359). -/
theorem completes_lvRequest_busy (hb : s.lv.held[r] ≠ 0 ∨ ∃ x ∈ s.lv.waiting, x.r = r) :
    Completes (.lvRequest (lvReqWord units ticket.val cls)) s (wroteOk (lvCstat s 2) elvPort) := by
  refine completes_lvCommand h rfl (by decide) fun u hl ht => ?_
  have hbusy : lvHolds u r || lvWaits u r := by simpa [lvHolds, lvWaits, hl] using hb
  rw [lvCommand_request u ticket cls h1 h2, ← hr, if_pos hbusy]
  simp only [lvCstat, hl]

/-- A RELEASE of a ticket that holds nothing is NOT_HELD and changes nothing (R359). -/
theorem completes_lvRelease_notHeld (hh : s.lv.held[r] = 0) :
    Completes (.lvRelease (lvReqWord units ticket.val cls)) s (wroteOk (lvCstat s 3) elvPort) := by
  refine completes_lvCommand h rfl (by decide) fun u hl ht => ?_
  rw [lvCommand_release u ticket cls h1 h2, ← hr, if_neg (by simp [lvHolds, hl, hh])]
  simp only [lvCstat, hl]

/-- A RELEASE returns the units of its ticket (R356). -/
theorem completes_lvRelease_held (hh : s.lv.held[r] ≠ 0) (hw : s.lv.waiting = []) :
    Completes (.lvRelease (lvReqWord units ticket.val cls)) s
      (wroteOk (lvCstat { s with lv := { s.lv with held := putV s.lv.held r 0 } } 0) elvPort) := by
  refine completes_lvCommand h rfl (by decide) fun u hl ht => ?_
  rw [lvCommand_release u ticket cls h1 h2, ← hr, if_pos (by simpa [lvHolds, hl] using hh), leaveRelease_unwaited (hl ▸ hw)]
  simp only [lvCstat, hl]

end

/-! ### The end of a wait -/

/-- The arbiter after the only request that waits, w, has been refused (R356). -/
def lvTimedOut (s : State) (w : LvWait) : State :=
  { s with lv := { s.lv with
    waiting := [], refusals := updV s.lv.refusals w.cls.toFin (· + 1), evt := s.lv.evt.raise 0
    rwait := putV s.lv.rwait w.r (s.now - w.arrival), rstat := putV s.lv.rstat w.r 3 } }

/-- The only request that waits reaches the end of its wait, and is no ticket of Elvuk's. -/
theorem leaveWaitEnd_alone {s : State} {w : LvWait} (hw : s.lv.waiting = [w]) (ht : w.arrival + s.lv.waitlim[w.cls.toFin] ≤ s.now)
    (hr : 16 < w.r.val) (hj : s.elv.jobs = []) (hc : s.elv.clean ≠ some w.r) (he : (onRefused (lvTimedOut s w) w.r).elv = s.elv) :
    leaveWaitEnd s w.r = heldAgain (onRefused (lvTimedOut s w) w.r) w.r := by
  have hf : s.lv.waiting.find? (fun x => x.r = w.r) = some w := by simp [hw]
  have hl : lvRefuse (lvWithdraw s w.r) w.r w.cls (s.now - w.arrival) = lvTimedOut s w := by
    simp [lvRefuse, lvWithdraw, lvTimedOut, hw]
  have hn : cleanRefused (onRefused (lvTimedOut s w) w.r) w.r = onRefused (lvTimedOut s w) w.r := by
    rw [cleanRefused, he, if_neg hc]
  rw [leaveWaitEnd, hf]
  dsimp only
  rw [if_neg (by omega), hl, hn, he, hj, List.find?_nil]
  exact if_neg (by omega)

theorem onRefused_adc (s : State) {r : Fin 41} {a : Fin 4} (hr : r.val = 17 + a.val) :
    onRefused s r = updAdc s a fun k => { k with
      en := false, leaveWait := false, scan := none, reqs := [], kpdReq := false, evt := k.evt.raise 2 } := by
  have ha : (⟨r.val - 17, by omega⟩ : Fin 4) = a := Fin.ext (by simp [hr])
  rw [onRefused, if_neg (by omega), dif_pos (by omega), ha]

theorem onRefused_stat (s : State) {r : Fin 41} (hr : r.val = 32) :
    onRefused s r = { s with stat := { s.stat with en := false, leaveWait := false, evt := s.stat.evt.raise 3 } } := by
  rw [onRefused, if_neg (by omega), dif_neg (by omega), dif_neg (by omega), if_neg (by omega), if_pos hr]

theorem onRefused_core (s : State) {r : Fin 41} (hr : 33 ≤ r.val) : onRefused s r = s := by
  rw [onRefused, if_neg (by omega), dif_neg (by omega), dif_neg (by omega), if_neg (by omega), if_neg (by omega)]

theorem heldAgain_noCore (s : State) {r : Fin 41} (hr : r.val < 33) : heldAgain s r = s := by
  rw [heldAgain, dif_neg (by omega)]

/-- The core of a HELD send is asked for again after a refusal, another core is not (R355). -/
theorem heldAgain_core (s : State) {r : Fin 41} {d : Core} (hr : r.val = 33 + d.val) :
    let code : Fin 32 := ⟨2 + d.val, by omega⟩
    heldAgain s r = if s.pwr.heldUp.contains code then
      heldRefused { s with pwr := { s.pwr with heldUp := s.pwr.heldUp.filter (· ≠ code) } } d else s := by
  have hcode : (⟨r.val - 31, by omega⟩ : Fin 32) = ⟨2 + d.val, by omega⟩ := Fin.ext (by simp only; omega)
  have hd : (⟨r.val - 33, by omega⟩ : Core) = d := Fin.ext (by simp only; omega)
  dsimp only
  rw [heldAgain, dif_pos (by omega), hcode, hd]

theorem leaves_leaveWaitLimit {s t : State} {r : Fin 41} (he : leaveWaitEnd s r = t) (hq : quiet t = true) :
    Leaves (.leaveWaitLimit r) s t := by
  have hx : exec (.leaveWaitLimit r) s = .next (cueSettle (leaveWaitEnd s r)) := rfl
  rw [Leaves, hx, he, cueSettle_quiet hq]

/-- Settles O32: the decisions of the arbiter on a command of LV_REQ, and what the end of a wait tells its requester. -/
theorem leaveArbiter : Obligations.LeaveArbiter := by
  unfold Obligations.LeaveArbiter
  intro s ticket units cls w p r word lv turned held c
  refine ⟨fun h h1 h2 => ⟨fun hh hn hb => ⟨fun hw hf => ?_, fun hf hl => ?_⟩, fun hb => ?_, fun hh => ?_, fun hh hw => ?_⟩,
    fun hw hq ht hj hc => ?_⟩
  · exact completes_lvRequest_free h rfl h1 h2 hh hn (lvRequest_granted s r (lvDecide_granted hb hw hf))
  · exact completes_lvRequest_free h rfl h1 h2 hh hn (lvRequest_waiting s r (lvDecide_waiting hb hf hl))
  · exact completes_lvRequest_busy h rfl h1 h2 hb
  · exact completes_lvRelease_notHeld h rfl h1 h2 hh
  · exact completes_lvRelease_held h rfl h1 h2 hh hw
  intro refused
  have ends (hr : 16 < w.r.val) (he : (onRefused refused w.r).elv = s.elv) :
      leaveWaitEnd s w.r = heldAgain (onRefused refused w.r) w.r := leaveWaitEnd_alone hw ht hr hj hc he
  refine ⟨fun a hr => leaves_leaveWaitLimit ?_ hq, fun hr => leaves_leaveWaitLimit ?_ hq, fun d hr => ?_⟩
  · have ho := onRefused_adc refused hr
    rw [ends (by omega) (by rw [ho]; rfl), ho, heldAgain_noCore _ (by omega)]
    rfl
  · have ho := onRefused_stat refused hr
    rw [ends (by omega) (by rw [ho]), ho, heldAgain_noCore _ (by omega)]
  · intro code
    have ho := onRefused_core refused (r := w.r) (by omega)
    have he := ends (by omega) (by rw [ho])
    rw [ho, heldAgain_core refused hr] at he
    exact ⟨fun hu => leaves_leaveWaitLimit (he.trans (if_pos hu)) hq,
      fun hu => leaves_leaveWaitLimit (he.trans (if_neg (hu ▸ Bool.false_ne_true))) hq⟩

end Sys2Proof.Machine

/-!
REFUTATION of `Obligations.WatchdogCommands` (18). Its clause for a first expiry in NAP says that REASON WATCHDOG is the one wake source accepted.
The expiry also posts the EXPIRY warning to queue 0x0060 (R375), and a commit in NAP to a queue with WAKE = 1 that is bound to a listen slot wakes
the device by itself, with REASON QUEUE (R350). First when a warning is committed at once, then what its commit adds to the wake sources, then
a device in NAP whose core 0 listens to queue 0x0060.
-/

namespace Sys2Proof.Machine

/-! ### The buffer of a message -/

/-- What `canPost` says of a source and its fixed queue. -/
theorem canPost_facts {s : State} {src : HwSrc} {q : BitVec 16} (h : canPost s src = true) (hf : src.fixed = some q) :
    poolCan s.pool src.cls = true ∧ s.pool.waits = [] ∧ cueWaits s src.master = false ∧ descDark s q = false ∧ descBad s q = false ∧
    8 ≤ s.cue.k ∧ (queueOf s q).pmode = 1 ∧ (∀ n, limitOf (queueOf s q).limit = some n → (queueOf s q).msgs.length < n) ∧
    consumerDark s (queueOf s q) = false ∧ memWf s.mem = true ∧ s.pool.base.toNat % 64 = 0 ∧
    s.pool.base.toNat + 64 * poolCount s.pool ≤ 2 ^ 32 := by
  simp only [canPost, hf, quiet, Bool.and_eq_true, Bool.not_eq_true', decide_eq_true_eq, List.isEmpty_iff] at h
  obtain ⟨⟨⟨⟨⟨⟨⟨⟨⟨⟨⟨hcan, _, hwait⟩, hcue⟩, hdark⟩, hbad⟩, hk⟩, hp⟩, hlim⟩, hcons⟩, hmem⟩, hbase⟩, hsize⟩ := h
  exact ⟨hcan, hwait, hcue, hdark, hbad, hk, hp, fun n hn => by simpa [hn] using hlim, hcons, hmem, hbase, hsize⟩

theorem poolCount_pos {p : Pool} {c : Fin 16} (h : poolCan p c = true) : 0 < poolCount p := by
  have hf : 0 < poolFree p := by
    simp only [poolCan, poolCanShared, Bool.or_eq_true, Bool.and_eq_true, decide_eq_true_eq] at h
    exact h.elim And.right And.right
  exact Nat.lt_of_lt_of_le hf (Nat.sub_le ..)

/-- The buffer that a grant takes is one of the pool's. -/
theorem poolPick_lt {p : Pool} (h : 0 < poolCount p) : poolPick p < poolCount p := by
  unfold poolPick
  dsimp only
  rw [List.getD_eq_getElem?_getD]
  cases hx : ((List.range (poolCount p)).filter fun i => p.tags.all fun t => t.idx ≠ i)[Config.bufferPick p.picks %
      ((List.range (poolCount p)).filter fun i => p.tags.all fun t => t.idx ≠ i).length]? with
  | none => exact h
  | some i => exact List.mem_range.1 (List.mem_filter.1 (List.mem_of_getElem? hx)).1

/-- The handle of a buffer names it (R198). -/
theorem poolIndex_poolHandle {p : Pool} {i : Nat} (hi : i < poolCount p) (ha : p.base.toNat % 64 = 0)
    (hs : p.base.toNat + 64 * poolCount p ≤ 2 ^ 32) : poolIndex p (poolHandle p i) = some i := by
  have hh : (poolHandle p i).toNat = p.base.toNat + 64 * i := by
    simp only [poolHandle, natW, BitVec.toNat_add, BitVec.toNat_ofNat]
    omega
  rw [poolIndex, hh, if_pos (by omega), Nat.add_sub_cancel_left, Nat.mul_div_cancel_left _ (by decide)]

/-- The state in which event e has its buffer, with the message in it (R197). -/
def hwFilled (s : State) (e : HwEvent) : State :=
  let p := poolTake s e.cls e.src.master false
  p.1.fill p.2.toNat (leBytes 4 (e.type.toNat * 64 + e.payload.length) ++ e.payload)

@[simp] theorem queueExists_hwFilled (s : State) (e : HwEvent) (q : BitVec 16) : queueExists (hwFilled s e) q = queueExists s q := rfl
@[simp] theorem queueOf_hwFilled (s : State) (e : HwEvent) (q : BitVec 16) : queueOf (hwFilled s e) q = queueOf s q := rfl
@[simp] theorem descDark_hwFilled (s : State) (e : HwEvent) (q : BitVec 16) : descDark (hwFilled s e) q = descDark s q := rfl
@[simp] theorem consumerDark_hwFilled (s : State) (e : HwEvent) (x : Queue) : consumerDark (hwFilled s e) x = consumerDark s x := rfl
@[simp] theorem cueWaits_hwFilled (s : State) (e : HwEvent) (m : BitVec 4) : cueWaits (hwFilled s e) m = cueWaits s m := rfl

/-- The buffer that holds the message is tagged OWNED by its source (R185). -/
theorem poolTag_hwFilled (s : State) (e : HwEvent) :
    poolTag (hwFilled s e).pool (poolPick s.pool) = some ⟨poolPick s.pool, 1, e.src.master, e.cls, 0⟩ :=
  List.find?_cons_of_pos (by simp)

/-- The low six bits of a filled buffer's first word are the length of its payload. -/
theorem hwFilled_length {s : State} (e : HwEvent) (hm : memWf s.mem = true) :
    ((hwFilled s e).word (poolHandle s.pool (poolPick s.pool)).toNat).toNat % 64 = e.payload.length % 64 := by
  have hb : memGet (hwFilled s e).mem (poolHandle s.pool (poolPick s.pool)).toNat =
      natB ((e.type.toNat * 64 + e.payload.length) / 256 ^ 0) :=
    memGet_memPut_at _ _ 0 _ (by simp only [leBytes, List.length_append, List.length_map, List.length_range]; omega) hm
  simp only [State.word, memBytes, List.range, List.range.loop, List.map, ofLe, Nat.add_zero, hb, natW, natB, BitVec.toNat_ofNat]
  omega

/-- Writing a message makes no descriptor bad. -/
theorem descBad_hwFilled {s : State} {q : BitVec 16} (e : HwEvent) (h : descBad s q = false) : descBad (hwFilled s e) q = false := by
  simp only [descBad, Bool.or_eq_false_iff, List.contains_eq_mem, decide_eq_false_iff_not] at h ⊢
  obtain ⟨⟨⟨hd, hd'⟩, hp⟩, hp'⟩ := h
  have sub {l : List Nat} {f : Nat → Bool} {a : Nat} (ha : a ∉ l) : a ∉ l.filter f := fun hm => ha (List.mem_filter.1 hm).1
  exact ⟨⟨⟨sub hd, sub hd'⟩, sub hp⟩, sub hp'⟩

/-! ### The commit of a message -/

/-- The read of a descriptor changes at most the words with a single error and the collector (R534). -/
theorem descRead_eq (s : State) (q : BitVec 16) : ∃ x y, descRead s q = { s with ec := x, sec := y } := by
  unfold descRead
  generalize [descAddr s q, descAddr s q + 4] = l
  induction l generalizing s with
  | nil => exact ⟨_, _, rfl⟩
  | cons a l ih =>
    rw [List.foldl_cons]
    split
    · rw [ecBuild_eq]
      exact ih _
    · exact ih s

theorem queueCommit_frame (s : State) (x : Queue) (h : Word) (m : BitVec 4) (secure : Bool) :
    (queueCommit s x h m secure).pwr = s.pwr ∧ (queueCommit s x h m secure).pool.waits = s.pool.waits := by
  unfold queueCommit
  dsimp only
  split <;> exact ⟨rfl, rfl⟩

theorem poolSettle_nobody {s : State} (h : s.pool.waits = []) : poolSettle s = s := by
  simp [poolSettle, poolServe, h]

/-- A commit in NAP to a queue with WAKE = 1 that is bound wakes the device with REASON QUEUE (R350). -/
theorem sendNow_napWake {s : State} {q : BitVec 16} {h : Word} {m : BitVec 4} {secure : Bool} {src : Option HwSrc}
    (hr : sendCheck s q h m secure src = 0) (hn : s.pwr.mode = .nap) (hw : (queueOf s q).wake = true)
    (hb : (queueOf s q).bound.isSome = true) :
    let p := sendNow s q h m secure src
    p.2 = 0 ∧ p.1.pwr = { s.pwr with wakes := s.pwr.wakes ++ [10] } ∧ p.1.pool.waits = s.pool.waits := by
  obtain ⟨x, y, hd⟩ := descRead_eq s q
  have hread : ∃ u : State, (if queueExists s q && (queueOf s q).isOpen then descRead s q else s) = u ∧ u.pwr = s.pwr ∧ u.pool = s.pool := by
    rw [hd]
    split <;> exact ⟨_, rfl, rfl, rfl⟩
  obtain ⟨u, hu, hpwr, hpool⟩ := hread
  obtain ⟨hc, hwait⟩ := queueCommit_frame u (queueOf s q) h m secure
  unfold sendNow
  dsimp only
  rw [hr, hu, if_pos rfl, if_pos (by simp [hc, hpwr, hn, hw, hb])]
  exact ⟨rfl, by rw [hc, hpwr], hwait.trans (by rw [hpool])⟩

/-! ### A warning of the watchdog -/

/-- The event of a warning (R378). -/
def wdMessage (payload : List Byte) : HwEvent := ⟨.watchdog, 0, 0x60#16, 0, payload, true⟩

section
variable {s : State} {payload : List Byte} (h : canPost s .watchdog = true)
include h

/-- A warning that can be posted has its buffer and is sent at once. -/
theorem wdPost_sent :
    wdPost s payload = poolSettle (sendHw (hwFilled s (wdMessage payload)) (wdMessage payload) (poolHandle s.pool (poolPick s.pool))) := by
  obtain ⟨hcan, hwait, hcue, -⟩ := canPost_facts (q := 0x60#16) h rfl
  have hevent : wdPost s payload = hwEvent s (wdMessage payload) := rfl
  have hgo : cueWaits (hwFilled s (wdMessage payload)) 15#4 = false := (cueWaits_hwFilled ..).trans hcue
  rw [hevent, hwEvent]
  dsimp only
  rw [if_neg (by simp [hwait])]
  exact (if_pos hcan).trans (congrArg poolSettle (if_neg (ne_true_of_eq_false hgo)))

variable (hn : payload.length ≤ 60)
include hn

/-- The send of a warning that can be posted passes every check of R172. -/
theorem sendCheck_wdMessage :
    sendCheck (hwFilled s (wdMessage payload)) 0x60#16 (poolHandle s.pool (poolPick s.pool)) 15#4 true (some .watchdog) = 0 := by
  obtain ⟨hcan, -, -, hdark, -, hk, hp, hl, hcons, hmem, hbase, hsize⟩ := canPost_facts (q := 0x60#16) h rfl
  have hi : poolIndex (hwFilled s (wdMessage payload)).pool (poolHandle s.pool (poolPick s.pool)) = some (poolPick s.pool) :=
    poolIndex_poolHandle (poolPick_lt (poolCount_pos hcan)) hbase hsize
  have he : queueExists s 0x60#16 = true :=
    decide_eq_true (Nat.lt_of_lt_of_le (by decide : 0x60 < 2 ^ 8) (Nat.pow_le_pow_right Nat.two_pos hk))
  have hlen : ((hwFilled s (wdMessage payload)).word (poolHandle s.pool (poolPick s.pool)).toNat).toNat % 64 ≤ 60 :=
    Nat.le_trans (Nat.le_of_eq (hwFilled_length (wdMessage payload) hmem)) (Nat.le_trans (Nat.mod_le ..) hn)
  have hmaster : (wdMessage payload).src.master = 15#4 := rfl
  cases hlim : limitOf (queueOf s 0x60#16).limit <;>
    simp [sendCheck, isDevice, HwSrc.fixed, he, hdark, hp, hi, poolTag_hwFilled, hmaster, hcons, Nat.not_lt_of_le hlen, hlim]
  exact decide_eq_false (Nat.not_le_of_lt (hl _ hlim))

/-- A warning that can be posted wakes the device from NAP with REASON QUEUE when its queue has WAKE = 1 and is bound. -/
theorem wdPost_napWake (hm : s.pwr.mode = .nap) (hw : (queueOf s 0x60#16).wake = true) (hb : (queueOf s 0x60#16).bound.isSome = true) :
    (wdPost s payload).pwr = { s.pwr with wakes := s.pwr.wakes ++ [10] } := by
  obtain ⟨-, hwait, -, -, hbad, -⟩ := canPost_facts (q := 0x60#16) h rfl
  obtain ⟨hok, hpwr, hnone⟩ := sendNow_napWake (sendCheck_wdMessage h hn) hm hw hb
  have hgood : cueBad (hwFilled s (wdMessage payload)) 0x60#16 = false := by
    rw [cueBad, descBad_hwFilled _ hbad, Bool.and_false]
  have hsend : sendHw (hwFilled s (wdMessage payload)) (wdMessage payload) (poolHandle s.pool (poolPick s.pool)) =
      (sendNow (hwFilled s (wdMessage payload)) 0x60#16 (poolHandle s.pool (poolPick s.pool)) 15#4 true (some .watchdog)).1 :=
    (if_neg (ne_true_of_eq_false hgood)).trans ((if_neg (nofun : HwSrc.watchdog ≠ .ec)).trans (if_pos (Nat.le_trans (Nat.le_of_eq hok) (Nat.zero_le 1))))
  rw [wdPost_sent h, hsend, poolSettle_nobody (hnone.trans hwait), hpwr]
  rfl

end

/-! ### A first expiry in NAP with a listener -/

/-- A device in NAP with its watchdog on, and with queue 0x0060 bound to listen slot 0 of core 0 (R96, R179). -/
def napListening : State :=
  let s := State.reset
  let k : CoreState := { run := .running, stopped := true, listen := putV (Vector.replicate 8 {}) 0 { en := true, queue := 0x60, level := 1 } }
  setQueue { s with pwr := { s.pwr with mode := .nap, dom := s.pwr.dom ||| 4 }, cores := putV s.cores 0 k, wd := { en := true, period := 8 } }
    { queueOf s 0x60 with wake := true, bound := some (0, 0), claimed := true, consumer := 0 }

/-- The state in the period of grace that a first expiry starts (R375). -/
def wdGrace (s : State) : State := { s with wd := { s.wd with count := 0, grace := true, gwake := true, warnHeld := none } }

/-- A first expiry in NAP starts the period of grace, posts its warning and wakes the device (R375). -/
theorem wdEnd_nap {s : State} (he : s.wd.en = true) (hg : s.wd.gwake = false) (hd : s.dbg.level ≠ 2#2) (hm : s.pwr.mode = .nap) :
    wdEnd s = wakeBy (wdPost (wdGrace s) (wdWarning s 1 0)) 8 := by
  have hx : wdExpire s = (wakeBy (wdPost (wdGrace s) (wdWarning s 1 0)) 8, none) := by
    rw [wdExpire, if_neg (by simp [he, wdHeld, hd]), if_neg (by simp [hg]), if_neg (by simp [hm])]
    dsimp only
    rw [hm]
    rfl
  rw [wdEnd, hx]

theorem wakeBy_nap {s : State} (hm : s.pwr.mode = .nap) (reason : Nat) : (wakeBy s reason).pwr.wakes = s.pwr.wakes ++ [reason] := by
  simp [wakeBy, hm]

/-- With a listener on queue 0x0060 the expiry has two wake sources: the commit of its warning, and itself. -/
theorem wdEnd_napListening : (wdEnd napListening).pwr.wakes = [10, 8] := by
  have hpost : (wdPost (wdGrace napListening) (wdWarning napListening 1 0)).pwr = { napListening.pwr with wakes := [10] } :=
    wdPost_napWake (s := wdGrace napListening) (by decide +kernel) (by decide) rfl (by decide +kernel) (by decide +kernel)
  rw [wdEnd_nap rfl rfl (by decide) rfl, wakeBy_nap (by rw [hpost]; rfl), hpost]
  rfl

/-- Refutes O37: in NAP, with queue 0x0060 bound and its WAKE 1, the expiry has REASON QUEUE accepted before REASON WATCHDOG, where the statement
has REASON WATCHDOG alone. -/
theorem not_watchdogCommands : ¬ Obligations.WatchdogCommands := by
  unfold Obligations.WatchdogCommands
  intro h
  obtain ⟨-, -, hrun, -⟩ := h napListening ⟨8, 0⟩ 0 0
  obtain ⟨-, -, -, -, -, hnap⟩ := hrun rfl (by decide)
  obtain ⟨t, ht, -, hpwr, -⟩ := hnap rfl rfl (by decide +kernel)
  obtain rfl : wdEnd napListening = t := Host.Outcome.next.inj ht
  have hwakes : [10, 8] = [8] := wdEnd_napListening.symm.trans (congrArg Pwr.wakes hpwr)
  exact absurd hwakes (by decide)

end Sys2Proof.Machine

/-!
PROOF of `Obligations.SetpointOutputs` (20): the code and the range of a setpoint output. First what a write of a peripheral register by any port
comes to (`completes_portStore`): a stage core's goes to the fabric at once when no store of it is buffered. Then how a range change starts
(`spdStarted`, `spdStart_eq`), the registers of an output, whose writes depend on the architecture alone (`spdRangeWrite_arch`), and the events
of a change (`spdSettle_inner`, `spdSettle_driving`), the last of which starts what is pending (`spdNext_pending`).
-/

namespace Sys2Proof.Machine

/-! ### A write of a peripheral register by any port -/

/-- A stage core whose register write goes straight to the fabric has no store buffered and none that failed (R111, R128). -/
theorem canWrite_core {s : State} {p : Port} {addr : Word} {c : Core} (h : canWrite s p addr = true) (hc : portCore p.m = some c) :
    s.cores[c].sb = [] ∧ s.cores[c].held = none := by
  simp only [canWrite, reaches, hc, Bool.and_eq_true, List.isEmpty_iff, Option.isNone_iff_eq_none] at h
  obtain ⟨⟨⟨⟨_, hstores⟩, _⟩, _⟩, _⟩ := h
  exact hstores

theorem sbDrain_empty {s : State} {c : Core} (h : s.cores[c].sb = []) : sbDrain s c = s := by
  rw [sbDrain, h]
  rfl

/-- An access that waits for the store buffer goes at once when the buffer is empty. -/
theorem drained_empty {s : State} {c : Core} (f : State → AccRes) (hs : s.cores[c].sb = []) (hh : s.cores[c].held = none) :
    drained s c f = f s := by
  rw [drained, sbDrain_empty hs, hs, hh]
  rfl

theorem portCore_master {m : Master} {c : Core} (h : portCore m = some c) : m = coreM c := by
  unfold portCore at h
  split at h
  · obtain rfl := Option.some.inj h
    rfl
  · exact absurd h (by simp)

/-- World and ownership let a stage core's words and its port reach the same registers (R301). -/
theorem blockMay_coreWho {s : State} {p : Port} {c : Core} (b : Block) (wr : Bool) (h : p.m = coreM c) :
    blockMay s b (coreWho s c) wr = blockMay s b (portWho s p) wr := by
  obtain ⟨m, ch⟩ := p
  obtain rfl : m = coreM c := h
  have hport : portWho s ⟨coreM c, ch⟩ = ⟨⟨coreM c, ch⟩, s.cores[c].world, s.cores[c].priv⟩ := dif_pos c.isLt
  rw [hport]
  rfl

section
variable {s x : State} {p : Port} {addr v : Word} {blk off : Nat} {b : Block} (h : canWrite s p addr = true)
  (hr : regionOf addr.toNat = .periph blk off) (hb : blockAt blk = some b)
  (hi : ∀ w, instAbsent (bwrTake s p.m 4).1 b w off = false)
  (hw : ∀ w, blockWrite (bwrTake s p.m 4).1 b w off v = .ok x)
include h hr hb hi hw

/-- A register write that the fabric carries at once, by a port that may make it, is charged and has the effect of its register. -/
theorem busWrite_reg {w : Who} (hwm : w.p.m = p.m) (hown : blockMay s b w true = true) :
    busWrite s w addr.toNat 4 v 0 = .done (setLast x p.m 0 0) 0 0 := by
  obtain ⟨-, hadm, -, habs, hpr, -, hdom, -⟩ := canWrite_facts h hr hb
  have hu : (bwrTake s p.m 4).1.arch = s.arch := bwrTake_arch s p.m 4
  have hstat : staticAns s w .write addr.toNat 4 = 0 := by simp [staticAns, hr, hb, habs]
  have hcharged : busCharged s w .write addr.toNat 4 = true := by simp [busCharged, hstat, onFabric, hr]
  have htake : (bwrTake s p.m 4).2 = true := bwrTake_admits hadm (by omega) (by omega) (by omega)
  rw [busWrite, busTake, if_pos hcharged]
  dsimp only
  rw [hwm, if_pos htake, busWriteAt_reg hr hb (variant_arch hu ▸ habs) (hi w) (hwm ▸ hpr) (blockMay_arch hu b w _ ▸ hown)
    (domUp_arch hu _ ▸ hdom) (hw w), hwm]

/-- A register write by any port that nothing turns aside has the effect of its register. -/
theorem portWrite_reg : portWrite s p addr v = setLast x p.m 0 0 := by
  obtain ⟨hmay, -, hal, -, -, hown, -, -⟩ := canWrite_facts h hr hb
  rw [portWrite, if_neg (by simp [hmay, hal])]
  cases hc : portCore p.m with
  | none =>
    dsimp only
    rw [busWrite_reg h hr hb hi hw (by rw [portWho_port]) hown]
    rfl
  | some c =>
    obtain ⟨hsb, hheld⟩ := canWrite_core h hc
    have hm : p.m = coreM c := portCore_master hc
    have hdrain : (targetOf addr.toNat).drains = true := by rw [targetOf, hr]; rfl
    dsimp only
    rw [coreStore]
    dsimp only
    rw [if_pos hdrain, drained_empty _ hsb hheld, busWrite_reg h hr hb hi hw hm.symm ((blockMay_coreWho b true hm).trans hown)]
    rfl

end

/-- A command that is a register write by any port completes with the effect t of its register, when that effect is the same on every state that
agrees with s. -/
theorem completes_portStore {i : Instr} {s t : State} {p : Port} {addr v : Word} {blk off : Nat} {b : Block} (h : canWrite s p addr = true)
    (he : exec i s = .next (regStore s p addr v)) (hr : regionOf addr.toNat = .periph blk off) (hb : blockAt blk = some b)
    (hi : ∀ u w, u.arch = s.arch → instAbsent u b w off = false) (hq : quiet t = quiet s)
    (hw : ∀ u, u.arch = s.arch → ∃ x, (∀ w, blockWrite u b w off v = .ok x) ∧ x.arch = t.arch) : Completes i s (wroteOk t p) := by
  have hu : (bwrTake s p.m 4).1.arch = s.arch := bwrTake_arch s p.m 4
  obtain ⟨x, hx, hxt⟩ := hw _ hu
  obtain ⟨-, -, -, -, -, -, -, hquiet⟩ := canWrite_facts h hr hb
  have hxq : quiet (setLast x p.m 0 0) = true := by rw [quiet_setLast, quiet_arch hxt, hq, hquiet]
  refine ⟨setLast x p.m 0 0, ?_, setLast_arch_congr hxt ..⟩
  rw [he, regStore, portWrite_reg h hr hb (fun w => hi _ w hu) hx, cueSettle_quiet hxq]

/-! ### The output by itself (R424) -/

theorem updV_putV {α : Type} {n : Nat} (w : Vector α n) (i : Fin n) (x : α) (f : α → α) : updV (putV w i x) i f = putV w i (f x) := by
  simp [updV, putV]

/-- Output d changed to k. -/
def putSpd (s : State) (d : Fin 8) (k : Spd) : State := { s with spd := putV s.spd d k }

theorem spdOwner_none {s : State} {d : Fin 8} (h : ∀ n : Fin 24, n.val < laneCount s.variant → s.lane[n].spd.toNat ≠ d.val + 1) :
    spdOwner s d = none := by
  rw [spdOwner, List.find?_eq_none]
  intro n _
  simpa [lanePresent] using h n

/-- An output that was never written, before the opening or in the dark is clamped (R424). -/
theorem spdForced_of {s : State} {d : Fin 8} (h : s.spd[d].written = false ∨ s.sys.phase ≠ 2 ∨ s.pwr.dom.getLsbD 12 = false) :
    spdForced s d = true := by
  rcases h with h | h | h
  · simp [-Fin.getElem_fin, spdForced, h]
  · have hclosed : curtainOpen s = false := decide_eq_false h
    simp [spdForced, hclosed]
  · have hdark : anaUp s = false := (congrArg (· && _) h).trans (Bool.false_and _)
    simp [spdForced, hdark]

/-- A written output that no lane owns drives after the opening (R424). -/
theorem spdForced_unowned {s : State} {d : Fin 8} (hw : s.spd[d].written = true) (hp : s.sys.phase = 2) (ha : anaUp s = true)
    (ho : spdOwner s d = none) : spdForced s d = false := by
  simp [-Fin.getElem_fin, spdForced, curtainOpen, hw, hp, ha, ho]

/-! ### The start of a range change (R426) -/

/-- Output d and the arbiter after the start of a change to range v: nothing to do, a change of a clamped output, or one by leave. -/
def spdStarted (s : State) (d : Fin 8) (v : Bool) : Spd × Leave :=
  let k := s.spd[d]
  if v = k.now then ({ k with range := v }, s.lv)
  else if spdForced s d then ({ k with range := v, ranging := true, inner := true, switched := false, phase := 0 }, s.lv)
  else
    match lvDecide s.lv 4 0 with
    | .granted => ({ k with range := v, ranging := true, phase := 2 }, (lvGive s (spdReq d) 4 0 none).lv)
    | .waiting => ({ k with range := v, ranging := true, phase := 1 }, { s.lv with waiting := s.lv.waiting ++ [⟨spdReq d, 4, 0, s.now⟩] })
    | .refused =>
      ({ k with range := k.now, ranging := false, phase := 0, pend := none, evt := k.evt.raise 1 }, (lvRefuse s (spdReq d) 0 0).lv)

/-- A start changes its output and the arbiter only. -/
theorem spdStart_eq (s : State) (d : Fin 8) (v : Bool) :
    spdStart s d v = { putSpd s d (spdStarted s d v).1 with lv := (spdStarted s d v).2 } := by
  rw [spdStart, spdStarted]
  dsimp only
  split
  · rfl
  · split
    · rfl
    · let asking := putSpd s d { s.spd[d] with range := v, ranging := true, phase := 1 }
      have hasking : (updSpd s d fun k => { k with range := v, ranging := true, phase := 1 }) = asking := rfl
      rw [hasking]
      cases hd : lvDecide s.lv 4 0 with
      | granted =>
        rw [lvRequest_granted asking (spdReq d) hd]
        simp only [asking, updSpd, lvGive, putSpd, updV_putV]
      | waiting =>
        rw [lvRequest_waiting asking (spdReq d) hd]
        rfl
      | refused =>
        have hq : lvRequest asking (spdReq d) 4 0 = (lvRefuse asking (spdReq d) 0 0, .refused) := by
          rw [lvRequest, show asking.lv = s.lv from rfl, hd]
        rw [hq]
        simp only [asking, spdRevert, updSpd, lvRefuse, putSpd, updV_putV]

section
variable {s : State} {d : Fin 8} {v : Bool}

theorem spdStarted_same (hv : v = s.spd[d].now) : spdStarted s d v = ({ s.spd[d] with range := v }, s.lv) := if_pos hv

theorem spdStarted_clamped (hv : v ≠ s.spd[d].now) (hf : spdForced s d = true) :
    spdStarted s d v = ({ s.spd[d] with range := v, ranging := true, inner := true, switched := false, phase := 0 }, s.lv) :=
  (if_neg hv).trans (if_pos hf)

section
variable (hv : v ≠ s.spd[d].now) (hf : spdForced s d = false)
include hv hf

theorem spdStarted_granted (hd : lvDecide s.lv 4 0 = .granted) :
    spdStarted s d v = ({ s.spd[d] with range := v, ranging := true, phase := 2 }, (lvGive s (spdReq d) 4 0 none).lv) := by
  rw [spdStarted, if_neg hv, if_neg (ne_true_of_eq_false hf), hd]

theorem spdStarted_waiting (hd : lvDecide s.lv 4 0 = .waiting) :
    spdStarted s d v = ({ s.spd[d] with range := v, ranging := true, phase := 1 },
      { s.lv with waiting := s.lv.waiting ++ [⟨spdReq d, 4, 0, s.now⟩] }) := by
  rw [spdStarted, if_neg hv, if_neg (ne_true_of_eq_false hf), hd]

theorem spdStarted_refused (hd : lvDecide s.lv 4 0 = .refused) :
    spdStarted s d v =
      ({ s.spd[d] with range := s.spd[d].now, ranging := false, phase := 0, pend := none, evt := s.spd[d].evt.raise 1 },
        (lvRefuse s (spdReq d) 0 0).lv) := by
  rw [spdStarted, if_neg hv, if_neg (ne_true_of_eq_false hf), hd]

end

/-- A change that starts when its leave fits is under way afterwards if it asks for another range. -/
theorem spdStarted_fits (hw : s.lv.waiting = []) (hfit : s.lv.held.toList.sum + 4 ≤ s.lv.budget) (hn : s.spd[d].ranging = false) :
    let k := (spdStarted s d v).1
    k.range = v ∧ k.ranging = decide (v ≠ s.spd[d].now) ∧ k.now = s.spd[d].now ∧ k.pend = s.spd[d].pend ∧ k.evt = s.spd[d].evt := by
  by_cases hv : v = s.spd[d].now
  · rw [spdStarted_same hv]
    exact ⟨rfl, hn.trans (decide_eq_false (not_not_intro hv)).symm, rfl, rfl, rfl⟩
  have hr : true = decide (v ≠ s.spd[d].now) := (decide_eq_true hv).symm
  cases hf : spdForced s d with
  | true =>
    rw [spdStarted_clamped hv hf]
    exact ⟨rfl, hr, rfl, rfl, rfl⟩
  | false =>
    rw [spdStarted_granted hv hf (lvDecide_granted (by omega) (by simp [hw]) hfit)]
    exact ⟨rfl, hr, rfl, rfl, rfl⟩

end

/-! ### The registers of an output (R425-R427) -/

theorem spdRangeWrite_ranging {s : State} {d : Fin 8} (v : Word) (h : s.spd[d].ranging = true) :
    spdRangeWrite s d v = putSpd s d { s.spd[d] with pend := some (v.getLsbD 0) } := by
  rw [spdRangeWrite, if_pos h]
  rfl

theorem spdRangeWrite_start {s : State} {d : Fin 8} (v : Word) (h : s.spd[d].ranging = false) :
    spdRangeWrite s d v = spdStart s d (v.getLsbD 0) := by
  rw [spdRangeWrite, if_neg (ne_true_of_eq_false h)]

theorem spdStart_arch {s u : State} (h : u.arch = s.arch) (d : Fin 8) (v : Bool) : (spdStart u d v).arch = (spdStart s d v).arch := by
  have hspd : u.spd = s.spd := arch_field (fun t => t.spd) h
  have hstarted : spdStarted u d v = spdStarted s d v := arch_field (fun t => spdStarted t d v) h
  rw [spdStart_eq, spdStart_eq, putSpd, putSpd, hspd, hstarted]
  exact congrArg (fun t : State => ({ t with spd := putV s.spd d (spdStarted s d v).1, lv := (spdStarted s d v).2 } : State)) h

theorem putSpd_arch {s u : State} (h : u.arch = s.arch) (d : Fin 8) (k : Spd) : (putSpd u d k).arch = (putSpd s d k).arch := by
  rw [putSpd, putSpd, arch_field (fun t => t.spd) h]
  exact congrArg (fun t : State => ({ t with spd := putV s.spd d k } : State)) h

/-- What a write of a range makes of a state depends on its architecture alone. -/
theorem spdRangeWrite_arch {s u : State} (h : u.arch = s.arch) (d : Fin 8) (v : Word) :
    (spdRangeWrite u d v).arch = (spdRangeWrite s d v).arch := by
  have hk : u.spd[d] = s.spd[d] := arch_field (fun t => t.spd[d]) h
  cases hr : s.spd[d].ranging with
  | true =>
    rw [spdRangeWrite_ranging v (hk ▸ hr), spdRangeWrite_ranging v hr, hk]
    exact putSpd_arch h d _
  | false =>
    rw [spdRangeWrite_start v (hk ▸ hr), spdRangeWrite_start v hr]
    exact spdStart_arch h d _

theorem quiet_spdStart (s : State) (d : Fin 8) (v : Bool) : quiet (spdStart s d v) = quiet s := by
  rw [spdStart_eq]
  rfl

theorem quiet_spdRangeWrite (s : State) (d : Fin 8) (v : Word) : quiet (spdRangeWrite s d v) = quiet s := by
  cases hr : s.spd[d].ranging with
  | true =>
    rw [spdRangeWrite_ranging v hr]
    rfl
  | false => rw [spdRangeWrite_start v hr, quiet_spdStart]

theorem spdCodeWrite_arch {s u : State} (h : u.arch = s.arch) (d : Fin 8) (v : Word) :
    (spdCodeWrite u d v).arch = (spdCodeWrite s d v).arch := by
  have hk : u.spd[d] = s.spd[d] := arch_field (fun t => t.spd[d]) h
  have hput (t : State) : spdCodeWrite t d v = putSpd t d { t.spd[d] with code := v.setWidth 10, written := true } := rfl
  rw [hput, hput, hk]
  exact putSpd_arch h d _

/-- The address of SPD_CODE(d). -/
def spdBase (d : Fin 8) : Word := 0x40120000 + 0x40 * BitVec.ofNat 32 d.val

theorem spdBase_code (d : Fin 8) : natW (0x40120000 + 0x40 * d.val) = spdBase d := by
  revert d
  decide

theorem spdBase_range (d : Fin 8) : natW (0x40120004 + 0x40 * d.val) = spdBase d + 4 := by
  revert d
  decide

theorem regionOf_spdCode (d : Fin 8) : regionOf (spdBase d).toNat = .periph 0x012 (0x40 * d.val) := by
  revert d
  decide

theorem regionOf_spdRange (d : Fin 8) : regionOf (spdBase d + 4).toNat = .periph 0x012 (0x40 * d.val + 4) := by
  revert d
  decide

/-- The offsets of output d's registers name output d. -/
theorem inst_spd (d : Fin 8) {r : Nat} (hr : r < 0x40) : inst (0x40 * d.val + r - (0x40 * d.val + r) % 0x40) 0 0x40 8 = some d := by
  have hoff : 0x40 * d.val + r - (0x40 * d.val + r) % 0x40 = 0x40 * d.val := by omega
  rw [hoff]
  clear hoff
  revert d
  decide

section
variable {s : State} {d : Fin 8} (hd : d.val < spdCount s.variant)
include hd

theorem instAbsent_spd (w : Who) {r : Nat} (hr : r = 0 ∨ r = 4) : instAbsent s .spd w (0x40 * d.val + r) = false := by
  have hoff : (0x40 * d.val + r) / 4 * 4 = 0x40 * d.val + r := by omega
  have hmod : (0x40 * d.val + r) % 0x40 = r := by omega
  have hread : blockRead s .spd w (0x40 * d.val + r) = spdRead s w (0x40 * d.val + r) := rfl
  rw [instAbsent, hoff, hread, spdRead, inst_spd d (by omega), hmod]
  rcases hr with rfl | rfl <;> simp [spdPresent, hd]

theorem blockWrite_spdCode (w : Who) (v : Word) : blockWrite s .spd w (0x40 * d.val) v = .ok (spdCodeWrite s d v) := by
  have hinst : inst (0x40 * d.val - 0x40 * d.val % 0x40) 0 0x40 8 = some d := inst_spd d (r := 0) (by decide)
  have hmod : 0x40 * d.val % 0x40 = 0 := Nat.mul_mod_right ..
  have hwrite : blockWrite s .spd w (0x40 * d.val) v = spdWrite s w (0x40 * d.val) v := rfl
  rw [hwrite, spdWrite, hinst, hmod]
  simp [spdPresent, hd]

theorem blockWrite_spdRange (w : Who) (v : Word) : blockWrite s .spd w (0x40 * d.val + 4) v = .ok (spdRangeWrite s d v) := by
  have hmod : (0x40 * d.val + 4) % 0x40 = 4 := by omega
  have hwrite : blockWrite s .spd w (0x40 * d.val + 4) v = spdWrite s w (0x40 * d.val + 4) v := rfl
  rw [hwrite, spdWrite, inst_spd d (by decide), hmod]
  simp [spdPresent, hd]

theorem completes_spdCode {p : Port} {v : Word} (h : canWrite s p (spdBase d) = true) :
    Completes (.spdCode p d v) s (wroteOk (spdCodeWrite s d v) p) := by
  have he : exec (.spdCode p d v) s = .next (regStore s p (spdBase d) v) := by
    rw [← spdBase_code]
    rfl
  have present {u : State} (hu : u.arch = s.arch) : d.val < spdCount u.variant := variant_arch hu ▸ hd
  exact completes_portStore h he (regionOf_spdCode d) rfl (fun u w hu => instAbsent_spd (present hu) w (.inl rfl)) rfl
    fun u hu => ⟨_, fun w => blockWrite_spdCode (present hu) w v, spdCodeWrite_arch hu d v⟩

theorem completes_spdRange {p : Port} {v : Word} (h : canWrite s p (spdBase d + 4) = true) :
    Completes (.spdRange p d v) s (wroteOk (spdRangeWrite s d v) p) := by
  have he : exec (.spdRange p d v) s = .next (regStore s p (spdBase d + 4) v) := by
    rw [← spdBase_range]
    rfl
  have present {u : State} (hu : u.arch = s.arch) : d.val < spdCount u.variant := variant_arch hu ▸ hd
  exact completes_portStore h he (regionOf_spdRange d) rfl (fun u w hu => instAbsent_spd (present hu) w (.inr rfl))
    (quiet_spdRangeWrite s d v) fun u hu => ⟨_, fun w => blockWrite_spdRange (present hu) w v, spdRangeWrite_arch hu d v⟩

end

/-! ### The events of a change (R426, R427) -/

/-- An event of the ANALOG domain of a running device that leaves nothing waiting. -/
theorem anaEvent_quiet {s : State} {f : State → State} (ha : anaUp s = true) (hm : s.pwr.mode = .run) (hq : quiet (f s) = true) :
    anaEvent s f = f s := by
  rw [anaEvent, if_pos (by simp [ha, hm]), cueSettle_quiet hq]

theorem spdSwitch_inner {s : State} {d : Fin 8} (hr : s.spd[d].ranging = true) (hi : s.spd[d].inner = true) (hs : s.spd[d].switched = false) :
    spdSwitch s d = putSpd s d { s.spd[d] with now := s.spd[d].range, switched := true } := by
  rw [spdSwitch, if_pos (by rw [hr, hi, hs]; rfl)]
  rfl

theorem spdSwitch_driving {s : State} {d : Fin 8} (hr : s.spd[d].ranging = true) (hi : s.spd[d].inner = false) (hp : s.spd[d].phase = 2) :
    spdSwitch s d = putSpd s d { s.spd[d] with now := s.spd[d].range, phase := 3 } := by
  rw [spdSwitch, if_neg (by rw [hi]; simp), if_pos (by rw [hr, hi, hp]; rfl)]
  rfl

/-- An output whose change has settled. -/
def spdEnded (k : Spd) : Spd :=
  { k with ranging := false, inner := false, switched := false, phase := 0, pend := none, evt := k.evt.raise 0 }

/-- The change that was pending starts when the one in progress has ended (R427). -/
def spdNext (s : State) (d : Fin 8) : Option Bool → State
  | some x => spdStart s d x
  | none => s

/-- The state in which the change of a clamped output has settled. -/
def spdSettled (s : State) (d : Fin 8) : State := putSpd s d (spdEnded s.spd[d])

/-- The state in which the change of a driving output has settled and its leave is given back. -/
def spdReleased (s : State) (d : Fin 8) : State :=
  { spdSettled s d with lv := { s.lv with held := putV s.lv.held (spdReq d) 0 } }

theorem spdSettle_inner {s : State} {d : Fin 8} (hr : s.spd[d].ranging = true) (hi : s.spd[d].inner = true) (hs : s.spd[d].switched = true) :
    spdSettle s d = spdNext (spdSettled s d) d s.spd[d].pend := by
  rw [spdSettle]
  dsimp only
  rw [hr, hi, hs]
  rfl

theorem spdSettle_driving {s : State} {d : Fin 8} (hr : s.spd[d].ranging = true) (hi : s.spd[d].inner = false) (hp : s.spd[d].phase = 3)
    (hw : s.lv.waiting = []) : spdSettle s d = spdNext (spdReleased s d) d s.spd[d].pend := by
  have hrel : leaveRelease (spdSettled s d) (spdReq d) = spdReleased s d := leaveRelease_unwaited hw
  rw [← hrel, spdSettle]
  dsimp only
  rw [hr, hi, hp]
  rfl

theorem sum_set_zero_le (l : List Nat) (i : Nat) : (l.set i 0).sum ≤ l.sum := by
  induction l generalizing i with
  | nil => exact Nat.le_refl _
  | cons x xs ih =>
    cases i with
    | zero =>
      rw [List.set_cons_zero, List.sum_cons, List.sum_cons]
      omega
    | succ i =>
      rw [List.set_cons_succ, List.sum_cons, List.sum_cons]
      exact Nat.add_le_add_left (ih i) x

/-- A requester that gives back its units leaves no more granted than before. -/
theorem sum_putV_zero_le {n : Nat} (v : Vector Nat n) (i : Fin n) : (putV v i 0).toList.sum ≤ v.toList.sum := by
  rw [putV, Vector.toList_set]
  exact sum_set_zero_le ..

/-- What is pending when a change settles starts then, where its leave fits (R427). -/
theorem spdNext_pending {s t : State} {d : Fin 8} {x : Bool} (hs : t.spd = putV s.spd d (spdEnded s.spd[d])) (hw : t.lv.waiting = [])
    (hfit : t.lv.held.toList.sum + 4 ≤ t.lv.budget) :
    ∃ k : Spd, (spdNext t d (some x)).spd = putV s.spd d k ∧ k.evt = s.spd[d].evt.raise 0 ∧ k.range = x ∧ k.pend = none ∧
      k.now = s.spd[d].now ∧ k.ranging = decide (x ≠ s.spd[d].now) := by
  have hd : t.spd[d] = spdEnded s.spd[d] := by rw [hs, putV_same]
  obtain ⟨hrange, hranging, hnow, hpend, hevt⟩ := spdStarted_fits (v := x) hw hfit (congrArg Spd.ranging hd)
  rw [hd] at hranging hnow hpend hevt
  refine ⟨(spdStarted t d x).1, ?_, hevt, hrange, hpend, hnow, hranging⟩
  rw [spdNext, spdStart_eq, putSpd, hs]
  exact Vector.set_set ..

theorem quiet_spdNext (s : State) (d : Fin 8) (o : Option Bool) : quiet (spdNext s d o) = quiet s := by
  cases o with
  | none => rfl
  | some x => exact quiet_spdStart s d x

section
variable {s : State} {d : Fin 8} (ha : anaUp s = true) (hm : s.pwr.mode = .run) (hq : quiet s = true)
include ha hm hq

theorem leaves_rangeSwitch {k : Spd} (h : spdSwitch s d = putSpd s d k) : Leaves (.rangeSwitch d) s (putSpd s d k) := by
  have hx : exec (.rangeSwitch d) s = .next (anaEvent s fun s => spdSwitch s d) := rfl
  rw [Leaves, hx, anaEvent_quiet ha hm (by rw [h]; exact hq), h]

theorem leaves_rangeSettled {t : State} {o : Option Bool} (h : spdSettle s d = spdNext t d o) (ht : quiet t = quiet s) :
    Leaves (.rangeSettled d) s (spdNext t d o) := by
  have hx : exec (.rangeSettled d) s = .next (anaEvent s fun s => spdSettle s d) := rfl
  rw [Leaves, hx, anaEvent_quiet ha hm (by rw [h, quiet_spdNext, ht, hq]), h]

/-- A change that ends with another one pending (R427). -/
theorem rangeSettled_pending {x : Bool} (hr : s.spd[d].ranging = true) (hp : s.spd[d].pend = some x)
    (hend : (s.spd[d].inner = true ∧ s.spd[d].switched = true) ∨ (s.spd[d].inner = false ∧ s.spd[d].phase = 3))
    (hw : s.lv.waiting = []) (hfit : s.lv.held.toList.sum + 4 ≤ s.lv.budget) :
    ∃ t k, exec (.rangeSettled d) s = .next t ∧ t.spd = putV s.spd d k ∧ k.evt = s.spd[d].evt.raise 0 ∧ k.range = x ∧ k.pend = none ∧
      k.now = s.spd[d].now ∧ k.ranging = decide (x ≠ s.spd[d].now) := by
  rcases hend with ⟨hi, hs⟩ | ⟨hi, hph⟩
  · obtain ⟨k, hk⟩ := spdNext_pending (s := s) (t := spdSettled s d) (x := x) rfl hw hfit
    have he := spdSettle_inner hr hi hs
    rw [hp] at he
    exact ⟨_, k, leaves_rangeSettled ha hm hq he rfl, hk⟩
  · have hless := Nat.add_le_add_right (sum_putV_zero_le s.lv.held (spdReq d)) 4
    obtain ⟨k, hk⟩ := spdNext_pending (s := s) (t := spdReleased s d) (x := x) rfl hw (Nat.le_trans hless hfit)
    have he := spdSettle_driving hr hi hph hw
    rw [hp] at he
    exact ⟨_, k, leaves_rangeSettled ha hm hq he rfl, hk⟩

end

/-- An output that ends its change with nothing pending. -/
theorem spdEnded_unpended {k : Spd} (h : k.pend = none) :
    spdEnded k = { k with ranging := false, inner := false, switched := false, phase := 0, evt := k.evt.raise 0 } := by
  rw [spdEnded, ← h]

/-- Settles O45: each write of a range starts its change, waits for its turn, or is refused, and each event of a change takes it on. -/
theorem setpointOutputs : Obligations.SetpointOutputs := by
  unfold Obligations.SetpointOutputs
  intro s p d v k spd base r held hd
  refine ⟨completes_spdCode hd, fun h => ?_, fun ha hm hq hr => ⟨fun hi hs => ?_, fun hi hp => ?_, fun x hp hend hw hfit => ?_,
    fun hp => ⟨fun hi hs => ?_, fun hi hph hw => ?_⟩⟩⟩
  · have done {t : State} (he : spdRangeWrite s d v = t) : Completes (.spdRange p d v) s (wroteOk t p) := he ▸ completes_spdRange hd h
    refine ⟨fun hr => done (spdRangeWrite_ranging v hr), fun hr => ?_⟩
    have start {x : Spd × Leave} (he : spdStarted s d (v.getLsbD 0) = x) :
        Completes (.spdRange p d v) s (wroteOk { putSpd s d x.1 with lv := x.2 } p) :=
      done ((spdRangeWrite_start v hr).trans (he ▸ spdStart_eq s d _))
    refine ⟨fun hv => start (spdStarted_same hv), fun hv hc => start (spdStarted_clamped hv (spdForced_of hc)), fun hv hw hp ha ho => ?_⟩
    have hf : spdForced s d = false := spdForced_unowned hw hp ha (spdOwner_none ho)
    refine ⟨fun hn hfit => ?_, fun hb => ?_, fun hn hfull hb hl => ?_⟩
    · exact start (spdStarted_granted hv hf (lvDecide_granted (by omega) (by simp [hn]) hfit))
    · obtain ⟨t, ht, hta⟩ := start (spdStarted_refused hv hf (if_pos hb))
      have hheld := arch_field (fun u : State => u.lv.held) hta
      exact ⟨t, ht, arch_field (fun u => u.spd) hta, hheld⟩
    · have hwait := spdStarted_waiting hv hf (lvDecide_waiting hb hfull hl)
      rw [hn] at hwait
      exact start hwait
  · exact leaves_rangeSwitch ha hm hq (spdSwitch_inner hr hi hs)
  · exact leaves_rangeSwitch ha hm hq (spdSwitch_driving hr hi hp)
  · obtain ⟨t, j, ht, hspd, hevt, hrange, hpend, hnow, hranging⟩ := rangeSettled_pending ha hm hq hr hp hend hw hfit
    have hj : t.spd[d] = j := by rw [hspd, putV_same]
    exact ⟨t, ht, hj ▸ hevt, hj ▸ hrange, hj ▸ hpend, hj ▸ hnow, hj ▸ hranging, fun e he => by rw [hspd, putV_other _ _ _ _ he]⟩
  · have hl := leaves_rangeSettled ha hm hq (spdSettle_inner hr hi hs) rfl
    rwa [hp, spdSettled, spdEnded_unpended hp] at hl
  · have hl := leaves_rangeSettled ha hm hq (spdSettle_driving hr hi hph hw) rfl
    rwa [hp, spdReleased, spdSettled, spdEnded_unpended hp] at hl

end Sys2Proof.Machine
